-- ==== Sys2Proof/Word.lean ====
section
/-! DEFINITION. The words of the block: a byte (8 bits in the spaces CS, SEC and OUT, 10_state.md R60), the 32-bit
word of the ANS state (10_state.md R36), the bits of a binary32 float (45_transforms.md R347), and a string of
codestream bits, the first bit read at the head (00_scope.md R12). -/

namespace Sys2Proof

/-- A byte of CS, SEC or OUT: 8 bits (10_state.md R60). -/
abbrev Byte := BitVec 8

/-- The ANS state's width, "a single 32-bit state" (10_state.md R36). -/
abbrev Word := BitVec 32

/-- The bits of an IEEE 754 binary32 number (45_transforms.md R347, decision D22). -/
abbrev F32 := BitVec 32

/-- A bit string in reading order. -/
abbrev Bits := List Bool

end Sys2Proof
end

