-- ==== Sys2Proof/Syntax.lean ====
section
/-! DEFINITION. The operations of the block, one constructor per row of spec/opcode_table.json
(30_encoding.md R102), and the data their operands are made of. The spec's operation codes OPC are labels
(30_encoding.md R100); Decode.lean holds them. -/

namespace Sys2Proof

/-- Byte order of output samples (10_state.md R27, 20_memory.md R72). -/
inductive Endian
  | little
  | big
  deriving DecidableEq, Repr, Inhabited

/-- OPT.PIXEL_FORMAT: a triple of channel layout, sample type, endianness (10_state.md R27). The source lists no
legal values of the first two, so they are numbers. -/
structure PixelFormat where
  layout : Nat
  sampleType : Nat
  endian : Endian
  deriving DecidableEq, Repr, Inhabited

/-- The seven decode options of 10_state.md R27. `cms` is a handle to the colour-management port when present. -/
structure Options where
  pixelLimit : Nat
  skipPreview : Bool
  renderSpotColors : Bool
  highPrecision : Bool
  premultiplyOutput : Bool
  cms : Option Nat
  pixelFormat : Option PixelFormat
  deriving DecidableEq, Repr, Inhabited

/-- A caller output plane `(base, stride_bytes, row_bytes, rows)` (30_encoding.md R107). -/
structure Plane where
  base : Nat
  strideBytes : Nat
  rowBytes : Nat
  rows : Nat
  deriving DecidableEq, Repr, Inhabited

/-- The decode scopes the spec names (10_state.md R40), and the scope of a Modular image's residuals
(44_modular.md R290). AC coefficients have one scope per pass. -/
inductive ScopeId
  | tree
  | toc
  | icc
  | modular
  | ac (pass : Nat)
  deriving DecidableEq, Repr, Inhabited

/-- Sample types of image buffers (47_image_buffer.md R390): floats, signed integers, small naturals. -/
inductive SampleType
  | float
  | int
  | nat
  deriving DecidableEq, Repr, Inhabited

/-- Access mode of a buffer view (47_image_buffer.md R392). -/
inductive Access
  | read
  | write
  deriving DecidableEq, Repr, Inhabited

/-- The predictors a leaf may name (44_modular.md R289). The source names Zero and Weighted; the others and the
order are the spec's usual list. -/
inductive Predictor
  | zero
  | left
  | top
  | average0
  | select
  | gradient
  | weighted
  | topRight
  | topLeft
  | leftLeft
  | average1
  | average2
  | average3
  | average4
  deriving DecidableEq, Repr, Inhabited

/-- A leaf of the context tree, `Leaf{predictor, offset, multiplier, context_id}` (10_state.md R41). -/
structure Leaf where
  predictor : Predictor
  offset : Int
  multiplier : Nat
  ctx : Nat
  deriving DecidableEq, Repr, Inhabited

/-- A render stage's function `f`, or an Extend stage's padding logic (46_render_pipeline.md R361, R362, R367). The
source does not say what a stage computes: it is named by a number, or names a reference slot it reads. R377 lets the
output depend on REF and gives no number of slots: that one stage reads the planes of at most one slot is the model's
choice (DESIGN CHOICE, notes/assumptions/58.md). The others are the two transactions of the colour-management port (R373,
R374), the stage that mixes spot colours by a formula that BuildPipeline names by a number (R372), and the one that
multiplies colour by alpha (R375). -/
inductive StageFn
  | named (id : Nat)
  | withRef (id slot : Nat)
  | cms
  | cmsInplace
  | spot (id : Nat)
  | premultiply
  deriving DecidableEq, Repr, Inhabited

/-- The frame's rectangle on the canvas: its corner may lie outside the canvas (46_render_pipeline.md R367,
95_test_vectors.md V-RP-1). -/
structure Place where
  x0 : Int
  y0 : Int
  w : Nat
  h : Nat
  deriving DecidableEq, Repr, Inhabited

/-- The function of an InPlace or InOut stage with the channel set of its row segment (46_render_pipeline.md R362,
R363). -/
structure StageOn where
  fn : StageFn
  channels : List Nat
  deriving DecidableEq, Repr, Inhabited

/-- A row and the columns x0 to x1 of it (46_render_pipeline.md R362, R363). -/
structure RowPart where
  y : Nat
  x0 : Nat
  x1 : Nat
  deriving DecidableEq, Repr, Inhabited

/-- An Extend stage's padding logic and the frame's rectangle (46_render_pipeline.md R367, R371). -/
structure Placing where
  pad : StageFn
  rect : Place
  deriving DecidableEq, Repr, Inhabited

/-- The 67 operations of 30_encoding.md R102. Operands are those the operation's rule names; a section is named
by its stored index, a buffer by its handle, a histogram by its scope and index. -/
inductive Instr
  -- format H: host commands
  | process (src : Nat) (opts : Options) (out : Option (List Plane))
  | reset
  | outQuery
  -- format P: port transactions
  | srcAvail
  | srcRead (caps : List Nat)
  | srcSkip (n : Nat)
  | cmsXform (input output : Nat)
  | cmsXformInplace (buffer : Nat)
  -- format S: parser phase steps
  | pFileHeader
  | pColorProfile
  | pFrameHeader
  | pToc
  | pBuffer
  | pDispatch
  | pSkip
  | pFrameDone
  | pFinish
  | pFill (want : Nat)
  -- format K: section decodes
  | sLfGlobal (sec : Nat)
  | sLfGroup (sec g : Nat)
  | sHfGlobal (sec : Nat)
  | sHfGroup (sec g p : Nat)
  -- format E: entropy coders
  | ansHist (sc : ScopeId) (las : Nat)
  | ansHistSingle (sc : ScopeId) (las : Nat)
  | ansHistTwo (sc : ScopeId) (las : Nat)
  | ansHistFlat (sc : ScopeId) (las : Nat)
  | ansHistComplex (sc : ScopeId) (las : Nat)
  | ansAlias (sc : ScopeId) (hist las : Nat)
  | ansInit (sc : ScopeId)
  | ansRead (sc : ScopeId) (ctx : Nat)
  | ansFinal (sc : ScopeId)
  | huffSimple (sc : ScopeId) (alphabet : Nat)
  | huffLengths (sc : ScopeId) (alphabet skip : Nat)
  | huffBuild (sc : ScopeId) (lens : List Nat)
  | huffRead (sc : ScopeId) (ctx : Nat)
  -- format B: block steps
  | bPredNz (c bx byy : Nat)
  | bNz (c pred t : Nat)
  | bCoeffs (c t nz p : Nat)
  | bDequant (bx byy t : Nat)
  | bXform (bx byy t : Nat)
  -- format M: Modular
  | mTree
  | mProps (ch x y : Nat)
  | mWalk (props : List Int)
  | mPredict (leaf : Leaf) (props : List Int)
  | mWp (x y : Nat)
  | mWpUpdate (x y : Nat) (value : Int)
  | mPalette (index pal numColors numDeltas : Nat) (predictor : Predictor) (bitDepth : Nat)
  | mHsqueeze (avg res w : Nat)
  | mVsqueeze (avg res h : Nat)
  -- format T: transforms
  | xIdct (h w coeff out : Nat)
  | xAfv (k coeff out : Nat)
  | xIdentity (coeff out : Nat)
  | xDct2x2 (coeff out : Nat)
  | xDct4x4 (coeff out : Nat)
  | xDct8x4 (coeff out : Nat)
  | xDct4x8 (coeff out : Nat)
  -- format R: render stages
  | rInplace (f : StageOn) (y x0 x1 : Nat)
  | rInout (f : StageOn) (borderX borderY shiftX shiftY : Nat) (up : Bool) (part : RowPart)
  | rSave (channel plane y x0 x1 : Nat)
  | rExtend (rect : Placing) (canvasW canvasH y : Nat)
  | rGroup (g : Nat)
  | rOutside (canvasW canvasH : Nat) (rect : Placing)
  -- format I: image buffers
  | iAlloc (width height : Nat) (ty : SampleType)
  | iRow (b y : Nat) (mode : Access)
  | iRows (b : Nat) (rows : List Nat) (mode : Access)
  | iRect (b x0 y0 w h : Nat) (mode : Access)
  | iFree (b : Nat)
  deriving DecidableEq, Repr

/-- Format I operations (30_encoding.md R106): the ones whose views outlive the operation, since they are taken
for the operation that asked for them (47_image_buffer.md R396). -/
def Instr.isBufferOp : Instr → Bool
  | .iAlloc _ _ _ | .iRow _ _ _ | .iRows _ _ _ | .iRect _ _ _ _ _ _ | .iFree _ => true
  | _ => false

/-- The three commands of HOST, format H (30_encoding.md R106, 60_exceptions.md R430). -/
def Instr.isHostCommand : Instr → Bool
  | .process _ _ _ | .reset | .outQuery => true
  | _ => false

end Sys2Proof
end

