-- ==== Sys2Proof/Machine/Types.lean ====
section
/-! DEFINITION. The data the block's state elements and configuration functions are made of: error kinds, parsed
headers, sections, entropy tables, the context tree, Modular and VarDCT records, render stages
(10_state.md R22 to R49). Plain records, no behaviour. -/

namespace Sys2Proof.Machine

/-- The fatal error kinds of 60_exceptions.md R410. -/
inductive Kind
  | format
  | resourceLimit
  | checksum
  | transform
  deriving DecidableEq, Repr, Inhabited

/-- The contents of ERR (10_state.md R25, 60_exceptions.md R410), in code order. -/
inductive ErrKind
  | none
  | format
  | resourceLimit
  | incompleteInput
  | checksum
  | transform
  deriving DecidableEq, Repr, Inhabited

/-- PHASE (10_state.md R22), in code order 0 to 6. -/
inductive Phase
  | needFileHeader
  | needColorProfile
  | needFrameHeaderToc
  | awaitingSections
  | frameDone
  | finished
  | faulted
  deriving DecidableEq, Repr, Inhabited

/-- MODE (10_state.md R23): DECODE = 0, SKIP = 1. -/
inductive Mode
  | decode
  | skip
  deriving DecidableEq, Repr, Inhabited

/-- The two occasions on which PROCESS returns Ok (40_parser.md R131). -/
inductive Event
  | imageInfo
  | frameReady
  deriving DecidableEq, Repr, Inhabited

/-- RESULT (10_state.md R24). -/
inductive CmdResult
  | ok (e : Event)
  | err (kind : ErrKind) (need : Nat)
  deriving DecidableEq, Repr, Inhabited

/-- What a prefix-stable parser function answers on a bit string (40_parser.md R143): a value and the bits it
occupied, more bits needed, or a malformed string with the kind of the (possibly nested) error. -/
inductive Answer (α : Type)
  | needMore
  | malformed (k : Kind)
  | parsed (v : α) (nbits : Nat)
  deriving DecidableEq, Repr, Inhabited

/-- The fields of a section member the source names without contents (91_not_in_source.md N8). -/
abbrev Blob := List Int

/-- Bit depth of the image header (10_state.md R28). -/
structure BitDepth where
  isFloat : Bool
  bits : Nat
  expBits : Nat
  deriving DecidableEq, Repr, Inhabited

/-- Colour encoding: simple (with parameters) or embedded ICC (10_state.md R28). -/
inductive ColorEncoding
  | simple (params : List Nat)
  | icc (profile : List Byte)
  deriving DecidableEq, Repr, Inhabited

/-- IMAGE_HEADER (10_state.md R28). -/
structure ImageHeader where
  width : Nat
  height : Nat
  bitDepth : BitDepth
  color : ColorEncoding
  extra : List Nat
  animation : Option Blob
  preview : Option (Nat × Nat)
  deriving DecidableEq, Repr, Inhabited

/-- A rectangle of pixels inside a frame or a buffer. -/
structure Rect where
  x0 : Nat
  y0 : Nat
  w : Nat
  h : Nat
  deriving DecidableEq, Repr, Inhabited

/-- Frame encoding (10_state.md R29). -/
inductive Encoding
  | varDct
  | modular
  deriving DecidableEq, Repr, Inhabited

/-- The header of FRAME (10_state.md R29) with the four flags and the slot that `ParseFrameHeader` returns
(40_parser.md R148, R171). `groups` and `lfGroups` are the group geometry (91_not_in_source.md N25); their lengths
are `num_groups` and `num_lf_groups`. -/
structure FrameHeader where
  width : Nat
  height : Nat
  encoding : Encoding
  numPasses : Nat
  passShifts : List Nat
  groupDim : Nat
  groups : List Rect
  lfGroups : List Rect
  preview : Bool
  canRef : Bool
  display : Bool
  last : Bool
  slot : Nat
  deriving DecidableEq, Repr, Inhabited

/-- What `ParseTOC` returns: the section lengths in stored order and the optional permutation (40_parser.md R156). -/
structure TocFields where
  len : List Nat
  perm : Option (List Nat)
  deriving DecidableEq, Repr, Inhabited

/-- TOC (10_state.md R30), with the byte index `base` at which the first section starts (40_parser.md R158). -/
structure Toc where
  len : List Nat
  perm : Option (List Nat)
  base : Nat
  deriving DecidableEq, Repr, Inhabited

/-- Section kinds (30_encoding.md R109); `combined` is the single section that holds all four kinds. -/
inductive SecKind
  | lfGlobal
  | lf (g : Nat)
  | hfGlobal
  | hf (g p : Nat)
  | combined
  deriving DecidableEq, Repr, Inhabited

/-- SECT[i].state (10_state.md R31). -/
inductive SecState
  | pending
  | decoded
  | skipped
  deriving DecidableEq, Repr, Inhabited

/-- One entry of SECT with its section store of space SEC (10_state.md R31, R60). `start` is the codestream byte
at which the section begins (40_parser.md R158). -/
structure Section where
  kind : SecKind
  logical : Nat
  start : Nat
  total : Nat
  ready : Nat
  state : SecState
  bytes : List Byte
  deriving DecidableEq, Repr, Inhabited

/-- STAGE, the parser's staging buffer (10_state.md R48). -/
structure Stage where
  base : Nat
  bytes : List Byte
  deriving DecidableEq, Repr, Inhabited

/-- The bit position of a section being decoded, over its store (40_parser.md R163, R166). -/
structure Reader where
  bytes : List Byte
  pos : Nat
  deriving DecidableEq, Repr, Inhabited

/-- ALIAS, the compiled table of one histogram: per bucket the other symbol, its offset and the cutoff
(10_state.md R38, 41_ans.md R198). -/
structure AliasTable where
  sym : List Nat
  off : List Nat
  cut : List Nat
  deriving DecidableEq, Repr, Inhabited

/-- HIST and ALIAS of one histogram of a scope (10_state.md R37, R38). -/
structure Code where
  las : Nat
  dist : List Nat
  table : Option AliasTable
  deriving DecidableEq, Repr, Inhabited

/-- An entry of a Huffman table (10_state.md R39). -/
structure HuffEntry where
  bits : Nat
  value : Nat
  deriving DecidableEq, Repr, Inhabited

/-- HTAB of one context: the root table of `2^tableBits` entries and the second-level tables; a pointer entry's
`value` is the index of its second-level table (10_state.md R39). -/
structure HuffTable where
  tableBits : Nat
  root : List HuffEntry
  subs : List (List HuffEntry)
  deriving DecidableEq, Repr, Inhabited

/-- Which entropy coder a scope uses (10_state.md R40). -/
inductive Coder
  | ans
  | huff
  deriving DecidableEq, Repr, Inhabited

/-- The tables of one decode scope and its ANS_STATE (10_state.md R36 to R40). -/
structure ScopeTables where
  coder : Coder
  codes : List Code
  htabs : List HuffTable
  ansState : Option Word
  deriving DecidableEq, Repr, Inhabited

/-- How a scope's coder is set up, supplied by the syntax the source does not give (decision D42): the coder, one
`log_alphabet_size` per histogram to decode, one alphabet size per Huffman code to decode, and Huffman tables that
are preset. -/
structure ScopeSpec where
  coder : Coder
  las : List Nat
  alphabets : List Nat
  preset : List HuffTable
  deriving DecidableEq, Repr, Inhabited

/-- The four ANS histogram encodings (30_encoding.md R110). -/
inductive HistKind
  | single
  | two
  | flat
  | complex
  deriving DecidableEq, Repr, Inhabited

/-- The two Huffman code kinds (30_encoding.md R111). -/
inductive HuffKind
  | simple
  | general (skip : Nat)
  deriving DecidableEq, Repr, Inhabited

/-- A node of TREE (10_state.md R41). -/
inductive Node
  | split (property : Nat) (threshold : Int) (left right : Nat)
  | leaf (l : Leaf)
  deriving DecidableEq, Repr, Inhabited

/-- TREE: its nodes by index; the root is node 0. -/
abbrev Tree := List Node

/-- The six contexts of tree decoding (44_modular.md R282). -/
inductive TreeField
  | property
  | threshold
  | predictor
  | offset
  | multLog
  | multBits
  deriving DecidableEq, Repr, Inhabited

/-- The header of the weighted predictor: "configurable small integer coefficients" and the four maximal weights
(10_state.md R42, 44_modular.md R293, R294). -/
structure WpHeader where
  coeffs : List Int
  weights : List Nat
  deriving DecidableEq, Repr, Inhabited

/-- WP (10_state.md R42): accumulators and true errors of the previous and the current row, and the estimates and
prediction of the pixel in progress. -/
structure Wp where
  header : WpHeader
  width : Nat
  accPrev : List (List Nat)
  accCur : List (List Nat)
  errPrev : List Int
  errCur : List Int
  est : List Int
  pred : Int
  prop : Int
  deriving DecidableEq, Repr, Inhabited

/-- A Modular channel's size and shifts, as the section syntax supplies it. -/
structure ChannelSpec where
  w : Nat
  h : Nat
  hshift : Nat
  vshift : Nat
  deriving DecidableEq, Repr, Inhabited

/-- A channel of MODIMG: its buffer and its shifts (10_state.md R43). -/
structure Channel where
  buf : Nat
  hshift : Nat
  vshift : Nat
  deriving DecidableEq, Repr, Inhabited

/-- A reversible transform to undo after decoding (10_state.md R43): operands as in M.PALETTE, M.HSQUEEZE and
M.VSQUEEZE, channels by index. -/
inductive ModTransform
  | palette (index pal numColors numDeltas : Nat) (predictor : Predictor) (bitDepth : Nat)
  | hsqueeze (avg res w : Nat)
  | vsqueeze (avg res h : Nat)
  deriving DecidableEq, Repr, Inhabited

/-- MODIMG (10_state.md R43). `stream` is the logical index of the section the image is decoded from. -/
structure ModImage where
  stream : Nat
  channels : List Channel
  transforms : List ModTransform
  deriving DecidableEq, Repr, Inhabited

/-- Which tree a Modular scope uses (44_modular.md R281). -/
inductive TreeChoice
  | own
  | shared
  | absent
  deriving DecidableEq, Repr, Inhabited

/-- Where a decoded channel's samples go: to the frame's pixel plane `plane` at (x0, y0). -/
structure Placement where
  channel : Nat
  plane : Nat
  x0 : Nat
  y0 : Nat
  deriving DecidableEq, Repr, Inhabited

/-- The section syntax of a Modular scope, which the source does not give (91_not_in_source.md N16): tree choice,
channel list, transforms, weighted-predictor header, and the channels' places in the frame. One weighted-predictor header
serves all channels of the scope (DESIGN CHOICE, notes/assumptions/65.md). -/
structure ModSpec where
  tree : TreeChoice
  channels : List ChannelSpec
  transforms : List ModTransform
  wp : WpHeader
  place : List Placement
  deriving DecidableEq, Repr, Inhabited

/-- The Modular scopes of a frame's sections (44_modular.md R298). -/
inductive ModPlace
  | global
  | lf (g : Nat)
  | hf (g p : Nat)
  deriving DecidableEq, Repr, Inhabited

/-- What the syntax of a Modular scope sees beside its bits: its place and the two headers, whose sizes, extra channels
and group rectangles a channel list may follow (44_modular.md R298; DESIGN CHOICE, notes/assumptions/67.md). -/
structure ModSite where
  place : ModPlace
  image : Option ImageHeader
  frame : Option FrameHeader
  deriving DecidableEq, Repr, Inhabited

/-- The six members of LFGLOBAL that are parsed in order before the shared tree (43_group_decoder.md R242). -/
inductive LfMember
  | patches
  | splines
  | noise
  | quantizer
  | blockCtx
  | colorCorr
  deriving DecidableEq, Repr, Inhabited

/-- LFGLOBAL (10_state.md R32). -/
structure LfGlobal where
  patches : Blob
  splines : Blob
  noise : Blob
  quantizer : Blob
  blockCtx : Blob
  colorCorr : Blob
  sharedTree : Option Tree
  deriving DecidableEq, Repr, Inhabited

/-- The operations of the catalog's last column (45_transforms.md R332). -/
inductive XKind
  | idct
  | afv (k : Nat)
  | identity
  | dct2x2
  | dct4x4
  | dct8x4
  | dct4x8
  deriving DecidableEq, Repr, Inhabited

/-- A catalog entry: the operation, and the rows and columns of samples it covers (45_transforms.md R332). -/
structure XType where
  kind : XKind
  h : Nat
  w : Nat
  deriving DecidableEq, Repr, Inhabited

/-- XFORM_CATALOG: entries by transform id (00_scope.md R9). -/
abbrev Catalog := List (Nat × XType)

/-- The key of a scan order: the shape's rows and columns in samples, and the channel (43_group_decoder.md R244,
45_transforms.md R333). -/
structure OrderKey where
  h : Nat
  w : Nat
  channel : Nat
  deriving DecidableEq, Repr, Inhabited

/-- HFGLOBAL (10_state.md R33): scan orders per pass and dequant matrices per (transform id, channel). The per-pass
histograms are the scopes `ac p` (10_state.md R40). -/
structure HfGlobal where
  dequant : List ((Nat × Nat) × List F32)
  order : List (List (OrderKey × List Nat))
  deriving DecidableEq, Repr, Inhabited

/-- A first block as the HF metadata gives it: frame block position, transform type, quant index. -/
structure BlockMeta where
  bx : Nat
  byy : Nat
  t : Nat
  q : Nat
  deriving DecidableEq, Repr, Inhabited

/-- HFMETA (10_state.md R34): three 2D maps over the frame, as image buffers (43_group_decoder.md R241). Per block
position the transform type, a mark (1) on the first block of each transform, and the quant index; per tile the
colour-correlation factors of X and of B. -/
structure HfMeta where
  transform : Nat
  first : Nat
  quant : Nat
  corrX : Nat
  corrB : Nat
  deriving DecidableEq, Repr, Inhabited

/-- The image buffers of a VarDCT frame beside its pixel planes (43_group_decoder.md R241, 47_image_buffer.md R390):
per channel X, Y, B the quantised coefficients (COEFF), the dequantised ones (F of R253) and the LF values; and the
buffers HFMETA's maps are written into. -/
structure Side where
  coeff : List Nat
  deq : List Nat
  lf : List Nat
  maps : HfMeta
  deriving DecidableEq, Repr, Inhabited

/-- One decoded Modular channel of a section: its size and its samples in raster order. -/
structure ChannelGrid where
  w : Nat
  h : Nat
  samples : List Int
  deriving DecidableEq, Repr, Inhabited

/-- One position of the colour-correlation tile map: tile column and row, factors of X and of B. -/
structure TileFactor where
  tx : Nat
  ty : Nat
  x : Int
  b : Int
  deriving DecidableEq, Repr, Inhabited

/-- What an LfGroup section's Modular channels mean (43_group_decoder.md R243): LF values by (channel, bx, by),
first blocks, and colour-correlation factors by tile. -/
structure LfMaps where
  lf : List ((Nat × Nat × Nat) × Int)
  blocks : List BlockMeta
  corr : List TileFactor
  deriving DecidableEq, Repr, Inhabited

/-- HF block working state (10_state.md R44). `blk` is the block in progress, relative to its group; NZ_MAP is keyed
by (channel, bx, by). COEFF and the dequantised block are image buffers (`Side`). -/
structure HfBlock where
  group : Nat
  pass : Nat
  blk : Nat × Nat
  nzMap : List ((Nat × Nat × Nat) × Nat)
  nzLeft : Nat
  scanPos : Nat
  prevNz : Bool
  deriving DecidableEq, Repr, Inhabited

/-- A sample of an image buffer (47_image_buffer.md R390). -/
inductive Sample
  | flt (f : F32)
  | int (z : Int)
  | nat (n : Nat)
  deriving DecidableEq, Repr, Inhabited

/-- The type a sample belongs to. -/
def Sample.type : Sample → SampleType
  | .flt _ => .float
  | .int _ => .int
  | .nat _ => .nat

/-- What a function that gives samples answers: one value for each sample type. The buffer the sample goes to takes
the value of its own type, so that its samples stay "samples of one type T" (47_image_buffer.md R390). -/
structure AnySample where
  flt : F32
  int : Int
  nat : Nat
  deriving DecidableEq, Repr, Inhabited

/-- The ownership tag (47_image_buffer.md R398). A borrowed buffer is a view: its parent and its origin in the
parent, and, with offsets composed, the root buffer and the view's rectangle in it, and its access mode (R395,
R396). -/
inductive Ownership
  | owned
  | borrowed (parent x0 y0 root rx ry : Nat) (mode : Access)
  deriving DecidableEq, Repr, Inhabited

/-- An image buffer (10_state.md R45). `samples` lists the samples that have been written, keyed by
`y * width + x`, in rising order; a view has none of its own. -/
structure Buffer where
  width : Nat
  height : Nat
  ty : SampleType
  stride : Nat
  ownership : Ownership
  samples : List (Nat × Sample)
  deriving DecidableEq, Repr, Inhabited

/-- A render stage (46_render_pipeline.md R361). `set` is the stage's channels (R362, R363); `up` says whether an
InOut stage's shift is an upsampling or a downsampling one (R363); `pad` is an Extend stage's padding logic (R367). -/
inductive RStage
  | inplace (f : StageFn) (set : List Nat)
  | inout (f : StageFn) (set : List Nat) (borderX borderY shiftX shiftY : Nat) (up : Bool)
  | save (channel plane : Nat)
  | extend (pad : StageFn) (rect : Place) (canvasW canvasH : Nat)
  deriving DecidableEq, Repr, Inhabited

/-- RENDER state (10_state.md R47): the stage list; the channel buffers; the output buffers of the InOut or Extend
stage in progress, by channel; PASSES_READY[group][channel]; how many passes the frame has been rendered with;
whether the output planes have been checked (46_render_pipeline.md R365). -/
structure Render where
  stages : List RStage
  chans : List Nat
  next : List (Nat × Nat)
  ready : List (List Nat)
  rendered : Nat
  checked : Bool
  deriving DecidableEq, Repr, Inhabited

/-- The value an operation returns (the `-> result` of the trace notation, 30_encoding.md R121). -/
inductive OpValue
  | none
  | nat (n : Nat)
  | int (z : Int)
  | result (r : CmdResult)
  | planes (l : List (Nat × Nat))
  | nats (l : List Nat)
  | props (l : List Int)
  | leaf (l : Leaf)
  | pair (prediction property : Int)
  | buf (b : Nat)
  | bufs (l : List Nat)
  deriving DecidableEq, Repr, Inhabited

/-- An input source: the codestream bytes HOST holds, the cursor, and the revealed length (20_memory.md R76). -/
structure Source where
  bytes : List Byte
  pos : Nat
  availEnd : Nat
  deriving DecidableEq, Repr, Inhabited

/-- What HOST does between commands (30_encoding.md R122, 20_memory.md R88): reveal more bytes of a source, hand
over a new source, write a byte of its own output memory, issue an operation. -/
inductive HostAct
  | feed (src n : Nat)
  | supply (bytes : List Byte)
  | write (addr : Nat) (b : Byte)
  | issue (words : List Byte)
  deriving DecidableEq, Repr, Inhabited

end Sys2Proof.Machine
end

