-- ==== Sys2Proof/Config.lean ====
section
/-! DEFINITION. What an implementation fixes and the source leaves open (00_scope.md R9, 40_parser.md R143,
93_implementation_defined.md V15, V16), and the free values of the spec's `draw`.

Every open function and parameter is an opaque constant of namespace `Config`: it has no body, so no proof can see a
value of it. A machine's `Params` (plain data in State, never written by any operation) may fix some of them: a
numeric parameter by a value, a function by the spec's own usual body or by a finite table. `Params` of the reset
state fixes nothing but the values 00_scope.md R9 gives. -/

namespace Sys2Proof

open Machine

/-! ### Argument records of the configuration functions -/

/-- The neighbour samples of a pixel, absent where the position lies outside the channel (44_modular.md R291). -/
structure RawNeighbours where
  w : Option Int
  n : Option Int
  nw : Option Int
  ne : Option Int
  ww : Option Int
  nn : Option Int
  nee : Option Int
  deriving DecidableEq, Repr, Inhabited

/-- The neighbours after the edge convention has supplied the missing ones (44_modular.md R291). -/
structure Neighbours where
  w : Int
  n : Int
  nw : Int
  ne : Int
  ww : Int
  nn : Int
  nee : Int
  deriving DecidableEq, Repr, Inhabited

/-- The inputs of `PropertyTable` (44_modular.md R287). `leftGrad` is `W + N - NW` of the pixel to the left, 0 at
x = 0; `stream` is the group or stream id; `prev` holds the samples of the previous channels at the position with their own neighbours. -/
structure PropertyInput where
  channel : Nat
  stream : Nat
  x : Nat
  y : Nat
  nb : Neighbours
  leftGrad : Int
  wpPred : Int
  wpError : Int
  prev : List (Int × Neighbours)
  deriving DecidableEq, Repr, Inhabited

/-- The inputs of the weighted predictor's estimators (44_modular.md R293): header coefficients, neighbours in the
fixed-point scale, true errors at W, N, NW, NE where they exist. -/
structure WpInput where
  coeffs : List Int
  nb : Neighbours
  teW : Option Int
  teN : Option Int
  teNW : Option Int
  teNE : Option Int
  deriving DecidableEq, Repr, Inhabited

/-- The inputs of the LfGroup maps (43_group_decoder.md R243): the LF group, the frame's header with its geometry, and
the section's Modular channels. -/
structure LfInput where
  group : Nat
  frame : FrameHeader
  channels : List ChannelGrid
  deriving DecidableEq, Repr, Inhabited

/-- The inputs of `Dequant` (43_group_decoder.md R253): the block's coefficients of the channels X, Y, B, its
transform, quant step and position, LFGLOBAL's quantizer and colour correlation, the factors of X and B of HFMETA's
tile that holds the block, and the dequant matrices HFGLOBAL holds for the transform. -/
structure DequantInput where
  t : Nat
  q : Nat
  bx : Nat
  byy : Nat
  coeffs : List (List Int)
  quantizer : Blob
  colorCorr : Blob
  tileX : Int
  tileB : Int
  matrices : List (Option (List F32))
  deriving DecidableEq, Repr, Inhabited

/-- The inputs of `BuildPipeline` (46_render_pipeline.md R361). -/
structure PipelineInput where
  image : ImageHeader
  frame : FrameHeader
  lf : LfGlobal
  opt : Options
  deriving DecidableEq, Repr, Inhabited

/-- The inputs of an InPlace stage at one sample: stage, channel, column, and the segments of the stage's channels it
was handed (46_render_pipeline.md R362), with the planes of the reference slot the stage names, row by row. -/
structure InplaceInput where
  f : StageFn
  channel : Nat
  x : Nat
  y : Nat
  x0 : Nat
  segs : List (List Sample)
  ref : List (List (List Sample))
  deriving DecidableEq, Repr, Inhabited

/-- The inputs of an InOut stage at one output sample: stage, channel, output position, and the whole input image:
every row and column of the stage's channels (46_render_pipeline.md R364). In a direction in which the border reaches
past the edge the whole extent of the image is there, since the edge rule is part of the function and may read any
position; where it does not, the samples beyond the border are blank (R363). With the reference slot's planes. -/
structure InoutInput where
  f : StageFn
  channel : Nat
  x : Nat
  y : Nat
  image : List (List (List (Option Sample)))
  ref : List (List (List Sample))
  deriving DecidableEq, Repr, Inhabited

/-- The inputs of an Extend stage's `Padding` at one canvas sample: the stage's padding logic, channel, canvas row and
column, and the reference slot's planes (46_render_pipeline.md R367). -/
structure PaddingInput where
  f : StageFn
  channel : Nat
  y : Nat
  x : Nat
  ref : List (List (List Sample))
  deriving DecidableEq, Repr, Inhabited

/-- A neighbouring pixel by direction (44_modular.md R291). -/
inductive Compass
  | w
  | n
  | nw
  | ne
  | ww
  | nn
  | nee
  deriving DecidableEq, Repr, Inhabited

/-- When the weighted predictor clamps (44_modular.md R295, 90_conflicts.md C2). -/
inductive ClampWhen
  | signsAgree
  | signsDiffer
  deriving DecidableEq, Repr, Inhabited

/-- What a leaf's multiplier scales (44_modular.md R290, 90_conflicts.md C3). -/
inductive MulApplies
  | prediction
  | residual
  deriving DecidableEq, Repr, Inhabited

namespace Config

/-! ### Free values -/

/-- `draw(T)` of 00_scope.md R13: the n-th value no rule constrains. -/
opaque freeNat : Nat → Nat
/-- The value of a property the property list does not have; the spec gives none (44_modular.md R287, R288). -/
opaque missingProperty : Nat → Int
/-- The weighted predictor's outputs, estimate and property, at a channel and position of a scope that does not track
it; the spec gives none (44_modular.md R287, R298). -/
opaque untrackedWp : Nat × Nat × Nat → Int × Int

/-! ### Open parameters of 00_scope.md R9 -/

opaque ansFinalState : Word
opaque ansInitLazy : Bool
opaque huffTableBits : Nat
/-- ROW_ALIGN is a power of two; this is its logarithm. -/
opaque rowAlignLog : Nat
opaque maxTreeHeight : Nat
opaque maxTreeNodes : Nat
opaque numRefSlots : Nat
opaque posBits : Nat
opaque addrBits : Nat
opaque modSampleBits : Nat
/-- The width in bytes of a sample of the small-natural type (47_image_buffer.md R390 gives none). -/
opaque natSampleBytes : Nat
opaque outEndianDefault : Endian
opaque catalog : Catalog
/-- The side, in blocks, of a tile of the colour-correlation map (10_state.md R34 gives none). -/
opaque tileBlocks : Nat

/-! ### Header, TOC and section syntax (40_parser.md R143, 43_group_decoder.md R242 to R244) -/

/-- `HeaderInt`, the variable-length integer code of the headers (30_encoding.md R116). -/
opaque headerInt : Bits → Answer Nat
/-! The four header functions read their integers with `HeaderInt`, which is their first argument. -/
opaque parseFileHeader : (Bits → Answer Nat) → Bits → Answer ImageHeader
opaque parseColorProfile : (Bits → Answer Nat) → ImageHeader × Bits → Answer (List Byte)
opaque parseFrameHeader : (Bits → Answer Nat) → ImageHeader × Bits → Answer FrameHeader
opaque parseToc : (Bits → Answer Nat) → FrameHeader × Bits → Answer TocFields
/-- The coder and the table counts of a scope (decision D42). It sees the scope's name and its bits, no number of contexts
(DESIGN CHOICE, notes/assumptions/67.md). -/
opaque scopeSpec : ScopeId × Bits → Answer ScopeSpec
/-- DecodePatches, DecodeSplines, DecodeNoise, DecodeQuantizer, DecodeBlockContextMap, DecodeColorCorrelation, at the
frame's encoding: which members a MODULAR frame has is open (43_group_decoder.md R242); one it does not have is a
member of no bits. -/
opaque lfMember : (Encoding × LfMember) × Bits → Answer Blob
/-- Whether LfGlobal carries the "optional shared Modular tree". -/
opaque sharedTreeFlag : Bits → Answer Bool
/-- The syntax of a Modular scope: tree choice, channel list, transforms, predictor header, placements. It sees the scope's
place, the two headers and its bits, and nothing else (DESIGN CHOICE, notes/assumptions/67.md). -/
opaque modularSpec : ModSite × Bits → Answer ModSpec
opaque lfMaps : LfInput → LfMaps
opaque dequantMatrices : Bits → Answer (List ((Nat × Nat) × List F32))
opaque scanOrders : Nat × Bits → Answer (List (OrderKey × List Nat))
/-- The planes of a frame beyond, in VarDCT, the three of X, Y, B: width, height, sample type
(46_render_pipeline.md R360). -/
opaque framePlanes : ImageHeader × FrameHeader → List (Nat × Nat × SampleType)
/-- The sample a plane of floats or small naturals takes from an integer of a Modular channel. -/
opaque planeSample : Int → AnySample

/-! ### Entropy coders (41_ans.md, 42_huffman.md) -/

opaque ansHistKind : Bits → Answer HistKind
opaque symbolIndex : Bits → Answer Nat
opaque alphabetSize : Bits → Answer Nat
opaque complexCounts : Nat × Bits → Answer (List Nat)
opaque contextToHistogram : ScopeId × Nat → Nat
opaque symbolToValue : Nat × Bits → Answer Nat
opaque unpackSigned : Nat → Int
opaque huffKind : Bits → Answer HuffKind
/-- The symbols of the simple path in stream order (42_huffman.md R222). -/
opaque simpleSymbols : Nat × Bits → Answer (List Nat)
opaque codeLengths : (Nat × Nat) × Bits → Answer (List Nat)

/-! ### VarDCT blocks (43_group_decoder.md) -/

opaque channelOrder : Unit → List Nat
opaque blockContext : (Nat × Nat × Nat) × Blob → Nat
opaque numBlockContexts : Blob → Nat
/-- `NonZeroContext`, at predicted count, block context and number of block contexts. -/
opaque nonZeroContext : Nat × Nat × Nat → Nat
opaque capacity : Nat → Nat
opaque nzStored : Nat × Nat → Nat
opaque zeroDensityContext : (Nat × Nat × Nat) × Bool → Nat
opaque contextOffset : Nat → Nat
opaque initialPrev : Nat × Nat → Bool
opaque firstAc : Nat → Nat
opaque passShift : Nat × List Nat → Nat
/-- The accumulation across passes, at a pass after the first, what the earlier passes left and the shifted value. -/
opaque accumulate : Nat × Int × Int → Int
opaque defaultOrder : OrderKey → List Nat
/-- The scan positions of a transform that belong to the LF image. -/
opaque lfPositions : Nat → List Nat
/-- The value placed at the i-th of them, from the same channel's LF values of the covered positions and the quantizer,
and from no other LF value and no colour correlation (DESIGN CHOICE, notes/assumptions/63.md). -/
opaque lfValue : (Nat × Nat × Nat) × List Int × Blob → F32
/-- `Dequant`, at channel and scan position. -/
opaque dequant : (Nat × Nat) × DequantInput → F32
opaque invGlobalScale : Blob → F32
opaque adjustBias : Nat × Int → F32
opaque channelMul : Nat → F32
opaque dequantMatrix : Nat × Nat × Nat → F32
/-- `CorrX` (channel 0) and `CorrB` (channel 2) at a block, from LFGLOBAL's parameters and the tile's factor. -/
opaque correlation : (Nat × Nat × Nat) × Blob × Int → F32

/-! ### Modular (44_modular.md) -/

opaque treeContext : TreeField → Nat
/-- The tag of a node: `none` says Leaf, `some p` says Split on property p. -/
opaque treeTag : Nat → Option Nat
opaque propertyDefined : Nat → Bool
opaque predictorOf : Nat → Option Predictor
opaque multiplierFrom : Nat × Nat → Nat
opaque propertyTable : PropertyInput → List Int
/-- The properties that carry an output of the weighted predictor, its estimate or its error (44_modular.md R287). -/
opaque wpProperty : Nat → Bool
/-- `Neighbours(ch, x, y)`, from the neighbours that are there; its answer counts for the missing ones only
(44_modular.md R291, notes/assumptions/45.md). -/
opaque neighbours : (Nat × Nat × Nat) × RawNeighbours → Neighbours
opaque predictOne : Predictor × Neighbours × Int → Int
opaque wpScale : Int → Int
opaque wpUnscale : Int → Int
/-- The scaled error of an estimator, from the absolute difference (44_modular.md R294, R296). -/
opaque wpErr : Nat → Nat
/-- Estimators 1, 2, 3. -/
opaque wpEstimator : Nat × WpInput → Int
opaque wpWeight : Nat × List (Option Nat) → Nat
/-- The shared right shift of the weights, from `floor_log2` of their sum (44_modular.md R295). -/
opaque wpShift : Nat → Nat
/-- The integer quotient of a weighted sum by the sum of the weights, by lookup (44_modular.md R295). -/
opaque wpQuotient : Int × Nat → Int
/-- The neighbouring pixels whose span the clamp step clamps to (44_modular.md R295). -/
opaque wpSpan : List Compass
opaque smallCube : Nat × Nat × Nat → Int
opaque largeCube : Nat × Nat × Nat → Int
opaque deltaEntry : Int → Nat
opaque deltaTable : Nat × Nat × Nat → Int

/-! ### Constants of the transforms that are not in the source (45_transforms.md R331, R340, R341) -/

/-- `CoeffLayout` of an operation at a shape of `h` rows and `w` columns: for every frequency, in raster order, the
place of its coefficient in the buffer (45_transforms.md R331). -/
opaque coeffLayout : XKind × Nat × Nat → List Nat

/-- AFV_BASIS at row (coefficient) and column (sample). -/
opaque afvBasis : Nat × Nat → F32
/-- The multiples of `C[0][1]` and `C[1][0]` in the DC of the AFV patch (0), of the 4×4 beside it (1) and of the 4×8
half (2), at variant and part. -/
opaque afvDc : Nat × Nat → F32 × F32
/-- The places in the 8×8 block of the 15, 15 and 31 other coefficients of the three parts of a variant, in order. -/
opaque afvPlaces : Nat → List Nat
/-- The anchor sample of a 4×4 sub-block of IDENTITY, in raster order. -/
opaque identityAnchor : Nat

/-! ### Render pipeline (46_render_pipeline.md) -/

opaque buildPipeline : PipelineInput → List RStage
/-- The number of the formula that mixes spot colours, from all that BuildPipeline has (46_render_pipeline.md R372). -/
opaque spotFormula : PipelineInput → Nat
/-- Whether an extra channel of this number in the image header is a spot colour, and whether it is alpha. -/
opaque isSpot : Nat → Bool
opaque isAlpha : Nat → Bool
opaque inplaceFn : InplaceInput → AnySample
opaque inoutFn : InoutInput → AnySample
opaque padding : PaddingInput → AnySample
/-- A colour sample multiplied by an alpha sample, where they are not both floats. -/
opaque premultiplied : Sample × Sample → AnySample
/-- The float colour management takes for a sample of another type, and the sample a channel of another type takes for a
float it gives (46_render_pipeline.md R373, R374). -/
opaque floatOf : Sample → F32
opaque ofFloat : F32 → AnySample
opaque expectedPlanes : ImageHeader × Option PixelFormat → List (Nat × Nat)
/-- Channel layout and sample type when OPT.PIXEL_FORMAT is absent. -/
opaque defaultFormat : ImageHeader → Nat × Nat
/-- `Convert`: the width in bytes and the value of the output sample. -/
opaque convert : Sample × Nat × BitDepth → Nat × Nat
opaque pixelOffset : Nat × Nat × Nat → Nat
/-- HOST's colour-management transform, a list of floats to a list of floats: handle, length of the output, index of
the output sample, input. -/
opaque cms : (Nat × Nat × Nat) × List F32 → F32

/-! ### Image buffers (47_image_buffer.md) -/

/-- Whether an allocation is refused though its sizes fit, memory having run out: at the count of refusals and RESETs
before it and the handle it would give, of this width, height and sample type (47_image_buffer.md R391). Nothing of it
depends on how the stream is chunked (40_parser.md R132, notes/assumptions/61.md). -/
opaque allocRefused : (Nat × Nat) × (Nat × Nat × SampleType) → Bool

end Config

/-- How a machine's configuration fixes a function: not at all (`free`), by the spec's usual body (`usual`), or by a
finite table. -/
inductive Fn (α β : Type)
  | free
  | usual
  | table (rows : List (α × β))
  deriving DecidableEq, Repr

/-- The configuration of a machine (00_scope.md R9, decision D1 and the OPEN rows of 92_eei_decisions.md). A field
`none` or `free` leaves the parameter open. The defaults are the values R9 gives: ALLOC_ZERO_FILL = 0,
WP_CLAMP_WHEN = SIGNS_AGREE, MUL_APPLIES_TO = PREDICTION. -/
structure Params where
  ansFinalState : Option Word := none
  ansInitLazy : Option Bool := none
  huffTableBits : Option Nat := none
  rowAlignLog : Option Nat := none
  maxTreeHeight : Option Nat := none
  maxTreeNodes : Option Nat := none
  numRefSlots : Option Nat := none
  posBits : Option Nat := none
  addrBits : Option Nat := none
  modSampleBits : Option Nat := none
  natSampleBytes : Option Nat := none
  outEndianDefault : Option Endian := none
  catalog : Option Catalog := none
  tileBlocks : Option Nat := none
  allocZeroFill : Bool := false
  /-- The allocations memory is out for, by count of refusals and RESETs and by handle. -/
  allocRefused : Option (List (Nat × Nat)) := none
  wpClampWhen : ClampWhen := .signsAgree
  mulAppliesTo : MulApplies := .prediction
  headerInt : Fn Bits (Answer Nat) := .free
  parseFileHeader : Fn Bits (Answer ImageHeader) := .free
  parseColorProfile : Fn (ImageHeader × Bits) (Answer (List Byte)) := .free
  parseFrameHeader : Fn (ImageHeader × Bits) (Answer FrameHeader) := .free
  parseToc : Fn (FrameHeader × Bits) (Answer TocFields) := .free
  scopeSpec : Fn (ScopeId × Bits) (Answer ScopeSpec) := .free
  lfMember : Fn ((Encoding × LfMember) × Bits) (Answer Blob) := .free
  sharedTreeFlag : Fn Bits (Answer Bool) := .free
  modularSpec : Fn (ModSite × Bits) (Answer ModSpec) := .free
  lfMaps : Fn LfInput LfMaps := .free
  dequantMatrices : Fn Bits (Answer (List ((Nat × Nat) × List F32))) := .free
  scanOrders : Fn (Nat × Bits) (Answer (List (OrderKey × List Nat))) := .free
  framePlanes : Fn (ImageHeader × FrameHeader) (List (Nat × Nat × SampleType)) := .free
  planeSample : Fn Int AnySample := .free
  ansHistKind : Fn Bits (Answer HistKind) := .free
  symbolIndex : Fn Bits (Answer Nat) := .free
  alphabetSize : Fn Bits (Answer Nat) := .free
  complexCounts : Fn (Nat × Bits) (Answer (List Nat)) := .free
  contextToHistogram : Fn (ScopeId × Nat) Nat := .free
  symbolToValue : Fn (Nat × Bits) (Answer Nat) := .free
  unpackSigned : Fn Nat Int := .free
  huffKind : Fn Bits (Answer HuffKind) := .free
  simpleSymbols : Fn (Nat × Bits) (Answer (List Nat)) := .free
  codeLengths : Fn ((Nat × Nat) × Bits) (Answer (List Nat)) := .free
  channelOrder : Fn Unit (List Nat) := .free
  blockContext : Fn ((Nat × Nat × Nat) × Blob) Nat := .free
  numBlockContexts : Fn Blob Nat := .free
  nonZeroContext : Fn (Nat × Nat × Nat) Nat := .free
  capacity : Fn Nat Nat := .free
  nzStored : Fn (Nat × Nat) Nat := .free
  zeroDensityContext : Fn ((Nat × Nat × Nat) × Bool) Nat := .free
  contextOffset : Fn Nat Nat := .free
  initialPrev : Fn (Nat × Nat) Bool := .free
  firstAc : Fn Nat Nat := .free
  passShift : Fn (Nat × List Nat) Nat := .free
  accumulate : Fn (Nat × Int × Int) Int := .free
  defaultOrder : Fn OrderKey (List Nat) := .free
  lfPositions : Fn Nat (List Nat) := .free
  lfValue : Fn ((Nat × Nat × Nat) × List Int × Blob) F32 := .free
  dequant : Fn ((Nat × Nat) × DequantInput) F32 := .free
  invGlobalScale : Fn Blob F32 := .free
  adjustBias : Fn (Nat × Int) F32 := .free
  channelMul : Fn Nat F32 := .free
  dequantMatrix : Fn (Nat × Nat × Nat) F32 := .free
  correlation : Fn ((Nat × Nat × Nat) × Blob × Int) F32 := .free
  treeContext : Fn TreeField Nat := .free
  treeTag : Fn Nat (Option Nat) := .free
  propertyDefined : Fn Nat Bool := .free
  predictorOf : Fn Nat (Option Predictor) := .free
  multiplierFrom : Fn (Nat × Nat) Nat := .free
  propertyTable : Fn PropertyInput (List Int) := .free
  wpProperty : Fn Nat Bool := .free
  neighbours : Fn ((Nat × Nat × Nat) × RawNeighbours) Neighbours := .free
  predictOne : Fn (Predictor × Neighbours × Int) Int := .free
  wpScale : Fn Int Int := .free
  wpUnscale : Fn Int Int := .free
  wpErr : Fn Nat Nat := .free
  wpEstimator : Fn (Nat × WpInput) Int := .free
  wpWeight : Fn (Nat × List (Option Nat)) Nat := .free
  wpShift : Fn Nat Nat := .free
  wpQuotient : Fn (Int × Nat) Int := .free
  wpSpan : Option (List Compass) := none
  smallCube : Fn (Nat × Nat × Nat) Int := .free
  largeCube : Fn (Nat × Nat × Nat) Int := .free
  deltaEntry : Fn Int Nat := .free
  deltaTable : Fn (Nat × Nat × Nat) Int := .free
  coeffLayout : Fn (XKind × Nat × Nat) (List Nat) := .free
  afvBasis : Fn (Nat × Nat) F32 := .free
  afvDc : Fn (Nat × Nat) (F32 × F32) := .free
  afvPlaces : Fn Nat (List Nat) := .free
  identityAnchor : Option Nat := none
  buildPipeline : Fn PipelineInput (List RStage) := .free
  spotFormula : Fn PipelineInput Nat := .free
  isSpot : Fn Nat Bool := .free
  isAlpha : Fn Nat Bool := .free
  inplaceFn : Fn InplaceInput AnySample := .free
  inoutFn : Fn InoutInput AnySample := .free
  padding : Fn PaddingInput AnySample := .free
  premultiplied : Fn (Sample × Sample) AnySample := .free
  floatOf : Fn Sample F32 := .free
  ofFloat : Fn F32 AnySample := .free
  expectedPlanes : Fn (ImageHeader × Option PixelFormat) (List (Nat × Nat)) := .free
  defaultFormat : Fn ImageHeader (Nat × Nat) := .free
  convert : Fn (Sample × Nat × BitDepth) (Nat × Nat) := .free
  pixelOffset : Fn (Nat × Nat × Nat) Nat := .free
  cms : Fn ((Nat × Nat × Nat) × List F32) F32 := .free
  deriving DecidableEq, Repr

end Sys2Proof
end

