-- ==== Sys2Proof/Machine/State.lean ====
section
/-! DEFINITION. The state of the block, of the HOST objects it reaches, and of the inputs of its step, as plain data;
its reset value; the reasons a step can stop. INVENTORY.md lists every field with its rule.

The spec's own absences (10_state.md R61, "absent", "holds no value") are `Option.none`, empty lists and missing
entries; the spec says that reading one is a model fault. -/

namespace Sys2Proof.Machine

/-- The state elements the spec calls absent after reset (10_state.md R61). -/
inductive Element
  | imageHeader
  | frame
  | toc
  | sect
  | lfGlobal
  | hfGlobal
  | hfMeta
  | hist
  | aliasTable
  | htab
  | tree
  | wp
  | modImage
  | hfBlock
  | buffer
  | render
  deriving DecidableEq, Repr, Inhabited

/-- Why a step stops with a fault: the model faults of the spec. All are safe: the spec says the model faults toward
unprovable (10_state.md R61, decision D27). -/
inductive Fault
  /-- An operation read a state element that is absent (10_state.md R35, R61). -/
  | absent (e : Element)
  /-- An operation read an ANS_STATE that holds no value (10_state.md R36). -/
  | noAnsState
  /-- An operation read a sample nothing has written (47_image_buffer.md R391, decision D27). -/
  | unwrittenSample
  /-- An operation reached outside a buffer (47_image_buffer.md R393, decision D27). -/
  | outOfBounds
  /-- A view that would overlap a live mutable view, a repeated row, or an access to a position that a live view of
  another holder covers, one of the two writing (47_image_buffer.md R394, R396, decision D27). -/
  | viewOverlap
  /-- A write through a READ view (47_image_buffer.md R392, R396, decision D27). -/
  | readOnlyView
  /-- A buffer was freed while a view borrows from it (47_image_buffer.md R397; notes/assumptions/14.md). -/
  | liveView
  deriving DecidableEq, Repr, Inhabited

/-- Why words at a port are no operation (Decode.lean). -/
inductive DecodeError
  /-- The first byte is no OPC of 30_encoding.md R102. -/
  | unknownOpcode
  /-- An operand word is missing. -/
  | truncated
  /-- A tag byte of an operand has a value that names nothing. -/
  | badTag
  /-- The operands are outside what the operation's rule allows (WellFormed.lean). -/
  | illFormed
  /-- Nonzero bytes follow the operands. -/
  | trailing
  deriving DecidableEq, Repr, Inhabited

/-- Why a step is refused: the spec's `refuse(reason)`, a violation of the HOST protocol for which the model gives
no step (60_exceptions.md R433), and what the model itself does not run. All are safe. -/
inductive Refusal
  /-- The instruction has no meaning yet (raised by exec's arms only). -/
  | notModelled (mnemonic : String)
  /-- A command while BUSY = 1 (60_exceptions.md R433, decision D16). -/
  | reentrant
  /-- PROCESS in FINISHED (40_parser.md R173, decision D5). -/
  | finished
  /-- OUT.QUERY before INFO_VALID (40_parser.md R138). -/
  | noInfo
  /-- PROCESS with options that differ from the previous command's (60_exceptions.md R433, decision D17). -/
  | optionsChanged
  /-- PROCESS whose presence of output buffers differs while a frame is in progress (60_exceptions.md R433). -/
  | outPresenceChanged
  /-- PROCESS with another input source in the middle of a decode (93_implementation_defined.md V13). -/
  | sourceChanged
  /-- BITPOS does not fit POS_BITS (10_state.md R21, decision D11). -/
  | positionTooWide
  /-- P.DISPATCH issued although no section is runnable (40_parser.md R142, R164). -/
  | notSelected
  /-- A colour-management transaction although OPT.CMS is absent (46_render_pipeline.md R373). -/
  | noColorManagement
  /-- HOST issued an operation that is none of its three commands (60_exceptions.md R430; raised by step only). -/
  | notHostCommand
  /-- The words at a port are no operation (raised by step only). -/
  | badWords (e : DecodeError)
  deriving DecidableEq, Repr, Inhabited

/-- Control and status state (10_state.md R21 to R27) and the operands of the PROCESS command in progress. -/
structure Control where
  bitpos : Nat
  phase : Phase
  mode : Mode
  result : Option CmdResult
  err : ErrKind
  need : Nat
  infoValid : Bool
  busy : Bool
  fPreview : Bool
  fCanRef : Bool
  fDisplay : Bool
  fLast : Bool
  frameCount : Nat
  opt : Options
  /-- A PROCESS of this decode has supplied `opt` and `src` (60_exceptions.md R433 compares with them). -/
  optValid : Bool
  src : Nat
  out : Option (List Plane)
  deriving DecidableEq, Repr

/-- Parsed headers, the frame's TOC and sections, and the staging buffer (10_state.md R28 to R31, R48,
40_parser.md R167). -/
structure Parsing where
  imageHeader : Option ImageHeader
  frame : Option FrameHeader
  toc : Option Toc
  sect : List Section
  skipLeft : Nat
  stage : Stage
  reader : Option Reader
  deriving DecidableEq, Repr

/-- Frame and group decoder state (10_state.md R32 to R34, R44): section results, the buffers of the frame's pixel
planes, and those of a VarDCT frame's coefficients, LF values and maps. -/
structure Groups where
  lfGlobal : Option LfGlobal
  hfGlobal : Option HfGlobal
  hfMeta : Option HfMeta
  hf : Option HfBlock
  side : Option Side
  planes : List Nat
  deriving DecidableEq, Repr

/-- Modular working state (10_state.md R41 to R43) and the pixel in progress. -/
structure Modular where
  tree : Option Tree
  wp : Option Wp
  image : Option ModImage
  cur : Nat × Nat × Nat
  deriving DecidableEq, Repr

/-- Image buffers, the pool and the reference slots (10_state.md R45, R46, R49). -/
structure Buffers where
  bufs : List (Nat × Buffer)
  next : Nat
  pool : List Buffer
  refs : List (Nat × List Nat)
  deriving DecidableEq, Repr

/-- A byte memory: its written cells in strictly rising order of address. A byte that is not listed holds no value:
nothing has written it. -/
abbrev Memory := List Host.Cell

/-- The HOST-side objects (10_state.md R51): input sources by handle, the memory its output planes lie in, the words
of the command it has issued, and what it does next between commands. -/
structure HostSide where
  sources : List Source
  outMem : Memory
  issue : List Byte
  script : List HostAct
  deriving DecidableEq, Repr

/-- The inputs of the step that are neither the block's nor HOST's state (10_state.md R52): the machine's
configuration, and the draws. `tape` holds the values of the next draws; after its end the draw at count n is the free
value `Config.freeNat n`. `drawCount` counts the draws; `memCount` counts the refused allocations and the RESETs
(notes/assumptions/61.md). `fetch` holds the words of one operation to run in the next step; no agent has it, and
nothing in the machine fills it (notes/assumptions/2.md). -/
structure Inputs where
  params : Params
  tape : List Nat
  drawCount : Nat
  memCount : Nat
  fetch : List Byte
  deriving DecidableEq, Repr

/-- The state of the machine. `ret` is the value the last operation returned. -/
structure State where
  ctl : Control
  par : Parsing
  grp : Groups
  ent : List (ScopeId × ScopeTables)
  mod : Modular
  img : Buffers
  rnd : Option Render
  ret : OpValue
  host : HostSide
  inp : Inputs
  deriving DecidableEq, Repr

/-- Reset values of the control state (10_state.md R61). OPT, which the spec leaves unspecified, is all zero, false
and absent: DESIGN CHOICE, notes/assumptions/3.md. -/
def Control.reset : Control :=
  { bitpos := 0, phase := .needFileHeader, mode := .decode, result := none, err := .none, need := 0,
    infoValid := false, busy := false, fPreview := false, fCanRef := false, fDisplay := false, fLast := false,
    frameCount := 0,
    opt := { pixelLimit := 0, skipPreview := false, renderSpotColors := false, highPrecision := false,
             premultiplyOutput := false, cms := none, pixelFormat := none },
    optValid := false, src := 0, out := none }

/-- STAGE empty with base 0; headers, TOC, SECT absent (10_state.md R61). -/
def Parsing.reset : Parsing :=
  { imageHeader := none, frame := none, toc := none, sect := [], skipLeft := 0,
    stage := { base := 0, bytes := [] }, reader := none }

/-- LFGLOBAL, HFGLOBAL, HFMETA, HF block state absent (10_state.md R61). -/
def Groups.reset : Groups :=
  { lfGlobal := none, hfGlobal := none, hfMeta := none, hf := none, side := none, planes := [] }

/-- TREE, WP, MODIMG absent (10_state.md R61). -/
def Modular.reset : Modular :=
  { tree := none, wp := none, image := none, cur := (0, 0, 0) }

/-- No buffers, POOL empty, every REF slot absent (10_state.md R61). -/
def Buffers.reset : Buffers :=
  { bufs := [], next := 0, pool := [], refs := [] }

/-- HOST at power-on: one input source, which holds nothing yet; output memory nothing has written; nothing issued
and nothing to do (DESIGN CHOICE, notes/assumptions/4.md). -/
def HostSide.reset : HostSide :=
  { sources := [{ bytes := [], pos := 0, availEnd := 0 }], outMem := [], issue := [], script := [] }

/-- A configuration that fixes only what 00_scope.md R9 fixes, no draw made yet, and nothing to fetch. -/
def Inputs.reset : Inputs :=
  { params := {}, tape := [], drawCount := 0, memCount := 0, fetch := [] }

/-- The machine right after reset: every row of 10_state.md R61. Power-on is the same as RESET (R450). -/
def State.reset : State :=
  { ctl := .reset, par := .reset, grp := .reset, ent := [], mod := .reset, img := .reset, rnd := none,
    ret := .none, host := .reset, inp := .reset }

end Sys2Proof.Machine
end

