-- ==== Sys2Proof/WellFormed.lean ====
section
/-! DEFINITION. Well-formed operations: operands inside what the operation's rule allows and what an operation word
can hold (Decode.lean). Tests/Slice0.lean shows an ill-formed term for each check. -/

namespace Sys2Proof

/-- A natural operand fits its 8-byte word. -/
def natFits (n : Nat) : Bool := decide (n < 2 ^ 64)

/-- A signed operand fits its 8-byte word in two's complement. -/
def intFits (z : Int) : Bool := decide (-2 ^ 63 ≤ z) && decide (z < 2 ^ 63)

/-- An operand that is at least 1 and is held less 1. -/
def posFits (n : Nat) : Bool := decide (1 ≤ n) && decide (n ≤ 2 ^ 64)

def natsFit (l : List Nat) : Bool := natFits l.length && l.all natFits
def intsFit (l : List Int) : Bool := natFits l.length && l.all intFits

def ScopeId.wf : ScopeId → Bool
  | .tree => true
  | .toc => true
  | .icc => true
  | .modular => true
  | .ac pass => natFits pass

/-- The table would have more than 4096 entries above 12 (41_ans.md R191). -/
def lasOk (las : Nat) : Bool := decide (las ≤ 12)

/-- Channels X, Y, B (43_group_decoder.md R253). -/
def channelOk (c : Nat) : Bool := decide (c < 3)

def optNatFits (o : Option Nat) : Bool :=
  match o with
  | none => true
  | some n => natFits n

def PixelFormat.wf (f : PixelFormat) : Bool := natFits f.layout && natFits f.sampleType

def Options.wf (o : Options) : Bool :=
  natFits o.pixelLimit && optNatFits o.cms &&
    (match o.pixelFormat with
     | none => true
     | some f => f.wf)

def Plane.wf (p : Plane) : Bool :=
  natFits p.base && natFits p.strideBytes && natFits p.rowBytes && natFits p.rows

def planesFit (o : Option (List Plane)) : Bool :=
  match o with
  | none => true
  | some l => natFits l.length && l.all Plane.wf

/-- A leaf's multiplier is at least 1 (10_state.md R41). -/
def Leaf.wf (l : Leaf) : Bool := intFits l.offset && posFits l.multiplier && natFits l.ctx

def StageFn.wf : StageFn → Bool
  | .named id => natFits id
  | .withRef id slot => natFits id && natFits slot
  | .cms => true
  | .cmsInplace => true
  | .spot id => natFits id
  | .premultiply => true

def Place.wf (p : Place) : Bool := intFits p.x0 && intFits p.y0 && natFits p.w && natFits p.h

/-- A side of X.IDCT (45_transforms.md R334). -/
def sideOk (n : Nat) : Bool := [8, 16, 32, 64, 128, 256].contains n

/-- A row segment `x0..x1` (46_render_pipeline.md R362, R366). -/
def segmentOk (x0 x1 : Nat) : Bool := decide (x0 ≤ x1)

/-- Well-formedness of an operation. -/
def Instr.wellFormed : Instr → Bool
  | .process src opts out => natFits src && opts.wf && planesFit out
  | .reset => true
  | .outQuery => true
  | .srcAvail => true
  | .srcRead caps => natsFit caps
  | .srcSkip n => natFits n
  | .cmsXform input output => natFits input && natFits output
  | .cmsXformInplace buffer => natFits buffer
  | .pFileHeader => true
  | .pColorProfile => true
  | .pFrameHeader => true
  | .pToc => true
  | .pBuffer => true
  | .pDispatch => true
  | .pSkip => true
  | .pFrameDone => true
  | .pFinish => true
  | .pFill want => posFits want
  | .sLfGlobal sec => natFits sec
  | .sLfGroup sec g => natFits sec && natFits g
  | .sHfGlobal sec => natFits sec
  | .sHfGroup sec g p => natFits sec && natFits g && natFits p
  | .ansHist sc las => sc.wf && lasOk las
  | .ansHistSingle sc las => sc.wf && lasOk las
  | .ansHistTwo sc las => sc.wf && lasOk las
  | .ansHistFlat sc las => sc.wf && lasOk las
  | .ansHistComplex sc las => sc.wf && lasOk las
  | .ansAlias sc hist las => sc.wf && natFits hist && lasOk las
  | .ansInit sc => sc.wf
  | .ansRead sc ctx => sc.wf && natFits ctx
  | .ansFinal sc => sc.wf
  | .huffSimple sc a => sc.wf && natFits a
  | .huffLengths sc a skip => sc.wf && natFits a && natFits skip
  | .huffBuild sc lens => sc.wf && natsFit lens
  | .huffRead sc ctx => sc.wf && natFits ctx
  | .bPredNz c bx byy => channelOk c && natFits bx && natFits byy
  | .bNz c pred t => channelOk c && natFits pred && natFits t
  | .bCoeffs c t nz p => channelOk c && natFits t && natFits nz && natFits p
  | .bDequant bx byy t => natFits bx && natFits byy && natFits t
  | .bXform bx byy t => natFits bx && natFits byy && natFits t
  | .mTree => true
  | .mProps ch x y => natFits ch && natFits x && natFits y
  | .mWalk props => intsFit props
  | .mPredict leaf props => leaf.wf && intsFit props
  | .mWp x y => natFits x && natFits y
  | .mWpUpdate x y value => natFits x && natFits y && intFits value
  | .mPalette index pal numColors numDeltas _ bitDepth =>
    natFits index && natFits pal && natFits numColors && natFits numDeltas && natFits bitDepth
  | .mHsqueeze avg res w => natFits avg && natFits res && natFits w
  | .mVsqueeze avg res h => natFits avg && natFits res && natFits h
  | .xIdct h w coeff out => sideOk h && sideOk w && natFits coeff && natFits out
  | .xAfv k coeff out => decide (k < 4) && natFits coeff && natFits out
  | .xIdentity coeff out => natFits coeff && natFits out
  | .xDct2x2 coeff out => natFits coeff && natFits out
  | .xDct4x4 coeff out => natFits coeff && natFits out
  | .xDct8x4 coeff out => natFits coeff && natFits out
  | .xDct4x8 coeff out => natFits coeff && natFits out
  | .rInplace f y x0 x1 =>
    f.fn.wf && natsFit f.channels && natFits y && natFits x0 && natFits x1 && segmentOk x0 x1
  | .rInout f bx byy sx sy _ part =>
    f.fn.wf && natsFit f.channels && natFits bx && natFits byy && natFits sx && natFits sy && natFits part.y &&
      natFits part.x0 && natFits part.x1 && segmentOk part.x0 part.x1
  | .rSave channel plane y x0 x1 =>
    natFits channel && natFits plane && natFits y && natFits x0 && natFits x1 && segmentOk x0 x1
  | .rExtend rect cw ch y => rect.pad.wf && rect.rect.wf && natFits cw && natFits ch && natFits y
  | .rGroup g => natFits g
  | .rOutside cw ch rect => natFits cw && natFits ch && rect.pad.wf && rect.rect.wf
  | .iAlloc w h _ => natFits w && natFits h
  | .iRow b y _ => natFits b && natFits y
  | .iRows b rows _ => natFits b && natsFit rows
  | .iRect b x0 y0 w h _ => natFits b && natFits x0 && natFits y0 && natFits w && natFits h
  | .iFree b => natFits b

end Sys2Proof
end

