-- ==== Sys2Proof/Decode.lean ====
section
/-! DEFINITION. Words of operations: decoder and encoder. The spec gives each operation an 8-bit operation code OPC
and no layout of its operands (30_encoding.md R100, R103, R106); the layout of the operand bytes is this model's
(DESIGN CHOICE, notes/assumptions/2.md): OPC, then the operands in the order of the constructor, each

* a natural: 8 bytes, least significant first; one that is at least 1 is held less 1;
* a signed integer: 8 bytes in two's complement;
* a choice among names: 1 byte, then the operands of the choice;
* a list: its length as a natural, then its elements.

Bytes of value 0 may follow. -/

namespace Sys2Proof

open Machine (DecodeError)

/-! ### Decoders of operands -/

/-- A decoder: it takes bytes from the front, or says why it cannot. -/
abbrev Dec (α : Type) := StateT (List Byte) (Except DecodeError) α

/-- Refuse the words. -/
def Dec.fail {α : Type} (e : DecodeError) : Dec α := fun _ => .error e

/-- One byte. -/
def decByte : Dec Byte := fun bs =>
  match bs with
  | [] => .error .truncated
  | b :: rest => .ok (b, rest)

/-- `n` bytes as a natural, least significant first. -/
def decBytes : Nat → Dec Nat
  | 0 => pure 0
  | n + 1 => do
    let b ← decByte
    let v ← decBytes n
    pure (b.toNat + 256 * v)

/-- A natural. -/
def decNat : Dec Nat := decBytes 8

/-- A natural of at least 1. -/
def decPos : Dec Nat := do
  let n ← decNat
  pure (n + 1)

/-- A signed integer. -/
def decInt : Dec Int := do
  let n ← decNat
  pure (if n < 2 ^ 63 then (n : Int) else (n : Int) - 2 ^ 64)

/-- A choice by tag: the tag's entry in a list of names. -/
def decTag {α : Type} (names : List α) : Dec α := do
  let b ← decByte
  match names[b.toNat]? with
  | some a => pure a
  | none => Dec.fail .badTag

/-- `n` elements. -/
def decMany {α : Type} (d : Dec α) : Nat → Dec (List α)
  | 0 => pure []
  | n + 1 => do
    let a ← d
    let l ← decMany d n
    pure (a :: l)

/-- A list: its length, then its elements. -/
def decList {α : Type} (d : Dec α) : Dec (List α) := do
  let n ← decNat
  decMany d n

/-- An operand that may be absent. -/
def decOption {α : Type} (d : Dec α) : Dec (Option α) := do
  let present ← decTag [false, true]
  if present then do
    let a ← d
    pure (some a)
  else pure none

def decBool : Dec Bool := decTag [false, true]
def decEndian : Dec Endian := decTag [.little, .big]
def decType : Dec SampleType := decTag [.float, .int, .nat]
def decAccess : Dec Access := decTag [.read, .write]
def decPredictor : Dec Predictor :=
  decTag [.zero, .left, .top, .average0, .select, .gradient, .weighted, .topRight, .topLeft, .leftLeft, .average1,
    .average2, .average3, .average4]

/-- A side of X.IDCT, held as its place in 8, 16, 32, 64, 128, 256. -/
def decSide : Dec Nat := decTag [8, 16, 32, 64, 128, 256]

/-- The variant of X.AFV. -/
def decVariant : Dec Nat := decTag [0, 1, 2, 3]

/-- The kinds of scope in tag order; the pass follows the last. -/
inductive ScopeTag
  | plain (sc : ScopeId)
  | ac
  deriving DecidableEq, Repr

def decScope : Dec ScopeId := do
  let t ← decTag [ScopeTag.plain .tree, .plain .toc, .plain .icc, .plain .modular, .ac]
  match t with
  | .plain sc => pure sc
  | .ac => do
    let p ← decNat
    pure (.ac p)

/-- The kinds of stage function in tag order. -/
inductive StageTag
  | named
  | withRef
  | cms
  | cmsInplace
  | spot
  | premultiply
  deriving DecidableEq, Repr

def decStage : Dec StageFn := do
  let t ← decTag [StageTag.named, .withRef, .cms, .cmsInplace, .spot, .premultiply]
  match t with
  | .named => do
    let id ← decNat
    pure (.named id)
  | .withRef => do
    let id ← decNat
    let slot ← decNat
    pure (.withRef id slot)
  | .cms => pure .cms
  | .cmsInplace => pure .cmsInplace
  | .spot => do
    let id ← decNat
    pure (.spot id)
  | .premultiply => pure .premultiply

def decFormat : Dec PixelFormat := do
  let layout ← decNat
  let sampleType ← decNat
  let endian ← decEndian
  pure { layout := layout, sampleType := sampleType, endian := endian }

def decOptions : Dec Options := do
  let pixelLimit ← decNat
  let skipPreview ← decBool
  let renderSpotColors ← decBool
  let highPrecision ← decBool
  let premultiplyOutput ← decBool
  let cms ← decOption decNat
  let pixelFormat ← decOption decFormat
  pure
    { pixelLimit := pixelLimit, skipPreview := skipPreview, renderSpotColors := renderSpotColors
      highPrecision := highPrecision, premultiplyOutput := premultiplyOutput, cms := cms, pixelFormat := pixelFormat }

def decPlane : Dec Plane := do
  let base ← decNat
  let strideBytes ← decNat
  let rowBytes ← decNat
  let rows ← decNat
  pure { base := base, strideBytes := strideBytes, rowBytes := rowBytes, rows := rows }

def decLeaf : Dec Leaf := do
  let predictor ← decPredictor
  let offset ← decInt
  let multiplier ← decPos
  let ctx ← decNat
  pure { predictor := predictor, offset := offset, multiplier := multiplier, ctx := ctx }

def decPlace : Dec Place := do
  let x0 ← decInt
  let y0 ← decInt
  let w ← decNat
  let h ← decNat
  pure { x0 := x0, y0 := y0, w := w, h := h }

/-! ### The decoder -/

/-- The operands of an operation code of 30_encoding.md R102. -/
def decodeOperands (opc : Nat) : Dec Instr :=
  match opc with
  | 0x00 => do
    let src ← decNat
    let opts ← decOptions
    let out ← decOption (decList decPlane)
    pure (.process src opts out)
  | 0x01 => pure .reset
  | 0x02 => pure .outQuery
  | 0x10 => pure .srcAvail
  | 0x11 => do
    let caps ← decList decNat
    pure (.srcRead caps)
  | 0x12 => do
    let n ← decNat
    pure (.srcSkip n)
  | 0x14 => do
    let input ← decNat
    let output ← decNat
    pure (.cmsXform input output)
  | 0x15 => do
    let buffer ← decNat
    pure (.cmsXformInplace buffer)
  | 0x20 => pure .pFileHeader
  | 0x21 => pure .pColorProfile
  | 0x22 => pure .pFrameHeader
  | 0x23 => pure .pToc
  | 0x24 => pure .pBuffer
  | 0x25 => pure .pDispatch
  | 0x26 => pure .pSkip
  | 0x27 => pure .pFrameDone
  | 0x28 => pure .pFinish
  | 0x29 => do
    let want ← decPos
    pure (.pFill want)
  | 0x30 => do
    let sec ← decNat
    pure (.sLfGlobal sec)
  | 0x31 => do
    let sec ← decNat
    let g ← decNat
    pure (.sLfGroup sec g)
  | 0x32 => do
    let sec ← decNat
    pure (.sHfGlobal sec)
  | 0x33 => do
    let sec ← decNat
    let g ← decNat
    let p ← decNat
    pure (.sHfGroup sec g p)
  | 0x40 => do
    let sc ← decScope
    let las ← decNat
    pure (.ansHist sc las)
  | 0x41 => do
    let sc ← decScope
    let las ← decNat
    pure (.ansHistSingle sc las)
  | 0x42 => do
    let sc ← decScope
    let las ← decNat
    pure (.ansHistTwo sc las)
  | 0x43 => do
    let sc ← decScope
    let las ← decNat
    pure (.ansHistFlat sc las)
  | 0x44 => do
    let sc ← decScope
    let las ← decNat
    pure (.ansHistComplex sc las)
  | 0x45 => do
    let sc ← decScope
    let hist ← decNat
    let las ← decNat
    pure (.ansAlias sc hist las)
  | 0x46 => do
    let sc ← decScope
    pure (.ansInit sc)
  | 0x47 => do
    let sc ← decScope
    let ctx ← decNat
    pure (.ansRead sc ctx)
  | 0x48 => do
    let sc ← decScope
    pure (.ansFinal sc)
  | 0x50 => do
    let sc ← decScope
    let a ← decNat
    pure (.huffSimple sc a)
  | 0x51 => do
    let sc ← decScope
    let a ← decNat
    let skip ← decNat
    pure (.huffLengths sc a skip)
  | 0x52 => do
    let sc ← decScope
    let lens ← decList decNat
    pure (.huffBuild sc lens)
  | 0x53 => do
    let sc ← decScope
    let ctx ← decNat
    pure (.huffRead sc ctx)
  | 0x60 => do
    let c ← decNat
    let bx ← decNat
    let byy ← decNat
    pure (.bPredNz c bx byy)
  | 0x61 => do
    let c ← decNat
    let pred ← decNat
    let t ← decNat
    pure (.bNz c pred t)
  | 0x62 => do
    let c ← decNat
    let t ← decNat
    let nz ← decNat
    let p ← decNat
    pure (.bCoeffs c t nz p)
  | 0x63 => do
    let bx ← decNat
    let byy ← decNat
    let t ← decNat
    pure (.bDequant bx byy t)
  | 0x64 => do
    let bx ← decNat
    let byy ← decNat
    let t ← decNat
    pure (.bXform bx byy t)
  | 0x70 => pure .mTree
  | 0x71 => do
    let ch ← decNat
    let x ← decNat
    let y ← decNat
    pure (.mProps ch x y)
  | 0x72 => do
    let props ← decList decInt
    pure (.mWalk props)
  | 0x73 => do
    let leaf ← decLeaf
    let props ← decList decInt
    pure (.mPredict leaf props)
  | 0x74 => do
    let x ← decNat
    let y ← decNat
    pure (.mWp x y)
  | 0x75 => do
    let x ← decNat
    let y ← decNat
    let value ← decInt
    pure (.mWpUpdate x y value)
  | 0x76 => do
    let index ← decNat
    let pal ← decNat
    let numColors ← decNat
    let numDeltas ← decNat
    let predictor ← decPredictor
    let bitDepth ← decNat
    pure (.mPalette index pal numColors numDeltas predictor bitDepth)
  | 0x77 => do
    let avg ← decNat
    let res ← decNat
    let w ← decNat
    pure (.mHsqueeze avg res w)
  | 0x78 => do
    let avg ← decNat
    let res ← decNat
    let h ← decNat
    pure (.mVsqueeze avg res h)
  | 0x80 => do
    let h ← decSide
    let w ← decSide
    let coeff ← decNat
    let out ← decNat
    pure (.xIdct h w coeff out)
  | 0x81 => do
    let k ← decVariant
    let coeff ← decNat
    let out ← decNat
    pure (.xAfv k coeff out)
  | 0x82 => do
    let coeff ← decNat
    let out ← decNat
    pure (.xIdentity coeff out)
  | 0x83 => do
    let coeff ← decNat
    let out ← decNat
    pure (.xDct2x2 coeff out)
  | 0x84 => do
    let coeff ← decNat
    let out ← decNat
    pure (.xDct4x4 coeff out)
  | 0x85 => do
    let coeff ← decNat
    let out ← decNat
    pure (.xDct8x4 coeff out)
  | 0x86 => do
    let coeff ← decNat
    let out ← decNat
    pure (.xDct4x8 coeff out)
  | 0x90 => do
    let f ← decStage
    let set ← decList decNat
    let y ← decNat
    let x0 ← decNat
    let x1 ← decNat
    pure (.rInplace { fn := f, channels := set } y x0 x1)
  | 0x91 => do
    let f ← decStage
    let set ← decList decNat
    let bx ← decNat
    let byy ← decNat
    let sx ← decNat
    let sy ← decNat
    let up ← decBool
    let y ← decNat
    let x0 ← decNat
    let x1 ← decNat
    pure (.rInout { fn := f, channels := set } bx byy sx sy up { y := y, x0 := x0, x1 := x1 })
  | 0x92 => do
    let channel ← decNat
    let plane ← decNat
    let y ← decNat
    let x0 ← decNat
    let x1 ← decNat
    pure (.rSave channel plane y x0 x1)
  | 0x93 => do
    let pad ← decStage
    let rect ← decPlace
    let cw ← decNat
    let ch ← decNat
    let y ← decNat
    pure (.rExtend { pad := pad, rect := rect } cw ch y)
  | 0x94 => do
    let g ← decNat
    pure (.rGroup g)
  | 0x95 => do
    let cw ← decNat
    let ch ← decNat
    let pad ← decStage
    let rect ← decPlace
    pure (.rOutside cw ch { pad := pad, rect := rect })
  | 0xA0 => do
    let w ← decNat
    let h ← decNat
    let ty ← decType
    pure (.iAlloc w h ty)
  | 0xA1 => do
    let b ← decNat
    let y ← decNat
    let mode ← decAccess
    pure (.iRow b y mode)
  | 0xA2 => do
    let b ← decNat
    let rows ← decList decNat
    let mode ← decAccess
    pure (.iRows b rows mode)
  | 0xA3 => do
    let b ← decNat
    let x0 ← decNat
    let y0 ← decNat
    let w ← decNat
    let h ← decNat
    let mode ← decAccess
    pure (.iRect b x0 y0 w h mode)
  | 0xA4 => do
    let b ← decNat
    pure (.iFree b)
  | _ => Dec.fail .unknownOpcode

/-- Decode the words of an operation: total, refusing by name. -/
def decode (bs : List Byte) : Except DecodeError Instr :=
  match bs with
  | [] => .error .truncated
  | opc :: rest =>
    match decodeOperands opc.toNat rest with
    | .error e => .error e
    | .ok (i, tail) =>
      if tail.all fun b => decide (b = 0#8) then
        if i.wellFormed then .ok i else .error .illFormed
      else .error .trailing

/-! ### Encoders of operands -/

/-- The low `n` bytes of a natural, least significant first. -/
def encBytes : Nat → Nat → List Byte
  | 0, _ => []
  | n + 1, v => BitVec.ofNat 8 v :: encBytes n (v / 256)

def encNat (n : Nat) : List Byte := encBytes 8 n
def encPos (n : Nat) : List Byte := encBytes 8 (n - 1)
def encInt (z : Int) : List Byte := encBytes 8 (z % 2 ^ 64).toNat
def encTag (k : Nat) : List Byte := [BitVec.ofNat 8 k]

/-- A list: its length, then its elements. -/
def encList {α : Type} (e : α → List Byte) (l : List α) : List Byte := encNat l.length ++ l.flatMap e

def encOption {α : Type} (e : α → List Byte) (o : Option α) : List Byte :=
  match o with
  | none => encTag 0
  | some a => encTag 1 ++ e a

def encBool (b : Bool) : List Byte := encTag (if b then 1 else 0)

def encEndian : Endian → List Byte
  | .little => encTag 0
  | .big => encTag 1

def encType : SampleType → List Byte
  | .float => encTag 0
  | .int => encTag 1
  | .nat => encTag 2

def encAccess : Access → List Byte
  | .read => encTag 0
  | .write => encTag 1

def encPredictor : Predictor → List Byte
  | .zero => encTag 0
  | .left => encTag 1
  | .top => encTag 2
  | .average0 => encTag 3
  | .select => encTag 4
  | .gradient => encTag 5
  | .weighted => encTag 6
  | .topRight => encTag 7
  | .topLeft => encTag 8
  | .leftLeft => encTag 9
  | .average1 => encTag 10
  | .average2 => encTag 11
  | .average3 => encTag 12
  | .average4 => encTag 13

def encSide (n : Nat) : List Byte := encTag (Nat.log2 n - 3)
def encVariant (k : Nat) : List Byte := encTag k

def encScope : ScopeId → List Byte
  | .tree => encTag 0
  | .toc => encTag 1
  | .icc => encTag 2
  | .modular => encTag 3
  | .ac p => encTag 4 ++ encNat p

def encStage : StageFn → List Byte
  | .named id => encTag 0 ++ encNat id
  | .withRef id slot => encTag 1 ++ encNat id ++ encNat slot
  | .cms => encTag 2
  | .cmsInplace => encTag 3
  | .spot id => encTag 4 ++ encNat id
  | .premultiply => encTag 5

def encFormat (f : PixelFormat) : List Byte := encNat f.layout ++ encNat f.sampleType ++ encEndian f.endian

def encOptions (o : Options) : List Byte :=
  encNat o.pixelLimit ++ encBool o.skipPreview ++ encBool o.renderSpotColors ++ encBool o.highPrecision ++
    encBool o.premultiplyOutput ++ encOption encNat o.cms ++ encOption encFormat o.pixelFormat

def encPlane (p : Plane) : List Byte :=
  encNat p.base ++ encNat p.strideBytes ++ encNat p.rowBytes ++ encNat p.rows

def encLeaf (l : Leaf) : List Byte :=
  encPredictor l.predictor ++ encInt l.offset ++ encPos l.multiplier ++ encNat l.ctx

def encPlace (p : Place) : List Byte := encInt p.x0 ++ encInt p.y0 ++ encNat p.w ++ encNat p.h

/-! ### The encoder -/

/-- The words of an operation: OPC of 30_encoding.md R102, then its operands. -/
def encode : Instr → List Byte
  | .process src opts out => 0x00#8 :: (encNat src ++ encOptions opts ++ encOption (encList encPlane) out)
  | .reset => 0x01#8 :: []
  | .outQuery => 0x02#8 :: []
  | .srcAvail => 0x10#8 :: []
  | .srcRead caps => 0x11#8 :: (encList encNat caps)
  | .srcSkip n => 0x12#8 :: (encNat n)
  | .cmsXform input output => 0x14#8 :: (encNat input ++ encNat output)
  | .cmsXformInplace buffer => 0x15#8 :: (encNat buffer)
  | .pFileHeader => 0x20#8 :: []
  | .pColorProfile => 0x21#8 :: []
  | .pFrameHeader => 0x22#8 :: []
  | .pToc => 0x23#8 :: []
  | .pBuffer => 0x24#8 :: []
  | .pDispatch => 0x25#8 :: []
  | .pSkip => 0x26#8 :: []
  | .pFrameDone => 0x27#8 :: []
  | .pFinish => 0x28#8 :: []
  | .pFill want => 0x29#8 :: (encPos want)
  | .sLfGlobal sec => 0x30#8 :: (encNat sec)
  | .sLfGroup sec g => 0x31#8 :: (encNat sec ++ encNat g)
  | .sHfGlobal sec => 0x32#8 :: (encNat sec)
  | .sHfGroup sec g p => 0x33#8 :: (encNat sec ++ encNat g ++ encNat p)
  | .ansHist sc las => 0x40#8 :: (encScope sc ++ encNat las)
  | .ansHistSingle sc las => 0x41#8 :: (encScope sc ++ encNat las)
  | .ansHistTwo sc las => 0x42#8 :: (encScope sc ++ encNat las)
  | .ansHistFlat sc las => 0x43#8 :: (encScope sc ++ encNat las)
  | .ansHistComplex sc las => 0x44#8 :: (encScope sc ++ encNat las)
  | .ansAlias sc hist las => 0x45#8 :: (encScope sc ++ encNat hist ++ encNat las)
  | .ansInit sc => 0x46#8 :: (encScope sc)
  | .ansRead sc ctx => 0x47#8 :: (encScope sc ++ encNat ctx)
  | .ansFinal sc => 0x48#8 :: (encScope sc)
  | .huffSimple sc a => 0x50#8 :: (encScope sc ++ encNat a)
  | .huffLengths sc a skip => 0x51#8 :: (encScope sc ++ encNat a ++ encNat skip)
  | .huffBuild sc lens => 0x52#8 :: (encScope sc ++ encList encNat lens)
  | .huffRead sc ctx => 0x53#8 :: (encScope sc ++ encNat ctx)
  | .bPredNz c bx byy => 0x60#8 :: (encNat c ++ encNat bx ++ encNat byy)
  | .bNz c pred t => 0x61#8 :: (encNat c ++ encNat pred ++ encNat t)
  | .bCoeffs c t nz p => 0x62#8 :: (encNat c ++ encNat t ++ encNat nz ++ encNat p)
  | .bDequant bx byy t => 0x63#8 :: (encNat bx ++ encNat byy ++ encNat t)
  | .bXform bx byy t => 0x64#8 :: (encNat bx ++ encNat byy ++ encNat t)
  | .mTree => 0x70#8 :: []
  | .mProps ch x y => 0x71#8 :: (encNat ch ++ encNat x ++ encNat y)
  | .mWalk props => 0x72#8 :: (encList encInt props)
  | .mPredict leaf props => 0x73#8 :: (encLeaf leaf ++ encList encInt props)
  | .mWp x y => 0x74#8 :: (encNat x ++ encNat y)
  | .mWpUpdate x y value => 0x75#8 :: (encNat x ++ encNat y ++ encInt value)
  | .mPalette index pal numColors numDeltas predictor bitDepth =>
    0x76#8 :: (encNat index ++ encNat pal ++ encNat numColors ++ encNat numDeltas ++ encPredictor predictor ++
      encNat bitDepth)
  | .mHsqueeze avg res w => 0x77#8 :: (encNat avg ++ encNat res ++ encNat w)
  | .mVsqueeze avg res h => 0x78#8 :: (encNat avg ++ encNat res ++ encNat h)
  | .xIdct h w coeff out => 0x80#8 :: (encSide h ++ encSide w ++ encNat coeff ++ encNat out)
  | .xAfv k coeff out => 0x81#8 :: (encVariant k ++ encNat coeff ++ encNat out)
  | .xIdentity coeff out => 0x82#8 :: (encNat coeff ++ encNat out)
  | .xDct2x2 coeff out => 0x83#8 :: (encNat coeff ++ encNat out)
  | .xDct4x4 coeff out => 0x84#8 :: (encNat coeff ++ encNat out)
  | .xDct8x4 coeff out => 0x85#8 :: (encNat coeff ++ encNat out)
  | .xDct4x8 coeff out => 0x86#8 :: (encNat coeff ++ encNat out)
  | .rInplace f y x0 x1 =>
    0x90#8 :: (encStage f.fn ++ encList encNat f.channels ++ encNat y ++ encNat x0 ++ encNat x1)
  | .rInout f bx byy sx sy up part =>
    0x91#8 :: (encStage f.fn ++ encList encNat f.channels ++ encNat bx ++ encNat byy ++ encNat sx ++ encNat sy ++
      encBool up ++ encNat part.y ++ encNat part.x0 ++ encNat part.x1)
  | .rSave channel plane y x0 x1 => 0x92#8 :: (encNat channel ++ encNat plane ++ encNat y ++ encNat x0 ++ encNat x1)
  | .rExtend rect cw ch y =>
    0x93#8 :: (encStage rect.pad ++ encPlace rect.rect ++ encNat cw ++ encNat ch ++ encNat y)
  | .rGroup g => 0x94#8 :: (encNat g)
  | .rOutside cw ch rect => 0x95#8 :: (encNat cw ++ encNat ch ++ encStage rect.pad ++ encPlace rect.rect)
  | .iAlloc w h ty => 0xA0#8 :: (encNat w ++ encNat h ++ encType ty)
  | .iRow b y mode => 0xA1#8 :: (encNat b ++ encNat y ++ encAccess mode)
  | .iRows b rows mode => 0xA2#8 :: (encNat b ++ encList encNat rows ++ encAccess mode)
  | .iRect b x0 y0 w h mode =>
    0xA3#8 :: (encNat b ++ encNat x0 ++ encNat y0 ++ encNat w ++ encNat h ++ encAccess mode)
  | .iFree b => 0xA4#8 :: (encNat b)

/-! ### Words as the host numbers them -/

/-- The bytes of a word of `nbits` bits, the first byte its least significant, followed by bytes of 0 up to the
longest operation a word of `nbits` bits can be completed to. -/
def wordBytes (nbits w : Nat) : List Byte := encBytes (nbits / 8) (w % 2 ^ nbits) ++ List.replicate 128 0#8

/-- The operation the decoder reads from a table word whose further bits are 0. -/
def decodeTableWord (nbits w : Nat) : Option Instr :=
  match decode (wordBytes nbits w) with
  | .ok i => some i
  | .error _ => none

end Sys2Proof
end

