-- ==== Sys2Proof/Machine/Ops.lean ====
section
/-! DEFINITION. The named operations over memory and state that every meaning is written with: sparse stores in
canonical form, bit strings, the `Op` type with its five ways to end, the staging buffer and the input source,
P.FILL, ReadBits, taking an error (TrapEntry) and resuming, image buffers. -/

namespace Sys2Proof.Machine

/-! ### Stores: written cells in strictly rising order of key, nothing listed twice -/

/-- The value at key `a`, or none where nothing has been written. -/
def storeRead {α : Type} (m : List (Nat × α)) (a : Nat) : Option α :=
  match m with
  | [] => none
  | (k, v) :: rest => if a = k then some v else storeRead rest a

/-- Write `v` at key `a`, keeping the order. -/
def storeWrite {α : Type} (m : List (Nat × α)) (a : Nat) (v : α) : List (Nat × α) :=
  match m with
  | [] => [(a, v)]
  | (k, w) :: rest =>
    if a = k then (a, v) :: rest
    else if a < k then (a, v) :: (k, w) :: rest
    else (k, w) :: storeWrite rest a v

/-- Keys strictly rise and lie at or above `lo`. -/
def storeWfFrom {α : Type} (lo : Nat) (m : List (Nat × α)) : Bool :=
  match m with
  | [] => true
  | (k, _) :: rest => decide (lo ≤ k) && storeWfFrom (k + 1) rest

/-- The canonical form of a store. -/
def storeWf {α : Type} (m : List (Nat × α)) : Bool := storeWfFrom 0 m

/-- The canonical form of a byte memory: addresses strictly rising. An unlisted byte holds no value, so no listed
cell can equal it. -/
def Memory.wf (m : Memory) : Bool := storeWf m

/-- One byte of HOST's output memory, none where nothing has written it. -/
def Memory.read (m : Memory) (a : Nat) : Option Byte := storeRead m a

/-- Write one byte of HOST's output memory. -/
def Memory.write (m : Memory) (a : Nat) (b : Byte) : Memory := storeWrite m a b

/-- Write a run of bytes at rising addresses. -/
def Memory.writeList (m : Memory) (a : Nat) (bs : List Byte) : Memory :=
  match bs with
  | [] => m
  | b :: rest => Memory.writeList (m.write a b) (a + 1) rest

/-- Set the value of a key in an association list, at the key's place or at the end. -/
def assocSet {α β : Type} [DecidableEq α] (l : List (α × β)) (a : α) (b : β) : List (α × β) :=
  match l with
  | [] => [(a, b)]
  | (k, v) :: rest => if k = a then (k, b) :: rest else (k, v) :: assocSet rest a b

/-- The value of a key in an association list. -/
def assocGet {α β : Type} [DecidableEq α] (l : List (α × β)) (a : α) : Option β :=
  match l with
  | [] => none
  | (k, v) :: rest => if k = a then some v else assocGet rest a

/-! ### Bit strings (00_scope.md R12, 20_memory.md R70) -/

/-- The bits of a byte in reading order, least significant first. -/
def byteBits (b : Byte) : Bits :=
  [b.getLsbD 0, b.getLsbD 1, b.getLsbD 2, b.getLsbD 3, b.getLsbD 4, b.getLsbD 5, b.getLsbD 6, b.getLsbD 7]

/-- The bits of a byte sequence: bit k is bit `k mod 8` of byte `k / 8`. -/
def bitsOf (bs : List Byte) : Bits := bs.flatMap byteBits

/-- The natural whose bit i is the i-th bit of the string. -/
def natOfBits (b : Bits) : Nat :=
  match b with
  | [] => 0
  | x :: rest => (if x then 1 else 0) + 2 * natOfBits rest

/-- The next multiple of 8 (40_parser.md R158). -/
def alignUp8 (n : Nat) : Nat := (n + 7) / 8 * 8

/-- What a parser function that may answer on too short a string says once only the bits in `seen` exist: an answer
`Parsed(v, n)` implies the string has at least n bits (40_parser.md R143). -/
def Answer.within {α : Type} (a : Answer α) (seen : Nat) : Answer α :=
  match a with
  | .parsed v n => if n ≤ seen then .parsed v n else .needMore
  | .needMore => .needMore
  | .malformed k => .malformed k

/-- What a configuration function rejects is `Malformed(FORMAT)` (30_encoding.md R120, 93_implementation_defined.md
V18). -/
def Answer.asFormat {α : Type} (a : Answer α) : Answer α :=
  match a with
  | .parsed v n => .parsed v n
  | .needMore => .needMore
  | .malformed _ => .malformed .format

/-- What `ParseColorProfile` and `ParseToc` reject is Format, but for an error of their nested parsers, whose kind
Checksum or ResourceLimit they carry (40_parser.md R143). Transform is no such kind. -/
def Answer.asNested {α : Type} (a : Answer α) : Answer α :=
  match a with
  | .parsed v n => .parsed v n
  | .needMore => .needMore
  | .malformed .format => .malformed .format
  | .malformed .resourceLimit => .malformed .resourceLimit
  | .malformed .checksum => .malformed .checksum
  | .malformed .transform => .malformed .format

/-- What the functions of S.HFGLOBAL reject is Format, but for the Checksum of a nested entropy-coded part: the two kinds
43_group_decoder.md R244 lists. -/
def Answer.asCoded {α : Type} (a : Answer α) : Answer α :=
  match a with
  | .parsed v n => .parsed v n
  | .needMore => .needMore
  | .malformed k => .malformed (if k = .checksum then .checksum else .format)

/-- The answer of the shortest prefix of `seen ++ rest`, from `seen` on, that has one. -/
def firstAnswerFrom {α : Type} (f : Bits → Answer α) (seen : Bits) (rest : Bits) : Answer α :=
  match (f seen).within seen.length with
  | .needMore =>
    match rest with
    | [] => .needMore
    | b :: more => firstAnswerFrom f (seen ++ [b]) more
  | .malformed k => .malformed k
  | .parsed v n => .parsed v n

/-- A configuration function made prefix-stable: "if a function answers Parsed(v, n) or Malformed on a bit string,
it gives the same answer on every extension of that string" (40_parser.md R143). On a function that already is
prefix-stable this changes nothing. -/
def firstAnswer {α : Type} (f : Bits → Answer α) (bits : Bits) : Answer α := firstAnswerFrom f [] bits

/-! ### Operations and how they end -/

/-- How an operation ends other than by completing: Incomplete with NEED (recoverable), a fatal error kind, a model
fault, a refusal (40_parser.md R130, 60_exceptions.md R410, R433). -/
inductive Stop
  | incomplete (need : Nat)
  | fatal (k : Kind)
  | fault (f : Fault)
  | refuse (r : Refusal)
  deriving DecidableEq, Repr, Inhabited

/-- An operation: it completes with a value and a new state, or stops, in the state reached so far. -/
abbrev Op (α : Type) := EStateM Stop State α

/-- End the operation. -/
def stop {α : Type} (e : Stop) : Op α := fun s => .error e s

/-- `raise <Kind>` of 00_scope.md R13. -/
def raise {α : Type} (k : Kind) : Op α := stop (.fatal k)

/-- `assert c else <Kind>` of 00_scope.md R13. -/
def check (c : Bool) (k : Kind) : Op Unit := if c then pure () else raise k

/-- Read a state element that may be absent: absence is a model fault (10_state.md R61). -/
def present {α : Type} (x : Option α) (e : Element) : Op α :=
  match x with
  | some a => pure a
  | none => stop (.fault (.absent e))

/-- Read the state. -/
def getState : Op State := fun s => .ok s s

/-- Change the state. -/
def upd (f : State → State) : Op Unit := fun s => .ok () (f s)

/-- Run an operation for each element in order. -/
def each {α : Type} (xs : List α) (f : α → Op Unit) : Op Unit :=
  match xs with
  | [] => pure ()
  | x :: rest => do
    f x
    each rest f

/-- Run an operation for each element in order and collect the values. -/
def collect {α β : Type} (xs : List α) (f : α → Op β) : Op (List β) :=
  match xs with
  | [] => pure []
  | x :: rest => do
    let y ← f x
    let ys ← collect rest f
    pure (y :: ys)

/-! ### Field updates -/

def State.setCtl (s : State) (f : Control → Control) : State := { s with ctl := f s.ctl }
def State.setPar (s : State) (f : Parsing → Parsing) : State := { s with par := f s.par }
def State.setGrp (s : State) (f : Groups → Groups) : State := { s with grp := f s.grp }
def State.setEnt (s : State) (f : List (ScopeId × ScopeTables) → List (ScopeId × ScopeTables)) : State :=
  { s with ent := f s.ent }
def State.setMod (s : State) (f : Modular → Modular) : State := { s with mod := f s.mod }
def State.setImg (s : State) (f : Buffers → Buffers) : State := { s with img := f s.img }
def State.setRnd (s : State) (r : Option Render) : State := { s with rnd := r }
def State.setHost (s : State) (f : HostSide → HostSide) : State := { s with host := f s.host }
def State.setInp (s : State) (f : Inputs → Inputs) : State := { s with inp := f s.inp }
def State.setRet (s : State) (v : OpValue) : State := { s with ret := v }

/-- The configuration of the machine. -/
def getParams : Op Params := fun s => .ok s.inp.params s

/-! ### Draws (00_scope.md R13) -/

/-- The next draw: the head of the tape, or the free value of the draw's number. -/
def draw : Op Nat := fun s =>
  match s.inp.tape with
  | v :: rest => .ok v (s.setInp fun i => { i with tape := rest, drawCount := i.drawCount + 1 })
  | [] => .ok (Config.freeNat s.inp.drawCount) (s.setInp fun i => { i with drawCount := i.drawCount + 1 })

/-- `draw({k | lo <= k <= hi})`, for `lo <= hi`. -/
def drawRange (lo hi : Nat) : Op Nat := do
  let v ← draw
  pure (lo + v % (hi - lo + 1))

/-- `draw(positive natural)`: the N of "need approximately N more bytes" (decision D9). -/
def drawNeed : Op Nat := do
  let v ← draw
  pure (v + 1)

/-- Report Incomplete with a drawn NEED. -/
def incomplete {α : Type} : Op α := do
  let n ← drawNeed
  stop (.incomplete n)

/-! ### Position and staging buffer -/

/-- Set BITPOS. A position that does not fit POS_BITS is refused; it does not wrap (10_state.md R21). -/
def setBitpos (p : Nat) : Op Unit := fun s =>
  if p < 2 ^ (s.inp.params.posBits.getD Config.posBits) then
    .ok () (s.setCtl fun c => { c with bitpos := p })
  else .error (.refuse .positionTooWide) s

/-- The input source of the PROCESS in progress; a handle HOST has given no source for has no bytes. -/
def State.source (s : State) : Source := (s.host.sources[s.ctl.src]?).getD { bytes := [], pos := 0, availEnd := 0 }

/-- `available_bytes()` (20_memory.md R76). -/
def State.available (s : State) : Nat := s.source.availEnd - s.source.pos

/-- Replace the input source. -/
def State.setSource (s : State) (f : Source → Source) : State :=
  s.setHost fun h => { h with sources := h.sources.set s.ctl.src (f s.source) }

/-- The bytes staged at or after codestream byte `at_`. -/
def Stage.bytesFrom (g : Stage) (at_ : Nat) : List Byte := g.bytes.drop (at_ - g.base)

/-- Drop every byte below codestream byte `at_` and adjust `base` (40_parser.md R139). When nothing is left, the
next byte the source delivers is byte `at_`. -/
def Stage.dropBelow (g : Stage) (at_ : Nat) : Stage :=
  if g.base + g.bytes.length ≤ at_ then { base := at_, bytes := [] }
  else { base := max g.base at_, bytes := g.bytes.drop (at_ - g.base) }

/-- How many staged bytes lie at or after byte `at_`: the `have` of 40_parser.md R139. -/
def Stage.have (g : Stage) (at_ : Nat) : Nat := g.base + g.bytes.length - at_

/-! ### Port transactions (20_memory.md R76, 40_parser.md R135 to R137) -/

/-- The least number of bytes a transaction moves: 1 if at least 1 can be moved, else 0. -/
def atLeastOne (m : Nat) : Nat := min m 1

/-- `read(buffers)`: `k` bytes of the source, at least one when one can be had, are appended to STAGE. -/
def sourceRead (cap : Nat) : Op Nat := do
  let s ← getState
  let m := min cap s.available
  let k ← drawRange (atLeastOne m) m
  upd fun s =>
    ((s.setPar fun p => { p with stage := { p.stage with
        bytes := p.stage.bytes ++ (s.source.bytes.drop s.source.pos).take k } }).setSource
      fun src => { src with pos := src.pos + k })
  pure k

/-- `skip(n)`: the skipped bytes never enter STAGE (40_parser.md R137). -/
def sourceSkip (n : Nat) : Op Nat := do
  let s ← getState
  let m := min n s.available
  let k ← drawRange (atLeastOne m) m
  upd fun s => s.setSource fun src => { src with pos := src.pos + k }
  pure k

/-! ### P.FILL (40_parser.md R139) -/

/-- The loop of P.FILL; `fuel` bounds the number of reads, each of which delivers at least one byte. -/
def fillLoop (want : Nat) : Nat → Op Unit
  | 0 => incomplete
  | fuel + 1 => do
    let s ← getState
    let got := s.par.stage.have (s.ctl.bitpos / 8)
    if want ≤ got then pure ()
    else if s.available = 0 then incomplete
    else do
      let extra ← draw
      let k ← sourceRead (want - got + extra)
      if k = 0 then incomplete else fillLoop want fuel

/-- Drop the bytes below BITPOS, then read until `want` bytes are staged at or after BITPOS, or report Incomplete. -/
def fill (want : Nat) : Op Unit := do
  upd fun s => s.setPar fun p => { p with stage := p.stage.dropBelow (s.ctl.bitpos / 8) }
  let s ← getState
  fillLoop want (s.available + 1)

/-! ### Bits of the current source: the section's store inside a section decode, STAGE otherwise (R140, R166) -/

/-- The staged bits from BITPOS on. -/
def State.stagedBits (s : State) : Bits :=
  (bitsOf (s.par.stage.bytesFrom (s.ctl.bitpos / 8))).drop (s.ctl.bitpos % 8)

/-- The bits of the section in progress from its own bit position on. -/
def Reader.bits (r : Reader) : Bits := (bitsOf r.bytes).drop r.pos

/-- The bits at hand. -/
def State.bitsHere (s : State) : Bits :=
  match s.par.reader with
  | some r => r.bits
  | none => s.stagedBits

/-- Advance the position over `n` bits that are at hand. -/
def advance (n : Nat) : Op Unit := do
  let s ← getState
  match s.par.reader with
  | some r => upd fun s => s.setPar fun p => { p with reader := some { r with pos := r.pos + n } }
  | none => setBitpos (s.ctl.bitpos + n)

/-- Make `n` bits available: past a section's last bit raises Format (40_parser.md R166); in a header phase P.FILL
runs (40_parser.md R140). -/
def needBits (n : Nat) : Op Unit := do
  let s ← getState
  if n ≤ s.bitsHere.length then pure ()
  else match s.par.reader with
    | some _ => raise .format
    | none => fill ((s.ctl.bitpos % 8 + n + 7) / 8)

/-- `ReadBits(n)` of 00_scope.md R13: the value's bit i is the i-th bit read. -/
def readBits (n : Nat) : Op Nat := do
  needBits n
  let s ← getState
  advance n
  pure (natOfBits (s.bitsHere.take n))

/-- `PeekBits(n)`: inside a section, bits past the end peek as 0 (decision D35). In a header phase P.FILL stages
them first. -/
def peekBits (n : Nat) : Op Nat := do
  let s ← getState
  match s.par.reader with
  | some _ => pure ()
  | none => needBits n
  let s ← getState
  pure (natOfBits (s.bitsHere.take n))

/-- Ask a parser function about the bits at the position. In a header phase NeedMore runs P.FILL for one byte more
than is staged and asks again (40_parser.md R144); in a section it is an over-read, Format (R166). `fuel` bounds the
retries, each of which takes at least one byte from the source. -/
def askLoop {α : Type} (f : Bits → Answer α) : Nat → Op (α × Nat)
  | 0 => incomplete
  | fuel + 1 => do
    let s ← getState
    match firstAnswer f s.bitsHere with
    | .parsed v n => pure (v, n)
    | .malformed k => raise k
    | .needMore =>
      match s.par.reader with
      | some _ => raise .format
      | none => do
        fill (s.par.stage.have (s.ctl.bitpos / 8) + 1)
        askLoop f fuel

/-- The parsed value and its length, without moving the position. -/
def ask {α : Type} (f : Bits → Answer α) : Op (α × Nat) := do
  let s ← getState
  askLoop f (s.available + 1)

/-- Parse and move over the bits. -/
def parse {α : Type} (f : Bits → Answer α) : Op α := do
  let r ← ask f
  advance r.2
  pure r.1

/-- STAGE after a step that began in `s` was abandoned in `t`: from the step's first byte on, every byte that was staged,
then every byte the step took from the source. "A step that is retried finds every byte it saw before" (40_parser.md
R139): BITPOS is back at the step's first bit, so a byte dropped while the step moved it lies at or after BITPOS again. -/
def stageAfter (s t : State) : Stage :=
  let g := s.par.stage.dropBelow (s.ctl.bitpos / 8)
  { g with bytes := g.bytes ++ (s.source.bytes.drop s.source.pos).take ((s.setHost fun _ => t.host).source.pos - s.source.pos) }

/-- "A step commits entirely or not at all": when it is abandoned by Incomplete every state element except STAGE
and the input source keeps the value it had when the step began (40_parser.md R141); STAGE keeps every byte the step
saw (R139); the draws made are spent. -/
def commitOrAbandon {α : Type} (op : Op α) : Op α := fun s =>
  match op s with
  | .ok a t => .ok a t
  | .error (.incomplete n) t =>
    .error (.incomplete n) { s with
      par := { s.par with stage := stageAfter s t }
      host := { s.host with sources := t.host.sources }
      inp := t.inp }
  | .error e t => .error e t

/-! ### Taking an error, and events (60_exceptions.md R420, R421, 40_parser.md R130) -/

/-- The value of ERR for a fatal kind. -/
def Kind.toErr : Kind → ErrKind
  | .format => .format
  | .resourceLimit => .resourceLimit
  | .checksum => .checksum
  | .transform => .transform

/-- The buffers that are planes of a reference frame. -/
def Buffers.kept (b : Buffers) : List (Nat × Buffer) :=
  b.bufs.filter fun e => b.refs.any fun r => r.2.contains e.1

/-- Destroy the frame in progress with every per-frame table and buffer that is not a reference frame's
(40_parser.md R170, 60_exceptions.md R420). -/
def State.destroyFrame (s : State) : State :=
  { s with
    par := { s.par with frame := none, toc := none, sect := [], skipLeft := 0, reader := none }
    grp := .reset
    ent := []
    mod := .reset
    img := { s.img with bufs := s.img.kept }
    rnd := none }

/-- TrapEntry(kind): ERR, NEED, RESULT and PHASE are written, the in-progress frame is abandoned, POOL is emptied,
and the command ends (60_exceptions.md R420). -/
def trapEntry (k : Kind) (s : State) : State :=
  let t := s.destroyFrame
  { t with
    ctl := { t.ctl with err := k.toErr, need := 0, result := some (.err k.toErr 0), phase := .faulted, busy := false }
    img := { t.img with pool := [] }
    ret := .result (.err k.toErr 0) }

/-- The entry of the recoverable kind: ERR, NEED and RESULT are written and BUSY cleared, everything else stays
(40_parser.md R130). -/
def takeIncomplete (n : Nat) (s : State) : State :=
  { s with
    ctl := { s.ctl with err := .incompleteInput, need := n, result := some (.err .incompleteInput n), busy := false }
    ret := .result (.err .incompleteInput n) }

/-- An event ends the PROCESS in progress with Ok (40_parser.md R130, R131). -/
def yieldEvent (e : Event) : Op OpValue := do
  upd fun s => s.setCtl fun c => { c with result := some (.ok e), busy := false }
  pure (.result (.ok e))

/-- The outcome of an operation: its returned value goes to `ret`; Incomplete and fatal errors are taken; faults and
refusals stop the machine. -/
def finish (r : EStateM.Result Stop State OpValue) : Host.Outcome State Fault Refusal :=
  match r with
  | .ok v s => .next (s.setRet v)
  | .error (.incomplete n) s => .next (takeIncomplete n s)
  | .error (.fatal k) s => .next (trapEntry k s)
  | .error (.fault f) _ => .fault f
  | .error (.refuse r) _ => .refused r

/-- Run an operation as an instruction. -/
def run (op : Op OpValue) (s : State) : Host.Outcome State Fault Refusal := finish (op s)

/-- Run an operation that returns nothing as an instruction. -/
def runUnit (op : Op Unit) (s : State) : Host.Outcome State Fault Refusal :=
  run (do op; pure .none) s

/-! ### Image buffers (47_image_buffer.md) -/

/-- The buffer of a handle. -/
def getBuf (b : Nat) : Op Buffer := do
  let s ← getState
  present (assocGet s.img.bufs b) .buffer

/-- Round up to a multiple of ROW_ALIGN (47_image_buffer.md R391). -/
def roundUp (n align : Nat) : Nat := (n + align - 1) / align * align

/-- `sizeof(T)`: 4 for binary32 (decision D22), MOD_SAMPLE_BITS rounded up to bytes for every buffer of integers, an
open width for small naturals. The source gives the width of a quantised coefficient, of an LF sample and of a tile
factor nowhere (91_not_in_source.md N16): that they have a Modular sample's width is the model's choice (DESIGN CHOICE,
notes/assumptions/54.md). -/
def sampleBytes (p : Params) : SampleType → Nat
  | .float => 4
  | .int => (p.modSampleBits.getD Config.modSampleBits + 7) / 8
  | .nat => p.natSampleBytes.getD Config.natSampleBytes

/-- The zero of a sample type. -/
def zeroSample : SampleType → Sample
  | .float => .flt 0
  | .int => .int 0
  | .nat => .nat 0

/-- A new buffer's samples: none holds a value, or, under ALLOC_ZERO_FILL, every one reads as zero (decision D27). -/
def freshSamples (p : Params) (w h : Nat) (ty : SampleType) : List (Nat × Sample) :=
  if p.allocZeroFill then (List.range (w * h)).map fun k => (k, zeroSample ty) else []

/-- The stride of a new buffer. -/
def strideOf (p : Params) (w : Nat) (ty : SampleType) : Nat :=
  roundUp (w * sampleBytes p ty) (2 ^ p.rowAlignLog.getD Config.rowAlignLog)

/-- Whether the sizes of a new buffer are representable in ADDR_BITS (20_memory.md R77, 47_image_buffer.md R391). -/
def sizesFit (p : Params) (w h : Nat) (ty : SampleType) : Bool :=
  let lim := 2 ^ p.addrBits.getD Config.addrBits
  decide (w * sampleBytes p ty < lim) && decide (strideOf p w ty < lim) && decide (strideOf p w ty * h < lim)

/-- Remove the first pooled buffer of this shape (46_render_pipeline.md R376: taking from POOL and allocating are
indistinguishable). -/
def takePooled (pool : List Buffer) (w h : Nat) (ty : SampleType) : List Buffer :=
  match pool with
  | [] => []
  | b :: rest => if b.width = w ∧ b.height = h ∧ b.ty = ty then rest else b :: takePooled rest w h ty

/-- Whether memory has run out for the allocation that would give `handle`, of this width, height and sample type
(47_image_buffer.md R391, notes/assumptions/61.md). -/
def State.outOfMemory (s : State) (handle : Nat) (shape : Nat × Nat × SampleType) : Bool :=
  match s.inp.params.allocRefused with
  | some l => l.contains (s.inp.memCount, handle)
  | none => Config.allocRefused ((s.inp.memCount, handle), shape)

/-- Whether that allocation succeeds: its sizes fit, and memory has not run out for it. -/
def State.grants (s : State) (handle : Nat) (shape : Nat × Nat × SampleType) : Bool :=
  sizesFit s.inp.params shape.1 shape.2.1 shape.2.2 && !s.outOfMemory handle shape

/-- An answer to an allocation has been used up: the same question asked again is another one. -/
def State.counted (s : State) : State := s.setInp fun i => { i with memCount := i.memCount + 1 }

/-- Memory running out "is treated as the same rejection" as sizes that do not fit (47_image_buffer.md R391,
60_exceptions.md R411). -/
def checkMemory (w h : Nat) (ty : SampleType) : Op Unit := do
  let s ← getState
  if s.outOfMemory s.img.next (w, h, ty) then do
    upd State.counted
    raise .resourceLimit
  else pure ()

/-- I.ALLOC (47_image_buffer.md R391). -/
def alloc (w h : Nat) (ty : SampleType) : Op Nat := do
  let p ← getParams
  check (sizesFit p w h ty) .resourceLimit
  checkMemory w h ty
  let s ← getState
  upd fun s => s.setImg fun i =>
    { i with
      bufs := assocSet i.bufs i.next
        { width := w, height := h, ty := ty, stride := strideOf p w ty, ownership := .owned,
          samples := freshSamples p w h ty }
      next := i.next + 1
      pool := takePooled i.pool w h ty }
  pure s.img.next

/-- The root buffer of a handle and the origin of the handle's samples in it (47_image_buffer.md R395). -/
def rootOf (h : Nat) (b : Buffer) : Nat × Nat × Nat :=
  match b.ownership with
  | .owned => (h, 0, 0)
  | .borrowed _ _ _ root rx ry _ => (root, rx, ry)

/-- Whether two rectangles share a position. -/
def Rect.meets (a b : Rect) : Bool :=
  decide (max a.x0 b.x0 < min (a.x0 + a.w) (b.x0 + b.w)) && decide (max a.y0 b.y0 < min (a.y0 + a.h) (b.y0 + b.h))

/-- Whether a live view forbids an access of kind `mode` to rectangle `rect` of `root`: one of the two writes and
they meet (47_image_buffer.md R396). -/
def Buffer.forbids (v : Buffer) (root : Nat) (rect : Rect) (mode : Access) : Bool :=
  match v.ownership with
  | .owned => false
  | .borrowed _ _ _ r rx ry m =>
    decide (r = root) && (decide (m = .write) || decide (mode = .write)) &&
      Rect.meets { x0 := rx, y0 := ry, w := v.width, h := v.height } rect

/-- Whether a live view other than `h` forbids the holder of `h` an access to position (x, y) of `root`. -/
def clashes (bufs : List (Nat × Buffer)) (h root x y : Nat) (mode : Access) : Bool :=
  bufs.any fun e => decide (e.1 ≠ h) && e.2.forbids root { x0 := x, y0 := y, w := 1, h := 1 } mode

/-- A buffer of one's own may be written; a view, if it is a WRITE view (47_image_buffer.md R392). -/
def Buffer.writable (b : Buffer) : Bool :=
  match b.ownership with
  | .owned => true
  | .borrowed _ _ _ _ _ _ mode => decide (mode = .write)

/-- The place of sample (x, y) of a buffer or view, after the bounds check and the check against live views: the
root's handle and buffer, and the sample's key in it (47_image_buffer.md R393, R395, R396). -/
def locate (h x y : Nat) (mode : Access) : Op (Nat × Buffer × Nat) := do
  let b ← getBuf h
  if x < b.width ∧ y < b.height then do
    let o := rootOf h b
    let r ← getBuf o.1
    let s ← getState
    if clashes s.img.bufs h o.1 (o.2.1 + x) (o.2.2 + y) mode then stop (.fault .viewOverlap)
    else if mode = .write ∧ b.writable = false then stop (.fault .readOnlyView)
    else pure (o.1, r, (o.2.2 + y) * r.width + (o.2.1 + x))
  else stop (.fault .outOfBounds)

/-- Read sample (x, y) of a buffer or view: never a sample nothing has written (47_image_buffer.md R391). -/
def readSample (h x y : Nat) : Op Sample := do
  let c ← locate h x y .read
  match storeRead c.2.1.samples c.2.2 with
  | some v => pure v
  | none => stop (.fault .unwrittenSample)

/-- Write sample (x, y) of a buffer or view: a write through a view is a write to the root (47_image_buffer.md
R395). A sample of another type than the buffer's is a mismatched buffer, Transform (R390, 60_exceptions.md R416). -/
def writeSample (h x y : Nat) (v : Sample) : Op Unit := do
  let c ← locate h x y .write
  check (decide (v.type = c.2.1.ty)) .transform
  upd fun s => s.setImg fun i =>
    { i with bufs := (assocSet i.bufs c.1 { c.2.1 with samples := storeWrite c.2.1.samples c.2.2 v }) }

/-- Whether sample (x, y) has been written; its value is not looked at. -/
def isWritten (h x y : Nat) : Op Bool := do
  let c ← locate h x y .read
  pure (storeRead c.2.1.samples c.2.2).isSome

/-- The value for a buffer of a sample type. -/
def AnySample.pick (v : AnySample) (ty : SampleType) : Sample :=
  match ty with
  | .float => .flt v.flt
  | .int => .int v.int
  | .nat => .nat v.nat

/-- The samples of a row segment, columns x0 to x0 + n - 1. -/
def readRow (h y x0 n : Nat) : Op (List Sample) :=
  collect (List.range n) fun k => readSample h (x0 + k) y

/-- Write a row segment from column x0 on. -/
def writeRow (h y x0 : Nat) (vs : List Sample) : Op Unit :=
  match vs with
  | [] => pure ()
  | v :: rest => do
    writeSample h x0 y v
    writeRow h y (x0 + 1) rest

/-- All samples of a buffer or view in raster order. -/
def readAll (h : Nat) : Op (List Sample) := do
  let b ← getBuf h
  collect (List.range (b.width * b.height)) fun k => readSample h (k % b.width) (k / b.width)

/-- Write all samples of a buffer or view in raster order. -/
def writeAll (h : Nat) (vs : List Sample) : Op Unit := do
  let b ← getBuf h
  each (vs.zipIdx) fun e => writeSample h (e.2 % b.width) (e.2 / b.width) e.1

/-- The samples of a tile of `w` columns and `ht` rows at (x0, y0), in raster order. -/
def readTile (h w ht x0 y0 : Nat) : Op (List Sample) :=
  collect (List.range (w * ht)) fun k => readSample h (x0 + k % w) (y0 + k / w)

/-- Write the rows of a tile of width `w` at (x0, y0). -/
def writeTile (h w x0 y0 : Nat) (vs : List Sample) : Op Unit :=
  each vs.zipIdx fun e => writeSample h (x0 + e.2 % w) (y0 + e.2 / w) e.1

/-- Write zero to every sample of a buffer just allocated. -/
def zeroFill (h : Nat) : Op Unit := do
  let b ← getBuf h
  upd fun s => s.setImg fun i =>
    { i with bufs := (assocSet i.bufs h
        { b with samples := (List.range (b.width * b.height)).map fun k => (k, zeroSample b.ty) }) }

/-- Give a buffer back to POOL: the buffer ceases to exist, its shape is recycled without its samples
(46_render_pipeline.md R376). -/
def release (h : Nat) : Op Unit :=
  upd fun s => s.setImg fun i =>
    { i with
      bufs := i.bufs.filter fun e => e.1 != h
      pool := match assocGet i.bufs h with
        | some b => { b with samples := [] } :: i.pool
        | none => i.pool }

/-- Views end with the operation that asked for them (47_image_buffer.md R396). -/
def State.dropViews (s : State) : State :=
  s.setImg fun i => { i with bufs := i.bufs.filter fun e => decide (e.2.ownership = .owned) }

/-- The value of a sample that must be an integer: a float where an integer buffer is due is a mismatched buffer,
Transform (60_exceptions.md R416). -/
def asInt (v : Sample) : Op Int :=
  match v with
  | .int z => pure z
  | .nat n => pure n
  | .flt _ => raise .transform

/-- The value of a sample that must be a small natural; another one is a mismatched buffer, Transform. -/
def asNat (v : Sample) : Op Nat :=
  match v with
  | .nat n => pure n
  | .int _ => raise .transform
  | .flt _ => raise .transform

/-- The value of a sample that must be a float; an integer there is a mismatched buffer, Transform. -/
def asFloat (v : Sample) : Op F32 :=
  match v with
  | .flt f => pure f
  | .int _ => raise .transform
  | .nat _ => raise .transform

end Sys2Proof.Machine
end

