-- ==== Sys2Proof/Machine/Operands.lean ====
section
/-! DEFINITION. Operand and size assembly (30_encoding.md R109, R115): section indexes and kinds, section positions,
the transform catalog (45_transforms.md R332), entropy-coder sizes, signed shifts and divisions (00_scope.md R11),
and access to the tables operands name. -/

namespace Sys2Proof.Machine

/-! ### Arithmetic of 00_scope.md R11 -/

/-- `a sar n`: floor division by `2^n`. -/
def sar (a : Int) (n : Nat) : Int := a.fdiv (2 ^ n)

/-- The low bit of an integer in two's complement, 0 or 1 (44_modular.md R308). -/
def lowBit (d : Int) : Int := d % 2

/-- `clamp(v, lo, hi)`. -/
def clampInt (v lo hi : Int) : Int := min (max v lo) hi

/-- `floor_log2`, 0 at 0. -/
def floorLog2 (n : Nat) : Nat := Nat.log2 n

/-- `ceil(log2(n))`, 0 at 0 and 1. -/
def ceilLog2 (n : Nat) : Nat := if n ≤ 1 then 0 else Nat.log2 (n - 1) + 1

/-- Whether the list is a permutation of `0 .. m-1` (40_parser.md R156). -/
def isPermutation (l : List Nat) (m : Nat) : Bool :=
  l.length == m && (List.range m).all fun k => l.contains k

/-! ### Sections (30_encoding.md R109, 40_parser.md R157 to R159) -/

/-- The number of sections of a frame: one combined section for a single group and pass, else
`2 + num_lf_groups + num_passes * num_groups`. -/
def numSections (fh : FrameHeader) : Nat :=
  if fh.groups.length = 1 ∧ fh.numPasses = 1 then 1
  else 2 + fh.lfGroups.length + fh.numPasses * fh.groups.length

/-- The kind of a logical section index. -/
def sectionKind (fh : FrameHeader) (i : Nat) : SecKind :=
  if fh.groups.length = 1 ∧ fh.numPasses = 1 then .combined
  else if i = 0 then .lfGlobal
  else if i ≤ fh.lfGroups.length then .lf (i - 1)
  else if i = fh.lfGroups.length + 1 then .hfGlobal
  else
    let k := i - (fh.lfGroups.length + 2)
    .hf (k % fh.groups.length) (k / fh.groups.length)

/-- The logical index of the section stored i-th: `perm[i]`, or `i` when `perm` is absent (40_parser.md R157). -/
def logicalOf (perm : Option (List Nat)) (i : Nat) : Nat :=
  match perm with
  | none => i
  | some p => (p[i]?).getD i

/-- SECT from the section lengths: contiguous in stored order from byte `start` on, nothing ready (R158, R159). -/
def buildSections (fh : FrameHeader) (perm : Option (List Nat)) (i start : Nat) (lens : List Nat) : List Section :=
  match lens with
  | [] => []
  | n :: rest =>
    { kind := sectionKind fh (logicalOf perm i), logical := logicalOf perm i, start := start, total := n, ready := 0,
      state := .pending, bytes := [] } :: buildSections fh perm (i + 1) (start + n) rest

/-- The stored index and entry of the first section with the property, counting from `i`. -/
def findSection (f : Section → Bool) (i : Nat) (l : List Section) : Option (Nat × Section) :=
  match l with
  | [] => none
  | x :: rest => if f x then some (i, x) else findSection f (i + 1) rest

/-- The PENDING section with the smallest logical index (40_parser.md R164), with its stored index. -/
def nextPending (i : Nat) (l : List Section) : Option (Nat × Section) :=
  match l with
  | [] => none
  | x :: rest =>
    match nextPending (i + 1) rest with
    | none => if x.state = .pending then some (i, x) else none
    | some (j, y) => if x.state = .pending ∧ x.logical ≤ y.logical then some (i, x) else some (j, y)

/-- A section is fully ready iff `ready = total` (40_parser.md R161). -/
def Section.full (x : Section) : Bool := x.ready == x.total

/-! ### The transform catalog (45_transforms.md R332) -/

/-- The sizes X.IDCT exists for, as rows and columns (45_transforms.md R336). -/
def idctPairs : List (Nat × Nat) :=
  [(8, 8), (16, 16), (32, 32), (64, 64), (128, 128), (256, 256), (16, 8), (32, 8), (32, 16), (64, 32), (128, 64),
   (256, 128), (8, 16), (8, 32), (16, 32), (32, 64), (64, 128), (128, 256)]

/-- Whether X.IDCT exists for `h` rows and `w` columns. -/
def isIdctPair (h w : Nat) : Bool := idctPairs.contains (h, w)

/-- An entry has a shape its operation exists for: X.IDCT one of its sizes, the others 8×8 (45_transforms.md R334,
R336, R340 to R345; notes/assumptions/10.md). -/
def XType.ok (x : XType) : Bool :=
  match x.kind with
  | .idct => isIdctPair x.h x.w
  | .afv k => decide (k < 4) && decide (x.h = 8) && decide (x.w = 8)
  | .identity | .dct2x2 | .dct4x4 | .dct8x4 | .dct4x8 => decide (x.h = 8) && decide (x.w = 8)

/-- The spec's suggested XFORM_CATALOG of 27 entries (45_transforms.md R332). -/
def usualCatalog : Catalog :=
  [(0, ⟨.idct, 8, 8⟩), (1, ⟨.identity, 8, 8⟩), (2, ⟨.dct2x2, 8, 8⟩), (3, ⟨.dct4x4, 8, 8⟩), (4, ⟨.idct, 16, 16⟩),
   (5, ⟨.idct, 32, 32⟩), (6, ⟨.idct, 16, 8⟩), (7, ⟨.idct, 8, 16⟩), (8, ⟨.idct, 32, 8⟩), (9, ⟨.idct, 8, 32⟩),
   (10, ⟨.idct, 32, 16⟩), (11, ⟨.idct, 16, 32⟩), (12, ⟨.dct4x8, 8, 8⟩), (13, ⟨.dct8x4, 8, 8⟩), (14, ⟨.afv 0, 8, 8⟩),
   (15, ⟨.afv 1, 8, 8⟩), (16, ⟨.afv 2, 8, 8⟩), (17, ⟨.afv 3, 8, 8⟩), (18, ⟨.idct, 64, 64⟩)] ++
  [(19, ⟨.idct, 64, 32⟩), (20, ⟨.idct, 32, 64⟩), (21, ⟨.idct, 128, 128⟩), (22, ⟨.idct, 128, 64⟩),
   (23, ⟨.idct, 64, 128⟩), (24, ⟨.idct, 256, 256⟩), (25, ⟨.idct, 256, 128⟩), (26, ⟨.idct, 128, 256⟩)]

/-- The entry of a transform id in the machine's XFORM_CATALOG, none outside it (00_scope.md R9, 45_transforms.md
R333). -/
def xtype (p : Params) (t : Nat) : Option XType :=
  match assocGet (p.catalog.getD Config.catalog) t with
  | some x => if x.ok then some x else none
  | none => none

/-- The block positions a transform covers: `cb = (w / 8) * (h / 8)` (43_group_decoder.md R246). An id outside the
catalog covers none. -/
def coveredBlocks (p : Params) (t : Nat) : Nat :=
  match xtype p t with
  | some x => (x.w / 8) * (x.h / 8)
  | none => 0

/-- The key of a transform's scan order: its shape and the channel (43_group_decoder.md R244). -/
def orderKey (p : Params) (t c : Nat) : OrderKey :=
  match xtype p t with
  | some x => { h := x.h, w := x.w, channel := c }
  | none => { h := 0, w := 0, channel := c }

/-- The positions a transform at block (bx, by) covers (43_group_decoder.md R246). -/
def coveredPositions (p : Params) (t bx byy : Nat) : List (Nat × Nat) :=
  match xtype p t with
  | some x =>
    (List.range ((x.w / 8) * (x.h / 8))).map fun k => (bx + k % (x.w / 8), byy + k / (x.w / 8))
  | none => []

/-! ### Tables operands name -/

/-- The tables of a scope; a scope nothing has been built for has none, and its coder is ANS until its syntax says
otherwise (notes/assumptions/43.md). -/
def State.scope (s : State) (sc : ScopeId) : ScopeTables :=
  (assocGet s.ent sc).getD { coder := .ans, codes := [], htabs := [], ansState := none }

/-- Replace a scope's tables. -/
def setScope (sc : ScopeId) (f : ScopeTables → ScopeTables) : Op Unit :=
  upd fun s => s.setEnt fun e => assocSet e sc (f (s.scope sc))

/-- The frame's header, absent outside a frame. -/
def getFrame : Op FrameHeader := do
  let s ← getState
  present s.par.frame .frame

/-- The image header, absent before the file header. -/
def getImageHeader : Op ImageHeader := do
  let s ← getState
  present s.par.imageHeader .imageHeader

/-- The Modular image being decoded. -/
def getModImage : Op ModImage := do
  let s ← getState
  present s.mod.image .modImage

/-- Channel `c` of the Modular image. -/
def getChannel (c : Nat) : Op Channel := do
  let m ← getModImage
  present m.channels[c]? .modImage

/-- The HF block state. -/
def getHf : Op HfBlock := do
  let s ← getState
  present s.grp.hf .hfBlock

/-- LFGLOBAL. -/
def getLfGlobal : Op LfGlobal := do
  let s ← getState
  present s.grp.lfGlobal .lfGlobal

/-- SECT, absent outside a frame and before its TOC (10_state.md R35, R61). -/
def getSect : Op (List Section) := do
  let s ← getState
  match s.par.sect with
  | [] => stop (.fault (.absent .sect))
  | x :: rest => pure (x :: rest)

/-- HFMETA. -/
def getHfMeta : Op HfMeta := do
  let s ← getState
  present s.grp.hfMeta .hfMeta

/-- The coefficient, LF and map buffers of a VarDCT frame. -/
def getSide : Op Side := do
  let s ← getState
  present s.grp.side .buffer

/-- The render pipeline. -/
def getRender : Op Render := do
  let s ← getState
  present s.rnd .render

end Sys2Proof.Machine
end

