-- ==== Sys2Proof/Machine/Flags.lean ====
section
/-! DEFINITION. Flag and status computations: the codes of PHASE, MODE and ERR (10_state.md R22, R23,
60_exceptions.md R410), the frame flags and MODE (40_parser.md R148, R149), which frames are surfaced (R170),
INFO_VALID (R146), what PROCESS does to ERR at its start (R130), the per-coefficient flag PREV_NZ
(43_group_decoder.md R250). -/

namespace Sys2Proof.Machine

/-- Codes of PHASE, 0 to 6 (10_state.md R22). -/
def Phase.code : Phase → Nat
  | .needFileHeader => 0
  | .needColorProfile => 1
  | .needFrameHeaderToc => 2
  | .awaitingSections => 3
  | .frameDone => 4
  | .finished => 5
  | .faulted => 6

/-- Codes of MODE (10_state.md R23). -/
def Mode.code : Mode → Nat
  | .decode => 0
  | .skip => 1

/-- Codes of ERR, 0 to 5 (60_exceptions.md R410). -/
def ErrKind.code : ErrKind → Nat
  | .none => 0
  | .format => 1
  | .resourceLimit => 2
  | .incompleteInput => 3
  | .checksum => 4
  | .transform => 5

/-- MODE of a frame: DECODE if it is the preview, can be referenced, or is displayed with output buffers present,
else SKIP (40_parser.md R149). -/
def chooseMode (preview canRef display outPresent : Bool) : Mode :=
  if preview || canRef || (display && outPresent) then .decode else .skip

/-- Latch the four frame flags and MODE from a parsed frame header (40_parser.md R148, R149). -/
def Control.latchFrame (c : Control) (fh : FrameHeader) : Control :=
  { c with
    fPreview := fh.preview
    fCanRef := fh.canRef
    fDisplay := fh.display
    fLast := fh.last
    mode := chooseMode fh.preview fh.canRef fh.display c.out.isSome }

/-- Whether a frame's end yields FRAME_READY (40_parser.md R170). -/
def Control.surfaced (c : Control) : Bool :=
  c.fDisplay || (c.fPreview && !c.opt.skipPreview) || c.fLast

/-- ERR at the start of a PROCESS command: cleared only if it held INCOMPLETE_INPUT (10_state.md R25). -/
def ErrKind.atStart (e : ErrKind) : ErrKind :=
  match e with
  | .incompleteInput => .none
  | .none => .none
  | .format => .format
  | .resourceLimit => .resourceLimit
  | .checksum => .checksum
  | .transform => .transform

/-- PREV_NZ after a coefficient (43_group_decoder.md R250). -/
def prevNzAfter (v : Int) : Bool := decide (v ≠ 0)

end Sys2Proof.Machine
end

