-- ==== Sys2Proof/Machine/Float.lean ====
section
/-! DEFINITION. IEEE 754 binary32 arithmetic on bit patterns, round to nearest even, no traps, no flush to zero
(45_transforms.md R347, R349, decision D22): operands are taken to exact dyadic numbers, the result is computed
exactly and rounded once. Every NaN result is the canonical quiet NaN: DESIGN CHOICE, notes/assumptions/26.md. -/

namespace Sys2Proof.Machine.F32

/-- A binary32 number: not a number, an infinity, or `(-1)^neg * mant * 2^exp`. -/
inductive Value
  | nan
  | inf (neg : Bool)
  | fin (neg : Bool) (mant : Nat) (exp : Int)
  deriving DecidableEq, Repr, Inhabited

/-- The canonical quiet NaN. -/
def nan : F32 := 0x7FC00000#32

/-- An infinity. -/
def inf (neg : Bool) : F32 := if neg then 0xFF800000#32 else 0x7F800000#32

/-- The sign bit of a result that is assembled from its fields. -/
def signBit (neg : Bool) : Nat := if neg then 2 ^ 31 else 0

/-- The number a bit pattern stands for. -/
def value (f : F32) : Value :=
  let n := f.toNat
  let neg := decide (2 ^ 31 ≤ n)
  let e : Nat := n / 2 ^ 23 % 256
  let frac : Nat := n % 2 ^ 23
  if e = 255 then (if frac = 0 then .inf neg else .nan)
  else if e = 0 then .fin neg frac (-149)
  else .fin neg (frac + 2 ^ 23) ((e : Int) - 150)

/-- Divide by `2^d`, rounding to nearest, ties to even. -/
def shiftRound (m d : Nat) : Nat :=
  let q := m / 2 ^ d
  let r := m % 2 ^ d
  if d = 0 then m
  else if r > 2 ^ (d - 1) then q + 1
  else if r = 2 ^ (d - 1) then q + q % 2
  else q

/-- Assemble a finite number of at most 25 significant bits and quantum exponent `q >= -149`. -/
def assemble (neg : Bool) (m : Nat) (q : Int) : F32 :=
  let (m, q) := if m = 2 ^ 24 then (2 ^ 23, q + 1) else (m, q)
  if m < 2 ^ 23 then BitVec.ofNat 32 (signBit neg + m)
  else
    let e := (q + 150).toNat
    if 255 ≤ e then inf neg else BitVec.ofNat 32 (signBit neg + e * 2 ^ 23 + (m - 2 ^ 23))

/-- Round the exact value `(-1)^neg * mant * 2^exp`. -/
def round (neg : Bool) (mant : Nat) (exp : Int) : F32 :=
  if mant = 0 then BitVec.ofNat 32 (signBit neg)
  else
    let len : Int := (Nat.log2 mant : Int) + 1
    let q : Int := max (exp + len - 24) (-149)
    if q ≤ exp then assemble neg (mant * 2 ^ (exp - q).toNat) q
    else assemble neg (shiftRound mant (q - exp).toNat) q

/-- Change of sign. -/
def neg (f : F32) : F32 := f ^^^ 0x80000000#32

/-- Addition. -/
def add (a b : F32) : F32 :=
  match value a, value b with
  | .nan, _ => nan
  | _, .nan => nan
  | .inf s, .inf t => if s = t then inf s else nan
  | .inf s, .fin _ _ _ => inf s
  | .fin _ _ _, .inf t => inf t
  | .fin s m e, .fin t k d =>
    let lo := min e d
    let x : Int := (if s then -1 else 1) * (m * 2 ^ (e - lo).toNat : Nat)
    let y : Int := (if t then -1 else 1) * (k * 2 ^ (d - lo).toNat : Nat)
    let z := x + y
    if z = 0 then BitVec.ofNat 32 (signBit (m = 0 && k = 0 && s && t))
    else round (decide (z < 0)) z.natAbs lo

/-- Subtraction. -/
def sub (a b : F32) : F32 := add a (neg b)

/-- Multiplication. -/
def mul (a b : F32) : F32 :=
  match value a, value b with
  | .nan, _ => nan
  | _, .nan => nan
  | .inf s, .inf t => inf (s != t)
  | .inf s, .fin t k _ => if k = 0 then nan else inf (s != t)
  | .fin s m _, .inf t => if m = 0 then nan else inf (s != t)
  | .fin s m e, .fin t k d => round (s != t) (m * k) (e + d)

/-- Division. The quotient is taken with 60 extra bits and a sticky bit, enough to round once. -/
def div (a b : F32) : F32 :=
  match value a, value b with
  | .nan, _ => nan
  | _, .nan => nan
  | .inf _, .inf _ => nan
  | .inf s, .fin t _ _ => inf (s != t)
  | .fin s _ _, .inf t => BitVec.ofNat 32 (signBit (s != t))
  | .fin s m e, .fin t k d =>
    if k = 0 then (if m = 0 then nan else inf (s != t))
    else
      let q := m * 2 ^ 60 / k
      let r := m * 2 ^ 60 % k
      round (s != t) (2 * q + (if r = 0 then 0 else 1)) (e - d - 61)

/-- The float of a natural number. -/
def ofNat (n : Nat) : F32 := round false n 0

/-- The float of an integer. -/
def ofInt (z : Int) : F32 := round (decide (z < 0)) z.natAbs 0

end Sys2Proof.Machine.F32
end

