-- ==== Sys2Proof/Machine/Usual.lean ====
section
/-! DEFINITION. The configuration functions as the meanings call them (namespace `Cfg`): a function left open is its
opaque constant of Config; a function fixed by `Fn.usual` is the body the spec gives as the usual one (namespace
`Usual`; 93_implementation_defined.md part 3), where the spec gives one; a function fixed by a table answers from
the table. What the source does fix of an open function (the Zero predictor, a bound, a law) is fixed here for every
choice. -/

namespace Sys2Proof.Machine

/-- A configuration function at an argument. -/
def Fn.get {α β : Type} [DecidableEq α] (f : Fn α β) (open_ usual : α → β) (a : α) : β :=
  match f with
  | .free => open_ a
  | .usual => usual a
  | .table rows => (assocGet rows a).getD (open_ a)

/-- A parser function at an argument: a table answers NeedMore where it lists nothing. -/
def Fn.ask {α β : Type} [DecidableEq α] (f : Fn α (Answer β)) (open_ usual : α → Answer β) (a : α) : Answer β :=
  match f with
  | .free => open_ a
  | .usual => usual a
  | .table rows => (assocGet rows a).getD .needMore

/-! ### Usual bodies -/

namespace Usual

/-- 30_encoding.md R110: one bit `simple`, then `n` or `flat`. -/
def ansHistKind (b : Bits) : Answer HistKind :=
  match b with
  | true :: false :: _ => .parsed .single 2
  | true :: true :: _ => .parsed .two 2
  | false :: true :: _ => .parsed .flat 2
  | false :: false :: _ => .parsed .complex 2
  | _ => .needMore

/-- The variable-length 8-bit integer "U8" of 41_ans.md R192. -/
def u8 (b : Bits) : Answer Nat :=
  match b with
  | false :: _ => .parsed 0 1
  | true :: x :: y :: z :: rest =>
    let n := natOfBits [x, y, z]
    if n ≤ rest.length then .parsed (2 ^ n + natOfBits (rest.take n)) (4 + n) else .needMore
  | _ => .needMore

/-- 41_ans.md R194: U8 + 1. -/
def alphabetSize (b : Bits) : Answer Nat :=
  match u8 b with
  | .parsed v n => .parsed (v + 1) n
  | .needMore => .needMore
  | .malformed k => .malformed k

/-- 30_encoding.md R111: a 2-bit field. -/
def huffKind (b : Bits) : Answer HuffKind :=
  match b with
  | x :: y :: _ =>
    let v := natOfBits [x, y]
    .parsed (if v = 1 then .simple else .general v) 2
  | _ => .needMore

/-- Fields of `w` bits each. -/
def fields (w n : Nat) (b : Bits) : List Nat :=
  match n with
  | 0 => []
  | n + 1 => natOfBits (b.take w) :: fields w n (b.drop w)

/-- 42_huffman.md R222: `ReadBits(2) + 1` symbols of `ceil(log2(A))` bits each. -/
def simpleSymbols (a : Nat × Bits) : Answer (List Nat) :=
  match a.2 with
  | x :: y :: rest =>
    let n := natOfBits [x, y] + 1
    let w := ceilLog2 a.1
    if n * w ≤ rest.length then .parsed (fields w n rest) (2 + n * w) else .needMore
  | _ => .needMore

/-- 30_encoding.md R116. -/
def unpackSigned (u : Nat) : Int := if u % 2 = 0 then (u / 2 : Nat) else -((u + 1) / 2 : Nat)

/-- 43_group_decoder.md R248: `f(n) * num_block_ctxs + b`. -/
def nonZeroContext (a : Nat × Nat × Nat) : Nat :=
  let f := if a.1 < 8 then a.1 else if a.1 < 64 then 4 + a.1 / 2 else 36
  f * a.2.2 + a.2.1

/-- 43_group_decoder.md R249. -/
def capacity (p : Params) (t : Nat) : Nat := 64 * coveredBlocks p t - coveredBlocks p t

/-- 43_group_decoder.md R257: the count per covered position, rounded up. -/
def nzStored (a : Nat × Nat) : Nat := (a.1 + a.2 - 1) / a.2

/-- 43_group_decoder.md R250. -/
def initialPrev (a : Nat × Nat) : Bool := decide (a.2 / 16 < a.1)

/-- 43_group_decoder.md R250. -/
def firstAc (p : Params) (t : Nat) : Nat := coveredBlocks p t

/-- The pass's shift in the frame header's list (00_scope.md R9, "pass shifts"; 43_group_decoder.md R250 gives no usual
body); a pass for which the header lists no shift has shift 0 (DESIGN CHOICE, notes/assumptions/60.md). -/
def passShift (a : Nat × List Nat) : Nat := (a.2[a.1]?).getD 0

/-- The addition that the pseudocode of 43_group_decoder.md R250 writes. -/
def accumulate (a : Nat × Int × Int) : Int := a.2.1 + a.2.2

/-- 43_group_decoder.md R245: Y, then X, then B. -/
def channelOrder (_ : Unit) : List Nat := [1, 0, 2]

/-- Context numbers of the six tree fields; the spec names six contexts and no numbers (PRESUMED,
notes/assumptions/20.md). -/
def treeContext : TreeField → Nat
  | .threshold => 0
  | .property => 1
  | .predictor => 2
  | .offset => 3
  | .multLog => 4
  | .multBits => 5

/-- 44_modular.md R282: the tag is `property + 1`, 0 for Leaf. -/
def treeTag (u : Nat) : Option Nat := if u = 0 then none else some (u - 1)

/-- 44_modular.md R287: 16 base properties, then four per referenced previous channel; 256 bounds the list
(PRESUMED, notes/assumptions/20.md). -/
def propertyDefined (p : Nat) : Bool := decide (p < 256)

/-- 44_modular.md R289, by index. -/
def predictorOf (k : Nat) : Option Predictor :=
  [Predictor.zero, .left, .top, .average0, .select, .gradient, .weighted, .topRight, .topLeft, .leftLeft,
   .average1, .average2, .average3, .average4][k]?

/-- 44_modular.md R282: `(bits + 1) shl log`. -/
def multiplierFrom (a : Nat × Nat) : Nat := (a.2 + 1) * 2 ^ a.1

/-- `clamp(W + N - NW, min(W, N), max(W, N))` (44_modular.md R289). -/
def gradient (nb : Neighbours) : Int :=
  clampInt (nb.w + nb.n - nb.nw) (min nb.w nb.n) (max nb.w nb.n)

/-- The four properties of one previous channel (44_modular.md R287 gives their number; PRESUMED,
notes/assumptions/20.md). -/
def prevProperties (e : Int × Neighbours) : List Int :=
  [|e.1|, e.1, |e.1 - gradient e.2|, e.1 - gradient e.2]

/-- 44_modular.md R287, the usual numbering. -/
def propertyTable (a : PropertyInput) : List Int :=
  [(a.channel : Int), a.stream, a.y, a.x, |a.nb.n|, |a.nb.w|, a.nb.n, a.nb.w, a.nb.w - a.leftGrad,
   a.nb.w + a.nb.n - a.nb.nw, a.nb.w - a.nb.nw, a.nb.nw - a.nb.n, a.nb.n - a.nb.ne, a.nb.n - a.nb.nn,
   a.nb.w - a.nb.ww, a.wpError] ++ a.prev.flatMap prevProperties

/-- 44_modular.md R287: the weighted predictor's error is property 15. -/
def wpProperty (k : Nat) : Bool := decide (k = 15)

/-- 44_modular.md R291; a missing NEE, of which the rule does not speak, is NE (notes/assumptions/45.md). -/
def neighbours (a : (Nat × Nat × Nat) × RawNeighbours) : Neighbours :=
  let r := a.2
  let w := r.w.getD (r.n.getD 0)
  let n := r.n.getD w
  let ne := r.ne.getD n
  { w := w, n := n, nw := r.nw.getD w, ne := ne, ww := r.ww.getD w, nn := r.nn.getD n, nee := r.nee.getD ne }

/-- 44_modular.md R289; divisions truncate toward zero. -/
def predictOne (a : Predictor × Neighbours × Int) : Int :=
  let nb := a.2.1
  match a.1 with
  | .zero => 0
  | .left => nb.w
  | .top => nb.n
  | .average0 => (nb.w + nb.n).tdiv 2
  | .select =>
    let p := nb.w + nb.n - nb.nw
    if |p - nb.w| < |p - nb.n| then nb.w else nb.n
  | .gradient => gradient nb
  | .weighted => a.2.2
  | .topRight => nb.ne
  | .topLeft => nb.nw
  | .leftLeft => nb.ww
  | .average1 => (nb.w + nb.nw).tdiv 2
  | .average2 => (nb.n + nb.nw).tdiv 2
  | .average3 => (nb.n + nb.ne).tdiv 2
  | .average4 => (6 * nb.n - 2 * nb.nn + 7 * nb.w + nb.ww + nb.nee + 3 * nb.ne + 8).tdiv 16

/-- 44_modular.md R292: three extra fractional bits. -/
def wpScale (z : Int) : Int := z * 8

/-- 44_modular.md R292: `(p + 3) shr 3`. -/
def wpUnscale (p : Int) : Int := sar (p + 3) 3

/-- The scaled error of an estimator from the absolute difference (44_modular.md R296; the scaling is PRESUMED,
notes/assumptions/20.md). -/
def wpErr (d : Nat) : Nat := (d + 3) / 8

/-- 44_modular.md R293, estimators 1 to 3. A true error that does not exist is that of N, and 0 for W and N
(PRESUMED, notes/assumptions/20.md). -/
def wpEstimator (a : Nat × WpInput) : Int :=
  let i := a.2
  let p := fun k => (i.coeffs[k]?).getD 0
  let teN := i.teN.getD 0
  let teW := i.teW.getD 0
  let teNW := i.teNW.getD teN
  let teNE := i.teNE.getD teN
  if a.1 = 1 then i.nb.n - sar ((teW + teN + teNE) * p 0) 5
  else if a.1 = 2 then i.nb.w - sar ((teW + teN + teNW) * p 1) 5
  else i.nb.n - sar (teNW * p 2 + teN * p 3 + teNE * p 4 + (i.nb.nn - i.nb.n) * p 5 + (i.nb.nw - i.nb.w) * p 6) 5

/-- `DIV[k] = 2^24 / (k + 1)` (44_modular.md R294). -/
def wpDiv (k : Nat) : Nat := 2 ^ 24 / (k + 1)

/-- 44_modular.md R294, from the accumulators at N, NE, NW; one that does not exist is that of N, and 0 for N
(DESIGN CHOICE, notes/assumptions/46.md). -/
def wpWeight (a : Nat × List (Option Nat)) : Nat :=
  let n := ((a.2[0]?).getD none).getD 0
  let e := n + ((a.2[1]?).getD none).getD n + ((a.2[2]?).getD none).getD n
  let s := floorLog2 (e + 1) - 5
  4 + (a.1 * wpDiv (e / 2 ^ s)) / 2 ^ s

/-- The shared shift of 44_modular.md R295, from `floor_log2` of the sum of the weights: the sum keeps five bits
(PRESUMED, notes/assumptions/20.md). -/
def wpShift (log : Nat) : Nat := log - 4

/-- The division of 44_modular.md R295 as a multiplication with a looked-up reciprocal (rounding PRESUMED,
notes/assumptions/20.md). -/
def wpQuotient (a : Int × Nat) : Int := sar ((((a.2 / 2 : Nat) : Int) - 1 + a.1) * wpDiv (a.2 - 1)) 24

/-- The neighbours whose span the clamp takes (44_modular.md R295). -/
def wpSpan : List Compass := [.w, .n, .ne]

/-- 44_modular.md R302, at k, channel, bit depth. -/
def smallCube (a : Nat × Nat × Nat) : Int :=
  let d := a.1 / 4 ^ a.2.1 % 4
  if 3 ≤ a.2.1 then 0 else ((d * (2 ^ a.2.2 - 1)) / 4 + 2 ^ (a.2.2 - 3) : Nat)

/-- 44_modular.md R303. -/
def largeCube (a : Nat × Nat × Nat) : Int :=
  let d := a.1 / 5 ^ a.2.1 % 5
  if 3 ≤ a.2.1 then 0 else ((d * (2 ^ a.2.2 - 1)) / 4 : Nat)

/-- 44_modular.md R304: `j = -(idx + 1)` reduced mod 143, entry `(j + 1) shr 1`. -/
def deltaEntry (idx : Int) : Nat := (((-(idx + 1)) % 143).toNat + 1) / 2

/-- 45_transforms.md R331: the longer side of the buffer is horizontal, so that a thin transform's coefficients are
stored transposed. -/
def coeffLayout (a : XKind × Nat × Nat) : List Nat :=
  let h := a.2.1
  let w := a.2.2
  (List.range (h * w)).map fun i => if w < h then i % w * h + i / w else i

end Usual

/-! ### The configuration functions -/

/-- The neighbouring pixel in a direction. -/
def pixelAt (nb : Neighbours) (d : Compass) : Int :=
  match d with
  | .w => nb.w
  | .n => nb.n
  | .nw => nb.nw
  | .ne => nb.ne
  | .ww => nb.ww
  | .nn => nb.nn
  | .nee => nb.nee

namespace Cfg

variable (p : Params)

def ansFinalState : Word := p.ansFinalState.getD Config.ansFinalState
def ansInitLazy : Bool := p.ansInitLazy.getD Config.ansInitLazy
def huffTableBits : Nat := p.huffTableBits.getD Config.huffTableBits
def maxTreeHeight : Nat := p.maxTreeHeight.getD Config.maxTreeHeight
def maxTreeNodes : Nat := p.maxTreeNodes.getD Config.maxTreeNodes
def numRefSlots : Nat := p.numRefSlots.getD Config.numRefSlots
def modSampleBits : Nat := p.modSampleBits.getD Config.modSampleBits
def outEndianDefault : Endian := p.outEndianDefault.getD Config.outEndianDefault
/-- The side in blocks of a colour-correlation tile, at least 1. -/
def tileBlocks : Nat := max 1 (p.tileBlocks.getD Config.tileBlocks)

/-! The header functions. What the two header parsers reject is Format; the colour profile and the TOC carry the kind of
a nested error (40_parser.md R143). -/

/-- `HeaderInt` (30_encoding.md R116). -/
def headerInt (b : Bits) : Answer Nat := Fn.ask p.headerInt Config.headerInt Config.headerInt b
def parseFileHeader (b : Bits) : Answer ImageHeader :=
  let f := Config.parseFileHeader (headerInt p)
  (Fn.ask p.parseFileHeader f f b).asFormat
def parseColorProfile (h : ImageHeader) (b : Bits) : Answer (List Byte) :=
  let f := Config.parseColorProfile (headerInt p)
  (Fn.ask p.parseColorProfile f f (h, b)).asNested

/-- `ParseFrameHeader`. A header takes at least one bit, so that a stream cannot make the block loop without consuming
input (70_reset_and_hazards.md R471; DEDUCED, notes/assumptions/25.md). -/
def parseFrameHeader (h : ImageHeader) (b : Bits) : Answer FrameHeader :=
  let f := Config.parseFrameHeader (headerInt p)
  match (Fn.ask p.parseFrameHeader f f (h, b)).asFormat with
  | .parsed fh n => if 1 ≤ n then .parsed fh n else .malformed .format
  | .needMore => .needMore
  | .malformed k => .malformed k
def parseToc (fh : FrameHeader) (b : Bits) : Answer TocFields :=
  let f := Config.parseToc (headerInt p)
  (Fn.ask p.parseToc f f (fh, b)).asNested

/-! The other syntax functions. What they reject is `Malformed(FORMAT)` (93_implementation_defined.md V18). -/

def scopeSpec (sc : ScopeId) (b : Bits) : Answer ScopeSpec :=
  (Fn.ask p.scopeSpec Config.scopeSpec Config.scopeSpec (sc, b)).asFormat
def lfMember (e : Encoding) (m : LfMember) (b : Bits) : Answer Blob :=
  (Fn.ask p.lfMember Config.lfMember Config.lfMember ((e, m), b)).asFormat
def sharedTreeFlag (b : Bits) : Answer Bool :=
  (Fn.ask p.sharedTreeFlag Config.sharedTreeFlag Config.sharedTreeFlag b).asFormat
def modularSpec (m : ModSite) (b : Bits) : Answer ModSpec :=
  (Fn.ask p.modularSpec Config.modularSpec Config.modularSpec (m, b)).asFormat
def lfMaps (a : LfInput) : LfMaps := Fn.get p.lfMaps Config.lfMaps Config.lfMaps a
/-! The dequant matrices and the scan orders may hold entropy-coded parts, as the permutation of a TOC does: they carry
the kind Checksum of a nested error, which 43_group_decoder.md R244 lists beside Format (notes/assumptions/30.md). -/

def dequantMatrices (b : Bits) : Answer (List ((Nat × Nat) × List F32)) :=
  (Fn.ask p.dequantMatrices Config.dequantMatrices Config.dequantMatrices b).asCoded
def scanOrders (pass : Nat) (b : Bits) : Answer (List (OrderKey × List Nat)) :=
  (Fn.ask p.scanOrders Config.scanOrders Config.scanOrders (pass, b)).asCoded
def framePlanes (h : ImageHeader) (fh : FrameHeader) : List (Nat × Nat × SampleType) :=
  Fn.get p.framePlanes Config.framePlanes Config.framePlanes (h, fh)
/-- The sample of a plane from an integer of a Modular channel: the integer in a plane of integers, else an open
conversion (notes/assumptions/16.md). -/
def planeSample (ty : SampleType) (z : Int) : Sample :=
  if ty = .int then .int z else (Fn.get p.planeSample Config.planeSample Config.planeSample z).pick ty

def ansHistKind (b : Bits) : Answer HistKind := (Fn.ask p.ansHistKind Config.ansHistKind Usual.ansHistKind b).asFormat
def symbolIndex (b : Bits) : Answer Nat := (Fn.ask p.symbolIndex Config.symbolIndex Usual.u8 b).asFormat
def alphabetSize (b : Bits) : Answer Nat := (Fn.ask p.alphabetSize Config.alphabetSize Usual.alphabetSize b).asFormat
def complexCounts (las : Nat) (b : Bits) : Answer (List Nat) :=
  (Fn.ask p.complexCounts Config.complexCounts Config.complexCounts (las, b)).asFormat
def contextToHistogram (sc : ScopeId) (ctx : Nat) : Nat :=
  Fn.get p.contextToHistogram Config.contextToHistogram Config.contextToHistogram (sc, ctx)
def symbolToValue (sym : Nat) (b : Bits) : Answer Nat :=
  (Fn.ask p.symbolToValue Config.symbolToValue Config.symbolToValue (sym, b)).asFormat
def unpackSigned (u : Nat) : Int := Fn.get p.unpackSigned Config.unpackSigned Usual.unpackSigned u
def huffKind (b : Bits) : Answer HuffKind := (Fn.ask p.huffKind Config.huffKind Usual.huffKind b).asFormat
def simpleSymbols (a : Nat) (b : Bits) : Answer (List Nat) :=
  (Fn.ask p.simpleSymbols Config.simpleSymbols Usual.simpleSymbols (a, b)).asFormat
def codeLengths (a skip : Nat) (b : Bits) : Answer (List Nat) :=
  (Fn.ask p.codeLengths Config.codeLengths Config.codeLengths ((a, skip), b)).asFormat

def channelOrder : List Nat := Fn.get p.channelOrder Config.channelOrder Usual.channelOrder ()
def blockContext (c t q : Nat) (blk : Blob) : Nat :=
  Fn.get p.blockContext Config.blockContext Config.blockContext ((c, t, q), blk)
def nonZeroContext (pred b : Nat) (blk : Blob) : Nat :=
  Fn.get p.nonZeroContext Config.nonZeroContext Usual.nonZeroContext
    (pred, b, Fn.get p.numBlockContexts Config.numBlockContexts Config.numBlockContexts blk)
/-- `Capacity`, "bounded above by 64 * cb" (43_group_decoder.md R249). -/
def capacity (t : Nat) : Nat :=
  min (Fn.get p.capacity Config.capacity (Usual.capacity p) t) (64 * coveredBlocks p t)
/-- The value NZ_MAP receives: "for cb = 1 it is nz itself" (43_group_decoder.md R257). -/
def nzStored (nz cb : Nat) : Nat :=
  if cb = 1 then nz else Fn.get p.nzStored Config.nzStored Usual.nzStored (nz, cb)
def zeroDensityContext (left k cb : Nat) (prev : Bool) : Nat :=
  Fn.get p.zeroDensityContext Config.zeroDensityContext Config.zeroDensityContext ((left, k, cb), prev)
def contextOffset (b : Nat) : Nat := Fn.get p.contextOffset Config.contextOffset Config.contextOffset b
def initialPrev (nz size : Nat) : Bool := Fn.get p.initialPrev Config.initialPrev Usual.initialPrev (nz, size)
def firstAc (t : Nat) : Nat := Fn.get p.firstAc Config.firstAc (Usual.firstAc p) t
def passShift (pass : Nat) (shifts : List Nat) : Nat :=
  Fn.get p.passShift Config.passShift Usual.passShift (pass, shifts)
/-- The coefficient after the shifted value `d` has come to `old` in a pass. Across passes the accumulation is open; in the
first pass there is no earlier one to accumulate over, and the addition of the pseudocode of 43_group_decoder.md R250
stands (DEDUCED, notes/assumptions/55.md). -/
def accumulate (pass : Nat) (old d : Int) : Int :=
  if pass = 0 then old + d else Fn.get p.accumulate Config.accumulate Usual.accumulate (pass, old, d)
/-- The scan order of a shape for which none was coded: a permutation of the shape's positions, whichever it is
(91_not_in_source.md N12). -/
def defaultOrder (key : OrderKey) : List Nat :=
  let o := Fn.get p.defaultOrder Config.defaultOrder Config.defaultOrder key
  if isPermutation o (key.h * key.w) then o else List.range (key.h * key.w)
def lfPositions (t : Nat) : List Nat := Fn.get p.lfPositions Config.lfPositions Config.lfPositions t
def lfValue (t c i : Nat) (lf : List Int) (quantizer : Blob) : F32 :=
  Fn.get p.lfValue Config.lfValue Config.lfValue ((t, c, i), lf, quantizer)
def invGlobalScale (q : Blob) : F32 := Fn.get p.invGlobalScale Config.invGlobalScale Config.invGlobalScale q
def adjustBias (c : Nat) (v : Int) : F32 := Fn.get p.adjustBias Config.adjustBias Config.adjustBias (c, v)
def channelMul (c : Nat) : F32 := Fn.get p.channelMul Config.channelMul Config.channelMul c
def dequantMatrix (t c k : Nat) : F32 := Fn.get p.dequantMatrix Config.dequantMatrix Config.dequantMatrix (t, c, k)
def correlation (c bx byy : Nat) (cc : Blob) (factor : Int) : F32 :=
  Fn.get p.correlation Config.correlation Config.correlation ((c, bx, byy), cc, factor)

def treeContext (f : TreeField) : Nat := Fn.get p.treeContext Config.treeContext Usual.treeContext f
def treeTag (u : Nat) : Option Nat := Fn.get p.treeTag Config.treeTag Usual.treeTag u
def propertyDefined (k : Nat) : Bool := Fn.get p.propertyDefined Config.propertyDefined Usual.propertyDefined k
def predictorOf (k : Nat) : Option Predictor := Fn.get p.predictorOf Config.predictorOf Usual.predictorOf k
def multiplierFrom (log bits : Nat) : Nat :=
  Fn.get p.multiplierFrom Config.multiplierFrom Usual.multiplierFrom (log, bits)
def propertyTable (a : PropertyInput) : List Int :=
  Fn.get p.propertyTable Config.propertyTable Usual.propertyTable a
/-- Whether a property carries an output of the weighted predictor (44_modular.md R287, R296). -/
def wpProperty (k : Nat) : Bool := Fn.get p.wpProperty Config.wpProperty Usual.wpProperty k
/-- `Neighbours(ch, x, y)`: a neighbour inside the channel is its sample; only what a missing one counts as is open
(44_modular.md R291). -/
def neighbours (at_ : Nat × Nat × Nat) (r : RawNeighbours) : Neighbours :=
  let n := Fn.get p.neighbours Config.neighbours Usual.neighbours (at_, r)
  { w := r.w.getD n.w, n := r.n.getD n.n, nw := r.nw.getD n.nw, ne := r.ne.getD n.ne, ww := r.ww.getD n.ww
    nn := r.nn.getD n.nn, nee := r.nee.getD n.nee }
/-- `PredictOne`, "of which only the Zero case is fixed by the source (it returns 0)" (44_modular.md R289). -/
def predictOne (pr : Predictor) (nb : Neighbours) (wp : Int) : Int :=
  if pr = .zero then 0 else Fn.get p.predictOne Config.predictOne Usual.predictOne (pr, nb, wp)
def wpScale (z : Int) : Int := Fn.get p.wpScale Config.wpScale Usual.wpScale z
def wpUnscale (z : Int) : Int := Fn.get p.wpUnscale Config.wpUnscale Usual.wpUnscale z
def wpErr (d : Nat) : Nat := Fn.get p.wpErr Config.wpErr Usual.wpErr d
/-- Estimator 0 is `W + NE - N`; the three others are open (44_modular.md R293). -/
def wpEstimator (k : Nat) (a : WpInput) : Int :=
  if k = 0 then a.nb.w + a.nb.ne - a.nb.n else Fn.get p.wpEstimator Config.wpEstimator Usual.wpEstimator (k, a)
/-- The lists of accumulators that are missing where these are missing and nowhere larger. -/
def noLarger (acc : List (Option Nat)) : List (List (Option Nat)) :=
  match acc with
  | [] => [[]]
  | none :: rest => (noLarger rest).map fun l => none :: l
  | some n :: rest => (List.range (n + 1)).flatMap fun k => (noLarger rest).map fun l => some k :: l

/-- `WpWeights`. "A larger accumulated error gives a smaller weight" (44_modular.md R294): whatever the open function
is, the weight is the least it gives to accumulators none of which is larger, so that it does not grow with any of them;
a function that does not grow by itself, as the usual one does not, is its own (notes/assumptions/46.md). -/
def wpWeight (maxw : Nat) (acc : List (Option Nat)) : Nat :=
  if p.wpWeight = .usual then Usual.wpWeight (maxw, acc)
  else
    let f := fun a => Fn.get p.wpWeight Config.wpWeight Usual.wpWeight (maxw, a)
    (noLarger acc).foldl (fun v a => min v (f a)) (f acc)
/-- `weighted_average`, "the integer weighted mean of the four estimates": the weights are shifted right by one shared
amount derived from `floor_log2` of their sum (44_modular.md R295). How the quotient is rounded is open, so it is one of
the two integers next to it; with all weights shifted to 0 the rule gives no mean, and the value is free
(notes/assumptions/20.md). -/
def wpAverage (est : List Int) (w : List Nat) : Int :=
  let k := Fn.get p.wpShift Config.wpShift Usual.wpShift (floorLog2 w.sum)
  let ws := w.map fun v => v / 2 ^ k
  let n := (List.zipWith (fun (e : Int) (v : Nat) => e * v) est ws).sum
  let d : Int := ws.sum
  let v := Fn.get p.wpQuotient Config.wpQuotient Usual.wpQuotient (n, ws.sum)
  if d = 0 then v else clampInt v (n.fdiv d) (-((-n).fdiv d))
/-- The range the clamp step clamps to, "spanned by neighbouring pixels", by default W, N, NE (44_modular.md R295). -/
def wpRange (nb : Neighbours) : Int × Int :=
  match (p.wpSpan.getD Config.wpSpan).map (pixelAt nb) with
  | [] => (min nb.w (min nb.n nb.ne), max nb.w (max nb.n nb.ne))
  | v :: rest => (rest.foldl min v, rest.foldl max v)
def smallCube (k c depth : Nat) : Int := Fn.get p.smallCube Config.smallCube Usual.smallCube (k, c, depth)
def largeCube (k c depth : Nat) : Int := Fn.get p.largeCube Config.largeCube Usual.largeCube (k, c, depth)
/-- `DeltaPalette`: one of 72 entries, "sign flipped on odd offsets", so that indices of opposite parity that share
an entry give values of opposite sign (44_modular.md R304). -/
def deltaPalette (idx : Int) (c depth : Nat) : Int :=
  let e := Fn.get p.deltaEntry Config.deltaEntry Usual.deltaEntry idx % 72
  let v := Fn.get p.deltaTable Config.deltaTable Config.deltaTable (e, c, depth)
  if idx % 2 = 0 then v else -v

/-- `CoeffLayout`, "part of the configuration function of each transform": no two frequencies share a place, so it is a
permutation of the places, whichever it is (45_transforms.md R331, notes/assumptions/10.md). -/
def coeffLayout (kind : XKind) (h w : Nat) : List Nat :=
  let l := Fn.get p.coeffLayout Config.coeffLayout Usual.coeffLayout (kind, h, w)
  if isPermutation l (h * w) then l else List.range (h * w)

def buildPipeline (a : PipelineInput) : List RStage :=
  Fn.get p.buildPipeline Config.buildPipeline Config.buildPipeline a
def spotFormula (a : PipelineInput) : Nat := Fn.get p.spotFormula Config.spotFormula Config.spotFormula a
def isSpot (k : Nat) : Bool := Fn.get p.isSpot Config.isSpot Config.isSpot k
def isAlpha (k : Nat) : Bool := Fn.get p.isAlpha Config.isAlpha Config.isAlpha k
/-! A stage's functions give a sample of the type of the buffer it goes to (47_image_buffer.md R390). -/

def inplaceFn (ty : SampleType) (a : InplaceInput) : Sample :=
  (Fn.get p.inplaceFn Config.inplaceFn Config.inplaceFn a).pick ty
def inoutFn (ty : SampleType) (a : InoutInput) : Sample := (Fn.get p.inoutFn Config.inoutFn Config.inoutFn a).pick ty
def padding (ty : SampleType) (a : PaddingInput) : Sample := (Fn.get p.padding Config.padding Config.padding a).pick ty
/-- A colour sample multiplied by an alpha sample: a binary32 product of floats; of other samples an open value
(46_render_pipeline.md R375, notes/assumptions/50.md). -/
def premultiplied (v a : Sample) : Sample :=
  match v, a with
  | .flt x, .flt y => .flt (F32.mul x y)
  | v, a => (Fn.get p.premultiplied Config.premultiplied Config.premultiplied (v, a)).pick v.type
/-- A sample of a colour channel as colour management takes it, a float: a float itself, another sample's open
conversion (46_render_pipeline.md R373, notes/assumptions/39.md). -/
def toFloat (v : Sample) : F32 :=
  match v with
  | .flt x => x
  | v => Fn.get p.floatOf Config.floatOf Config.floatOf v
/-- The sample of a channel of type `ty` from a float colour management gives: the float itself, or an open conversion
(notes/assumptions/39.md). -/
def fromFloat (ty : SampleType) (x : F32) : Sample :=
  if ty = .float then .flt x else (Fn.get p.ofFloat Config.ofFloat Config.ofFloat x).pick ty
def expectedPlanes (h : ImageHeader) (f : Option PixelFormat) : List (Nat × Nat) :=
  Fn.get p.expectedPlanes Config.expectedPlanes Config.expectedPlanes (h, f)
/-- The output format: the override, or the default of the image header with byte order OUT_ENDIAN_DEFAULT
(46_render_pipeline.md R375). -/
def outputFormat (h : ImageHeader) (f : Option PixelFormat) : PixelFormat :=
  match f with
  | some f => f
  | none =>
    let d := Fn.get p.defaultFormat Config.defaultFormat Config.defaultFormat h
    { layout := d.1, sampleType := d.2, endian := outEndianDefault p }
def convert (v : Sample) (ty : Nat) (depth : BitDepth) : Nat × Nat :=
  Fn.get p.convert Config.convert Config.convert (v, ty, depth)
def pixelOffset (x channel layout : Nat) : Nat :=
  Fn.get p.pixelOffset Config.pixelOffset Config.pixelOffset (x, channel, layout)
def cms (handle n i : Nat) (input : List F32) : F32 :=
  Fn.get p.cms Config.cms Config.cms ((handle, n, i), input)

end Cfg

end Sys2Proof.Machine
end

