-- ==== Sys2Proof/Machine/HostCmd.lean ====
section
/-! DEFINITION. The three HOST commands (40_parser.md R130, R138, 70_reset_and_hazards.md R450), and HOST's acts
between commands. PROCESS starts the
command; the operations its loop selects are run by the following steps, one each, until BUSY is cleared again
(Step.lean, notes/assumptions/1.md). -/

namespace Sys2Proof.Machine

/-- The frame in progress fixes the presence of output buffers (60_exceptions.md R433). -/
def State.frameInProgress (s : State) : Bool := s.par.frame.isSome

/-- Why HOST's PROCESS is outside the contract, if it is (60_exceptions.md R433). -/
def processRefusal (src : Nat) (opts : Options) (out : Option (List Plane)) (s : State) : Option Refusal :=
  if s.ctl.busy then some .reentrant
  else if s.ctl.phase = .finished then some .finished
  else if s.ctl.phase = .faulted then none
  else if s.ctl.optValid ∧ s.ctl.opt ≠ opts then some .optionsChanged
  else if s.ctl.optValid ∧ s.ctl.src ≠ src then some .sourceChanged
  else if s.frameInProgress ∧ s.ctl.out.isSome ≠ out.isSome then some .outPresenceChanged
  else none

/-- PROCESS (40_parser.md R130): in FAULTED it returns the latched error and changes nothing; else it sets BUSY,
clears ERR if it held INCOMPLETE_INPUT, and takes its operands. -/
def execProcess (src : Nat) (opts : Options) (out : Option (List Plane)) (s : State) :
    Host.Outcome State Fault Refusal :=
  match processRefusal src opts out s with
  | some r => .refused r
  | none =>
    if s.ctl.phase = .faulted then .next (s.setRet (.result (.err s.ctl.err 0)))
    else
      .next ((s.setCtl fun c =>
        { c with busy := true, err := c.err.atStart, opt := opts, optValid := true, src := src, out := out }).setRet
          .none)

/-- RESET (70_reset_and_hazards.md R450): everything that is CORE's returns to its value of 10_state.md R61. HOST's
objects and the inputs of the step are not CORE's and stay, but that the handles, which start again, are handles of other
allocations (notes/assumptions/61.md). -/
def execReset (s : State) : Host.Outcome State Fault Refusal :=
  if s.ctl.busy then .refused .reentrant
  else .next { State.reset with host := s.host, inp := s.counted.inp }

/-- OUT.QUERY (40_parser.md R138). -/
def execOutQuery (s : State) : Host.Outcome State Fault Refusal :=
  if s.ctl.busy then .refused .reentrant
  else if s.ctl.infoValid then
    run (do
      let h ← getImageHeader
      let p ← getParams
      pure (.planes (Cfg.expectedPlanes p h s.ctl.opt.pixelFormat))) s
  else .refused .noInfo

/-! ### What HOST does between commands -/

/-- An act of HOST between commands: FEED reveals more bytes of a source (20_memory.md R76, 30_encoding.md R122); a new
source is handed over; HOST writes a byte of its own memory (R88); HOST issues an operation. -/
def HostSide.act (h : HostSide) (a : HostAct) : HostSide :=
  match a with
  | .feed src n =>
    match h.sources[src]? with
    | some x => { h with sources := h.sources.set src { x with availEnd := min (x.availEnd + n) x.bytes.length } }
    | none => h
  | .supply bytes => { h with sources := h.sources ++ [{ bytes := bytes, pos := 0, availEnd := 0 }] }
  | .write addr b => { h with outMem := h.outMem.write addr b }
  | .issue words => { h with issue := words }

/-- HOST's next act; nothing happens when HOST has nothing to do (60_exceptions.md R425, R436). -/
def hostStep (s : State) : State :=
  match s.host.script with
  | [] => s
  | a :: rest => s.setHost fun h => { h with script := rest }.act a

end Sys2Proof.Machine
end

