-- ==== Sys2Proof/Machine/ImageBuffer.lean ====
section
/-! DEFINITION. The IMGBUF operations (47_image_buffer.md): allocation, row and rectangle views, freeing. A view is a
buffer of its own that borrows from its root; it lives until the end of the operation it was taken for
(R396, notes/assumptions/14.md). -/

namespace Sys2Proof.Machine

/-- Whether a live view borrows from the buffer (47_image_buffer.md R397). -/
def Buffer.borrowsFrom (v : Buffer) (h : Nat) : Bool :=
  match v.ownership with
  | .owned => false
  | .borrowed parent _ _ root _ _ _ => decide (parent = h) || decide (root = h)

/-- A view of the rectangle (x0, y0, w, h) of buffer `h`, after the bounds check (47_image_buffer.md R393, R395,
R396). -/
def view (h x0 y0 w ht : Nat) (mode : Access) : Op Nat := do
  let b ← getBuf h
  if x0 + w ≤ b.width ∧ y0 + ht ≤ b.height then do
    let r := rootOf h b
    let rect : Rect := { x0 := r.2.1 + x0, y0 := r.2.2 + y0, w := w, h := ht }
    let s ← getState
    if s.img.bufs.any fun e => e.2.forbids r.1 rect mode then stop (.fault .viewOverlap)
    else do
      upd fun s => s.setImg fun i =>
        { i with
          bufs := assocSet i.bufs i.next
            { width := w, height := ht, ty := b.ty, stride := b.stride,
              ownership := .borrowed h x0 y0 r.1 rect.x0 rect.y0 mode, samples := [] }
          next := i.next + 1 }
      pure s.img.next
  else stop (.fault .outOfBounds)

/-- Whether a list has a repeated element. -/
def repeats (l : List Nat) : Bool :=
  match l with
  | [] => false
  | x :: rest => rest.contains x || repeats rest

/-- I.ALLOC (47_image_buffer.md R391). -/
def execIAlloc (width height : Nat) (ty : SampleType) (s : State) : Host.Outcome State Fault Refusal :=
  run (do
    let h ← alloc width height ty
    pure (.buf h)) s

/-- I.ROW (47_image_buffer.md R392): the row's length is the width, never the stride. -/
def execIRow (b y : Nat) (mode : Access) (s : State) : Host.Outcome State Fault Refusal :=
  run (do
    let x ← getBuf b
    let h ← view b 0 y x.width 1 mode
    pure (.buf h)) s

/-- I.ROWS: N distinct rows (47_image_buffer.md R394). -/
def execIRows (b : Nat) (rows : List Nat) (mode : Access) (s : State) : Host.Outcome State Fault Refusal :=
  run (do
    let x ← getBuf b
    if rows.all fun y => decide (y < x.height) then
      if repeats rows then stop (.fault .viewOverlap)
      else do
        let hs ← collect rows fun y => view b 0 y x.width 1 mode
        pure (.bufs hs)
    else stop (.fault .outOfBounds)) s

/-- I.RECT (47_image_buffer.md R395). -/
def execIRect (b x0 y0 w h : Nat) (mode : Access) (s : State) : Host.Outcome State Fault Refusal :=
  run (do
    let v ← view b x0 y0 w h mode
    pure (.buf v)) s

/-- I.FREE (47_image_buffer.md R397): the buffer goes to POOL; freeing a borrowed view frees nothing. What the rule's
assert "no live view borrows from b" does where it fails is not said ("Exceptions: none", and decision D27 does not
name it): the model fault liveView (DESIGN CHOICE, notes/assumptions/14.md). -/
def execIFree (b : Nat) (s : State) : Host.Outcome State Fault Refusal :=
  runUnit (do
    let x ← getBuf b
    match x.ownership with
    | .borrowed _ _ _ _ _ _ _ => pure ()
    | .owned => do
      let s ← getState
      if s.img.bufs.any fun e => e.2.borrowsFrom b then stop (.fault .liveView)
      else release b) s

/-- The views an operation has taken end with it; those of the format I operations were taken for the operation that
comes next (47_image_buffer.md R396). -/
def afterOp (i : Instr) (r : Host.Outcome State Fault Refusal) : Host.Outcome State Fault Refusal :=
  match r with
  | .next t => .next (if i.isBufferOp then t else t.dropViews)
  | .fault f => .fault f
  | .refused e => .refused e

end Sys2Proof.Machine
end

