-- ==== Sys2Proof/Machine/Port.lean ====
section
/-! DEFINITION. The port transactions of CORE to HOST: the input source (40_parser.md R135 to R137) and the
colour-management port (46_render_pipeline.md R373, R374). -/

namespace Sys2Proof.Machine

/-- SRC.AVAIL (40_parser.md R135). -/
def execSrcAvail (s : State) : Host.Outcome State Fault Refusal :=
  .next (s.setRet (.nat s.available))

/-- SRC.READ into writable ranges at the tail of STAGE, first range first (40_parser.md R136). -/
def execSrcRead (caps : List Nat) (s : State) : Host.Outcome State Fault Refusal :=
  run (do
    let k ← sourceRead caps.sum
    pure (.nat k)) s

/-- SRC.SKIP (40_parser.md R137). -/
def execSrcSkip (n : Nat) (s : State) : Host.Outcome State Fault Refusal :=
  run (do
    let k ← sourceSkip n
    pure (.nat k)) s

/-- HOST's colour transform of a list of floats: `n` floats, a function of the input only. The handle is OPT.CMS;
without one there is nobody to ask (46_render_pipeline.md R373, notes/assumptions/39.md). -/
def askCms (n : Nat) (input : List F32) : Op (List F32) := do
  let s ← getState
  match s.ctl.opt.cms with
  | none => stop (.refuse .noColorManagement)
  | some handle => pure ((List.range n).map fun i => Cfg.cms s.inp.params handle n i input)

/-- A buffer of the colour-management port is one of floats (30_encoding.md R108); another one is a mismatched buffer,
Transform. -/
def floatBuffer (h : Nat) : Op Buffer := do
  let b ← getBuf h
  check (decide (b.ty = .float)) .transform
  pure b

/-- Write HOST's colour transform of buffer `input` into buffer `output`: one float for each of the output's samples. -/
def cmsBuffers (input output : Nat) : Op Unit := do
  let _ ← floatBuffer input
  let b ← floatBuffer output
  let vs ← readAll input
  let l ← collect vs asFloat
  let r ← askCms (b.width * b.height) l
  writeAll output (r.map Sample.flt)

/-- CMS.XFORM: `do_transform(input, output)` (46_render_pipeline.md R373). -/
def execCmsXform (input output : Nat) (s : State) : Host.Outcome State Fault Refusal :=
  runUnit (cmsBuffers input output) s

/-- CMS.XFORM_INPLACE: `do_transform_inplace(buffer)` (46_render_pipeline.md R374). -/
def execCmsXformInplace (buffer : Nat) (s : State) : Host.Outcome State Fault Refusal :=
  runUnit (cmsBuffers buffer buffer) s

end Sys2Proof.Machine
end

