-- ==== Sys2Proof/Machine/Ans.lean ====
section
/-! DEFINITION. The ANS unit (41_ans.md): histograms, alias tables, the symbol read, the final-state check. A scope's
tables are named by the scope; a histogram is appended to its scope. -/

namespace Sys2Proof.Machine

/-! ### Histograms -/

/-- The table of `2^las` zeros with some entries set. -/
def distOf (las : Nat) (entries : List (Nat × Nat)) : List Nat :=
  entries.foldl (fun d e => d.set e.1 e.2) (List.replicate (2 ^ las) 0)

/-- The sum rule: exactly `2^las` entries that sum to 4096 (41_ans.md R196), with at most 4096 buckets (R191). The
range of `log_alphabet_size` is not in the source: 0 to 12 is accepted, and a larger value that a scope's syntax
supplies is a Format error once the histogram's bits are read (DESIGN CHOICE, notes/assumptions/41.md). -/
def histOk (las : Nat) (d : List Nat) : Bool :=
  decide (las ≤ 12) && decide (d.length = 2 ^ las) && decide (d.sum = 4096)

/-- "Evenly distributed": the remainder goes to the first symbols (41_ans.md R194). -/
def flatDist (las n : Nat) : List Nat :=
  (List.range (2 ^ las)).map fun i =>
    if i < 4096 % n then 4096 / n + 1 else if i < n then 4096 / n else 0

/-- The histogram of the "single symbol" encoding (41_ans.md R192). -/
def histSingle (las : Nat) : Op (List Nat) := do
  let p ← getParams
  let x ← parse (Cfg.symbolIndex p)
  check (decide (x < 2 ^ las)) .format
  pure (distOf las [(x, 4096)])

/-- The histogram of the "two symbols" encoding (41_ans.md R193). -/
def histTwo (las : Nat) : Op (List Nat) := do
  let p ← getParams
  let a ← parse (Cfg.symbolIndex p)
  let b ← parse (Cfg.symbolIndex p)
  check (decide (a < 2 ^ las) && decide (b < 2 ^ las) && decide (a ≠ b)) .format
  let prob ← readBits 12
  pure (distOf las [(a, prob), (b, 4096 - prob)])

/-- The histogram of the "evenly distributed" encoding (41_ans.md R194). -/
def histFlat (las : Nat) : Op (List Nat) := do
  let p ← getParams
  let n ← parse (Cfg.alphabetSize p)
  check (decide (1 ≤ n) && decide (n ≤ 2 ^ las)) .format
  pure (flatDist las n)

/-- The histogram of the "complex" encoding: `DecodeComplexCounts` (41_ans.md R195). -/
def histComplex (las : Nat) : Op (List Nat) := do
  let p ← getParams
  parse (Cfg.complexCounts p las)

/-- Append a decoded histogram to its scope, after the sum rule (41_ans.md R196); the answer is its index. -/
def storeHist (sc : ScopeId) (las : Nat) (d : List Nat) : Op Nat := do
  check (histOk las d) .format
  let s ← getState
  setScope sc fun e => { e with codes := e.codes ++ [{ las := las, dist := d, table := none }] }
  pure (s.scope sc).codes.length

/-! ### The alias table (41_ans.md R198, R199) -/

/-- The construction in progress: the two stacks, top first, and the three arrays. -/
structure AliasWork where
  overfull : List Nat
  underfull : List Nat
  cut : List Nat
  sym : List Nat
  off : List Nat
  deriving DecidableEq, Repr

/-- Entry `i` of a list of naturals, 0 outside. -/
def nth (l : List Nat) (i : Nat) : Nat := (l[i]?).getD 0

/-- Fill the stacks in ascending order of `i`: the last pushed is on top. -/
def aliasStacks (bs : Nat) (d : List Nat) (i : Nat) (overfull underfull : List Nat) : List Nat × List Nat :=
  match d with
  | [] => (overfull, underfull)
  | x :: rest =>
    if bs < x then aliasStacks bs rest (i + 1) (i :: overfull) underfull
    else if x < bs then aliasStacks bs rest (i + 1) overfull (i :: underfull)
    else aliasStacks bs rest (i + 1) overfull underfull

/-- Walker's rebalancing; each round settles one underfull bucket, so `fuel` = number of buckets suffices. -/
def aliasLoop (bs : Nat) : Nat → AliasWork → AliasWork
  | 0, w => w
  | fuel + 1, w =>
    match w.overfull, w.underfull with
    | o :: overfull, u :: underfull =>
      let cut := w.cut.set o (nth w.cut o - (bs - nth w.cut u))
      let c := nth cut o
      aliasLoop bs fuel
        { overfull := if bs < c then o :: overfull else overfull
          underfull := if c < bs then o :: underfull else underfull
          cut := cut
          sym := w.sym.set u o
          off := w.off.set u c }
    | _, _ => w

/-- ANS.ALIAS: the table of a histogram (41_ans.md R198). -/
def aliasTable (d : List Nat) (las : Nat) : AliasTable :=
  let t := 2 ^ las
  let bs := 4096 / t
  match d.idxOf? 4096 with
  | some x =>
    { sym := List.replicate t x, off := (List.range t).map fun i => bs * i, cut := List.replicate t 0 }
  | none =>
    let st := aliasStacks bs d 0 [] []
    let w := aliasLoop bs t
      { overfull := st.1, underfull := st.2, cut := d, sym := List.replicate t 0, off := List.replicate t 0 }
    { sym := (List.range t).map fun i => if nth w.cut i = bs then i else nth w.sym i
      off := (List.range t).map fun i => if nth w.cut i = bs then 0 else nth w.off i - nth w.cut i
      cut := (List.range t).map fun i => if nth w.cut i = bs then 0 else nth w.cut i }

/-- Alias lookup of a slot: symbol and offset (41_ans.md R199). -/
def aliasLookup (a : AliasTable) (las r : Nat) : Nat × Nat :=
  let bs := 2 ^ (12 - las)
  let i := r / bs
  let pos := r % bs
  if nth a.cut i ≤ pos then (nth a.sym i, nth a.off i + pos) else (i, pos)

/-- Compile histogram number `hist` of a scope; its operand satisfies rule R196 for `las`
(notes/assumptions/37.md). -/
def compileAlias (sc : ScopeId) (hist las : Nat) : Op Unit := do
  let s ← getState
  let code ← present (s.scope sc).codes[hist]? .hist
  check (histOk las code.dist) .format
  setScope sc fun e => { e with codes := e.codes.set hist { code with las := las, table := some (aliasTable code.dist las) } }

/-- ANS.HIST: the selector, one of the four encodings, the sum rule, the alias table (41_ans.md R191). -/
def ansHist (sc : ScopeId) (las : Nat) : Op (List Nat) := do
  let p ← getParams
  let kind ← parse (Cfg.ansHistKind p)
  let d ← match kind with
    | .single => histSingle las
    | .two => histTwo las
    | .flat => histFlat las
    | .complex => histComplex las
  let i ← storeHist sc las d
  compileAlias sc i las
  pure d

/-! ### Reading (41_ans.md R200 to R203) -/

/-- ANS.INIT: the state is loaded with 32 bits; the answer is the state. -/
def ansInit (sc : ScopeId) : Op Word := do
  let v ← readBits 32
  setScope sc fun e => { e with ansState := some (BitVec.ofNat 32 v) }
  pure (BitVec.ofNat 32 v)

/-- The state of the scope's reader; under ANS_INIT_LAZY the first read loads it (41_ans.md R200). Else a state no
reader has loaded holds no value, "and reading it before that is a model fault" (10_state.md R36). -/
def ansState (sc : ScopeId) : Op Word := do
  let s ← getState
  match (s.scope sc).ansState with
  | some w => pure w
  | none =>
    if Cfg.ansInitLazy s.inp.params then ansInit sc
    else stop (.fault .noAnsState)

/-- The state before the refill: `D[symbol] * (state shr 12) + offset` (41_ans.md R201). -/
def ansUpdate (freq offset state : Nat) : Nat := freq * (state / 4096) + offset

/-- The state update with its refill of 16 bits when it is below 2^16 (41_ans.md R201, R202). -/
def ansRefill (x : Nat) : Op Nat :=
  if x < 2 ^ 16 then do
    let b ← readBits 16
    pure (x * 2 ^ 16 + b)
  else pure x

/-- ANS.READ: one symbol of a context (41_ans.md R201). -/
def ansRead (sc : ScopeId) (ctx : Nat) : Op Nat := do
  let s ← getState
  let code ← present (s.scope sc).codes[Cfg.contextToHistogram s.inp.params sc ctx]? .hist
  let table ← present code.table .aliasTable
  let w ← ansState sc
  let e := aliasLookup table code.las (w.toNat % 4096)
  let x ← ansRefill (ansUpdate (nth code.dist e.1) e.2 w.toNat)
  setScope sc fun t => { t with ansState := some (BitVec.ofNat 32 x) }
  pure e.1

/-- ANS.FINAL: the state must equal ANS_FINAL_STATE (41_ans.md R203); under ANS_INIT_LAZY an unloaded state passes
(R200). Else a state no reader has loaded holds no value, "and reading it before that is a model fault" (10_state.md
R36). -/
def ansFinal (sc : ScopeId) : Op Unit := do
  let s ← getState
  match (s.scope sc).ansState with
  | some w => check (decide (w = Cfg.ansFinalState s.inp.params)) .checksum
  | none => if Cfg.ansInitLazy s.inp.params then pure () else stop (.fault .noAnsState)

/-! ### The operations -/

def execAnsHist (sc : ScopeId) (las : Nat) (s : State) : Host.Outcome State Fault Refusal :=
  run (commitOrAbandon do
    let d ← ansHist sc las
    pure (.nats d)) s

def execAnsHistSingle (sc : ScopeId) (las : Nat) (s : State) : Host.Outcome State Fault Refusal :=
  run (commitOrAbandon do
    let d ← histSingle las
    let _ ← storeHist sc las d
    pure (.nats d)) s

def execAnsHistTwo (sc : ScopeId) (las : Nat) (s : State) : Host.Outcome State Fault Refusal :=
  run (commitOrAbandon do
    let d ← histTwo las
    let _ ← storeHist sc las d
    pure (.nats d)) s

def execAnsHistFlat (sc : ScopeId) (las : Nat) (s : State) : Host.Outcome State Fault Refusal :=
  run (commitOrAbandon do
    let d ← histFlat las
    let _ ← storeHist sc las d
    pure (.nats d)) s

def execAnsHistComplex (sc : ScopeId) (las : Nat) (s : State) : Host.Outcome State Fault Refusal :=
  run (commitOrAbandon do
    let d ← histComplex las
    let _ ← storeHist sc las d
    pure (.nats d)) s

def execAnsAlias (sc : ScopeId) (hist las : Nat) (s : State) : Host.Outcome State Fault Refusal :=
  runUnit (compileAlias sc hist las) s

def execAnsInit (sc : ScopeId) (s : State) : Host.Outcome State Fault Refusal :=
  runUnit (commitOrAbandon do
    let _ ← ansInit sc
    pure ()) s

def execAnsRead (sc : ScopeId) (ctx : Nat) (s : State) : Host.Outcome State Fault Refusal :=
  run (commitOrAbandon do
    let v ← ansRead sc ctx
    pure (.nat v)) s

def execAnsFinal (sc : ScopeId) (s : State) : Host.Outcome State Fault Refusal :=
  runUnit (ansFinal sc) s

end Sys2Proof.Machine
end

