-- ==== Sys2Proof/Machine/Huffman.lean ====
section
/-! DEFINITION. The HUFF unit (42_huffman.md): the simple path, code lengths, the space check, the two-level table,
the symbol read; and what a scope does with either coder: opening, reading a value, closing (10_state.md R40,
decision D42). -/

namespace Sys2Proof.Machine

/-- The space left over: `2^15 - sum of 2^(15 - L[i])` over the symbols with a codeword (42_huffman.md R225). -/
def codeSpace (lens : List Nat) : Int :=
  2 ^ 15 - ((lens.map fun l => if l = 0 then 0 else 2 ^ (15 - l)).sum : Nat)

/-- Lengths in 0..15 whose space is exactly zero (42_huffman.md R225). -/
def lengthsOk (lens : List Nat) : Bool :=
  lens.all (fun l => decide (l ≤ 15)) && decide (codeSpace lens = 0)

/-- The low `len` bits of `code` in reversed order. -/
def bitReverse (len code : Nat) : Nat :=
  match len with
  | 0 => 0
  | n + 1 => code % 2 * 2 ^ n + bitReverse n (code / 2)

/-- A symbol's codeword: symbol, length and table key (42_huffman.md R226). -/
structure Codeword where
  symbol : Nat
  len : Nat
  key : Nat
  deriving DecidableEq, Repr

/-- The codewords of one length, in increasing symbol index from code `code` on, and the next code. -/
def wordsOfLen (len : Nat) (lens : List Nat) (i code : Nat) : List Codeword × Nat :=
  match lens with
  | [] => ([], code)
  | l :: rest =>
    if l = len then
      let r := wordsOfLen len rest (i + 1) (code + 1)
      ({ symbol := i, len := len, key := bitReverse len code } :: r.1, r.2)
    else wordsOfLen len rest (i + 1) code

/-- Canonical code: shorter codes first; after a length the code is shifted left by 1. -/
def wordsFrom (lens : List Nat) (len code : Nat) : Nat → List Codeword
  | 0 => []
  | fuel + 1 =>
    let r := wordsOfLen len lens 0 code
    r.1 ++ wordsFrom lens (len + 1) (2 * r.2) fuel

/-- The codewords of all symbols with a length in 1..15. -/
def codewords (lens : List Nat) : List Codeword := wordsFrom lens 1 0 15

/-- The entry of index `j` in a table of codewords of which `skip` bits are already consumed. -/
def entryAt (ws : List Codeword) (skip j : Nat) : HuffEntry :=
  match ws.find? fun w => j % 2 ^ (w.len - skip) == w.key / 2 ^ skip with
  | some w => { bits := w.len - skip, value := w.symbol }
  | none => { bits := 0, value := 0 }

/-- The root entries from index `j` on and the second-level tables they point to, numbered from `next`. -/
def rootFrom (tb : Nat) (ws : List Codeword) (next j : Nat) : Nat → List HuffEntry × List (List HuffEntry)
  | 0 => ([], [])
  | fuel + 1 =>
    let long := ws.filter fun w => decide (tb < w.len) && decide (w.key % 2 ^ tb = j)
    if long.isEmpty then
      let r := rootFrom tb ws next (j + 1) fuel
      (entryAt (ws.filter fun w => decide (w.len ≤ tb)) 0 j :: r.1, r.2)
    else
      let w := (long.map Codeword.len).foldl max 0 - tb
      let r := rootFrom tb ws (next + 1) (j + 1) fuel
      ({ bits := tb + w, value := next } :: r.1, ((List.range (2 ^ w)).map (entryAt long tb)) :: r.2)

/-- HUFF.BUILD: the two-level table (42_huffman.md R226). -/
def buildTable (tb : Nat) (lens : List Nat) : HuffTable :=
  let r := rootFrom tb (codewords lens) 0 0 (2 ^ tb)
  { tableBits := tb, root := r.1, subs := r.2 }

/-- The degenerate code of one symbol of length 0: every lookup gives it and consumes nothing (42_huffman.md R222). -/
def oneSymbolTable (tb x : Nat) : HuffTable :=
  { tableBits := tb, root := List.replicate (2 ^ tb) { bits := 0, value := x }, subs := [] }

/-- Lengths of the simple path (42_huffman.md R223). -/
def simpleLengths (n : Nat) (sel : Bool) : List Nat :=
  match n with
  | 2 => [1, 1]
  | 3 => [1, 2, 2]
  | 4 => if sel then [1, 2, 3, 3] else [2, 2, 2, 2]
  | _ => [0]

/-- Whether a list has no repeats. -/
def distinct (l : List Nat) : Bool :=
  match l with
  | [] => true
  | x :: rest => !rest.contains x && distinct rest

/-- The table of the simple path's symbols (42_huffman.md R222). -/
def simpleTable (tb a : Nat) (syms : List Nat) (sel : Bool) : HuffTable :=
  match syms with
  | [x] => oneSymbolTable tb x
  | _ =>
    buildTable tb ((syms.zip (simpleLengths syms.length sel)).foldl (fun l e => l.set e.1 e.2) (List.replicate a 0))

/-- Append a table to its scope. -/
def storeTable (sc : ScopeId) (t : HuffTable) : Op Unit :=
  setScope sc fun e => { e with htabs := e.htabs ++ [t] }

/-- The further bit that selects among the length lists of four symbols; no other number has one (42_huffman.md
R223). -/
def simpleSelector (n : Nat) : Op Bool :=
  if n = 4 then do
    let b ← readBits 1
    pure (decide (b = 1))
  else pure false

/-- HUFF.SIMPLE: the symbols are read and checked, and only then are the lengths read (42_huffman.md R222). An answer of the open symbol reader with no symbol or more than four, which the
rule does not take, is a Format error (DESIGN CHOICE, notes/assumptions/42.md). -/
def huffSimple (sc : ScopeId) (a : Nat) : Op Unit := do
  let p ← getParams
  let syms ← parse (Cfg.simpleSymbols p a)
  check (decide (1 ≤ syms.length) && decide (syms.length ≤ 4) && distinct syms && syms.all fun x => decide (x < a))
    .format
  let sel ← simpleSelector syms.length
  storeTable sc (simpleTable (Cfg.huffTableBits p) a syms sel)

/-- HUFF.LENGTHS: `DecodeLengths`, at most `a` lengths with zeros after them, and the space check (42_huffman.md R224,
R225). -/
def huffLengths (a skip : Nat) : Op (List Nat) := do
  let p ← getParams
  let l ← parse (Cfg.codeLengths p a skip)
  check (decide (l.length ≤ a)) .format
  let lens := l ++ List.replicate (a - l.length) 0
  check (lengthsOk lens) .format
  pure lens

/-- HUFF.BUILD (42_huffman.md R226), whose operand satisfies rule R225. -/
def huffBuild (sc : ScopeId) (lens : List Nat) : Op Unit := do
  let p ← getParams
  check (lengthsOk lens) .format
  storeTable sc (buildTable (Cfg.huffTableBits p) lens)

/-- One Huffman code of a scope, by the path the stream selects (42_huffman.md R221). -/
def huffCode (sc : ScopeId) (a : Nat) : Op Unit := do
  let p ← getParams
  let kind ← parse (Cfg.huffKind p)
  match kind with
  | .simple => huffSimple sc a
  | .general skip => do
    let lens ← huffLengths a skip
    huffBuild sc lens

/-- Consume `n` bits that must exist (42_huffman.md R228, decision D35). -/
def consume (n : Nat) : Op Unit := do
  needBits n
  advance n

/-- HUFF.READ from a table: one root lookup and at most one second-level lookup (42_huffman.md R228), with the width
the table itself carries. A table HUFF.SIMPLE or HUFF.BUILD made carries HUFF_TABLE_BITS; one that is preset for a scope
carries its own, and nothing ties it to HUFF_TABLE_BITS or to the space check R225 (DESIGN CHOICE,
notes/assumptions/44.md). -/
def huffReadTable (t : HuffTable) : Op Nat := do
  let j ← peekBits t.tableBits
  let e ← present t.root[j]? .htab
  if t.tableBits < e.bits then do
    consume t.tableBits
    let k ← peekBits (e.bits - t.tableBits)
    let sub ← present t.subs[e.value]? .htab
    let e2 ← present sub[k]? .htab
    consume e2.bits
    pure e2.value
  else do
    consume e.bits
    pure e.value

/-- HUFF.READ of a context of a scope. -/
def huffRead (sc : ScopeId) (ctx : Nat) : Op Nat := do
  let s ← getState
  let t ← present (s.scope sc).htabs[Cfg.contextToHistogram s.inp.params sc ctx]? .htab
  huffReadTable t

/-! ### Scopes -/

/-- A symbol of a scope, by the scope's coder. -/
def readSymbol (sc : ScopeId) (ctx : Nat) : Op Nat := do
  let s ← getState
  match (s.scope sc).coder with
  | .ans => ansRead sc ctx
  | .huff => huffRead sc ctx

/-- A value of a scope: a symbol and what `SymbolToValue` makes of it (30_encoding.md R116). -/
def readValue (sc : ScopeId) (ctx : Nat) : Op Nat := do
  let x ← readSymbol sc ctx
  let p ← getParams
  parse (Cfg.symbolToValue p x)

/-- Build a scope's tables: its coder, its histograms or its Huffman codes (10_state.md R40). -/
def scopeTables (sc : ScopeId) : Op Unit := do
  let p ← getParams
  let spec ← parse (Cfg.scopeSpec p sc)
  setScope sc fun _ => { coder := spec.coder, codes := [], htabs := spec.preset, ansState := none }
  each spec.las fun las => do
    let _ ← ansHist sc las
    pure ()
  each spec.alphabets fun a => huffCode sc a

/-- Start reading a scope: its ANS state is loaded, unless ANS_INIT_LAZY leaves that to the first symbol
(41_ans.md R200). -/
def scopeStart (sc : ScopeId) : Op Unit := do
  setScope sc fun e => { e with ansState := none }
  let s ← getState
  match (s.scope sc).coder with
  | .ans =>
    if Cfg.ansInitLazy s.inp.params then pure ()
    else do
      let _ ← ansInit sc
      pure ()
  | .huff => pure ()

/-- Open a scope whose tables and symbols lie in one place. -/
def scopeOpen (sc : ScopeId) : Op Unit := do
  scopeTables sc
  scopeStart sc

/-- The check at the end of a scope: ANS.FINAL for an ANS scope, nothing for a Huffman scope (60_exceptions.md
R415). -/
def scopeFinal (sc : ScopeId) : Op Unit := do
  let s ← getState
  match (s.scope sc).coder with
  | .ans => ansFinal sc
  | .huff => pure ()

/-- Discard a scope's tables (10_state.md R40). -/
def scopeDrop (sc : ScopeId) : Op Unit :=
  upd fun s => s.setEnt fun e => e.filter fun x => decide (x.1 ≠ sc)

/-! ### The operations -/

def execHuffSimple (sc : ScopeId) (a : Nat) (s : State) : Host.Outcome State Fault Refusal :=
  runUnit (commitOrAbandon (huffSimple sc a)) s

def execHuffLengths (_sc : ScopeId) (a skip : Nat) (s : State) : Host.Outcome State Fault Refusal :=
  run (commitOrAbandon do
    let l ← huffLengths a skip
    pure (.nats l)) s

def execHuffBuild (sc : ScopeId) (lens : List Nat) (s : State) : Host.Outcome State Fault Refusal :=
  runUnit (huffBuild sc lens) s

def execHuffRead (sc : ScopeId) (ctx : Nat) (s : State) : Host.Outcome State Fault Refusal :=
  run (commitOrAbandon do
    let v ← huffRead sc ctx
    pure (.nat v)) s

end Sys2Proof.Machine
end

