-- ==== Sys2Proof/Machine/Transform.lean ====
section
/-! DEFINITION. The XFORM unit (45_transforms.md): the separable inverse DCT on its butterfly structure, the small
transforms, AFV, the DC law, and selection by transform type. A block of coefficients and a tile of samples are lists
in raster order of the view. -/

namespace Sys2Proof.Machine

/-! ### The 1D kernel (45_transforms.md R335) -/

/-- Entry `i` of a list of floats, +0 outside. -/
def fnth (l : List F32) (i : Nat) : F32 := (l[i]?).getD 0

/-! `W_N[i] = 1 / (2 cos((2i + 1) pi / (2N)))` of rule R335, rounded to binary32. -/

namespace Weights

def w4 : List Nat :=
    [0x3F0A8BD4, 0x3FA73D75]

def w8 : List Nat :=
    [0x3F0281F7, 0x3F19F1BD, 0x3F6664D7, 0x402406CF]

def w16 : List Nat :=
    [0x3F009E8D, 0x3F05C278, 0x3F11233F, 0x3F25961D, 0x3F49C480, 0x3F87C449, 0x3FDC7926, 0x40A33C9C]

def w32 : List Nat :=
    [0x3F002785, 0x3F01668B, 0x3F03F45B, 0x3F07F268, 0x3F0D9838, 0x3F153B3A, 0x3F1F5C6E, 0x3F2CC03D,
     0x3F3E99EE, 0x3F56DF9E, 0x3F78FA3B, 0x3F95B035, 0x3FBDF91B, 0x4003B2AF, 0x405A1642, 0x41230A46]

def w64 : List Nat :=
    [0x3F0009DF, 0x3F005907, 0x3F00F84C, 0x3F01E9A1, 0x3F033005, 0x3F04CF99, 0x3F06CDC5, 0x3F093163,
     0x3F0C02FA, 0x3F0F4D13, 0x3F131C9A, 0x3F17816B, 0x3F1C8F06, 0x3F225D7C, 0x3F290AB8, 0x3F30BC3A,
     0x3F39A180, 0x3F43F76D, 0x3F500D3F, 0x3F5E4BD7, 0x3F6F40DF, 0x3F81D821, 0x3F8E585D, 0x3F9DEE3B,
     0x3FB1D462, 0x3FCC0749, 0x3FEFF562, 0x40120D1C, 0x403B2D1D, 0x4082B522, 0x40D97EFB, 0x41A2FDB4]

def w128 : List Nat :=
    [0x3F000278, 0x3F001638, 0x3F003DC8, 0x3F007947, 0x3F00C8E1, 0x3F012CD7, 0x3F01A576, 0x3F02331D,
     0x3F02D63E, 0x3F038F5D, 0x3F045F12, 0x3F054608, 0x3F064503, 0x3F075CDD, 0x3F088E89, 0x3F09DB19,
     0x3F0B43BB, 0x3F0CC9BF, 0x3F0E6E97, 0x3F1033E2, 0x3F121B66, 0x3F14271E, 0x3F165939, 0x3F18B425,
     0x3F1B3A92, 0x3F1DEF80, 0x3F20D644, 0x3F23F296, 0x3F2748A0, 0x3F2ADD09, 0x3F2EB50D, 0x3F32D693] ++
    [0x3F374844, 0x3F3C11AF, 0x3F413B6C, 0x3F46CF4D, 0x3F4CD897, 0x3F536446, 0x3F5A8162, 0x3F624170,
     0x3F6AB8F0, 0x3F74000F, 0x3F7E337A, 0x3F84BABF, 0x3F8AF7BA, 0x3F91E9D7, 0x3F99AFFD, 0x3FA27099,
     0x3FAC5C00, 0x3FB7AFE3, 0x3FC4BC39, 0x3FD3EA96, 0x3FE5C949, 0x3FFB1CD9, 0x400A7E49, 0x401A8199,
     0x402ED346, 0x40497005, 0x406DC689, 0x4091294C, 0x40BA7C6C, 0x4102762A, 0x41595941, 0x4222FA90]

def w256 : List Nat :=
    [0x3F00009E, 0x3F00058D, 0x3F000F6D, 0x3F001E40, 0x3F003207, 0x3F004AC8, 0x3F006886, 0x3F008B48,
     0x3F00B315, 0x3F00DFF3, 0x3F0111ED, 0x3F01490B, 0x3F018559, 0x3F01C6E2, 0x3F020DB4, 0x3F0259DD,
     0x3F02AB6C, 0x3F030271, 0x3F035EFE, 0x3F03C126, 0x3F0428FE, 0x3F04969A, 0x3F050A12, 0x3F05837F,
     0x3F0602F8, 0x3F06889B, 0x3F071484, 0x3F07A6D2, 0x3F083FA4, 0x3F08DF1D, 0x3F098560, 0x3F0A3294] ++
    [0x3F0AE6DF, 0x3F0BA26D, 0x3F0C6569, 0x3F0D3001, 0x3F0E0267, 0x3F0EDCCE, 0x3F0FBF6D, 0x3F10AA7B,
     0x3F119E35, 0x3F129ADB, 0x3F13A0AE, 0x3F14AFF4, 0x3F15C8F8, 0x3F16EC07, 0x3F181972, 0x3F19518F,
     0x3F1A94BA, 0x3F1BE352, 0x3F1D3DBB, 0x3F1EA461, 0x3F2017B5, 0x3F21982C, 0x3F232644, 0x3F24C283,
     0x3F266D75, 0x3F2827AF, 0x3F29F1CF, 0x3F2BCC7B, 0x3F2DB866, 0x3F2FB64B, 0x3F31C6F4, 0x3F33EB34] ++
    [0x3F3623EE, 0x3F387214, 0x3F3AD6A7, 0x3F3D52BA, 0x3F3FE771, 0x3F429607, 0x3F455FCA, 0x3F484624,
     0x3F4B4A95, 0x3F4E6EBD, 0x3F51B458, 0x3F551D47, 0x3F58AB90, 0x3F5C6160, 0x3F604116, 0x3F644D3D,
     0x3F68889D, 0x3F6CF638, 0x3F719955, 0x3F767586, 0x3F7B8EB3, 0x3F807491, 0x3F8344BF, 0x3F863A79,
     0x3F895892, 0x3F8CA22D, 0x3F901AC1, 0x3F93C624, 0x3F97A89F, 0x3F9BC6F7, 0x3FA02685, 0x3FA4CD49] ++
    [0x3FA9C208, 0x3FAF0C69, 0x3FB4B51E, 0x3FBAC60F, 0x3FC14A99, 0x3FC84FCD, 0x3FCFE4C9, 0x3FD81B26,
     0x3FE1077A, 0x3FEAC202, 0x3FF56781, 0x40008D2B, 0x400701F5, 0x400E2B51, 0x4016282F, 0x401F1F03,
     0x4029402D, 0x4034C962, 0x40420AA4, 0x40516D8E, 0x40638075, 0x407907E9, 0x40898D9F, 0x4099AA9B,
     0x40AE15D7, 0x40C8CC0D, 0x40ED3BF0, 0x4110F0A5, 0x413A5065, 0x41826673, 0x41D94FD4, 0x42A2F9C6]

end Weights

/-- The weights of size `N`. -/
def weights (n : Nat) : List F32 :=
  (if n = 4 then Weights.w4 else if n = 8 then Weights.w8 else if n = 16 then Weights.w16
   else if n = 32 then Weights.w32 else if n = 64 then Weights.w64 else if n = 128 then Weights.w128
   else Weights.w256).map (BitVec.ofNat 32)

/-- `sqrt(2)` in binary32. -/
def sqrt2 : F32 := 0x3FB504F3#32

/-- The elements of a list at even places. -/
def evens (l : List F32) : List F32 :=
  match l with
  | x :: _ :: rest => x :: evens rest
  | [x] => [x]
  | [] => []

/-- The elements of a list at odd places. -/
def odds (l : List F32) : List F32 :=
  match l with
  | _ :: y :: rest => y :: odds rest
  | [_] => []
  | [] => []

/-- `odd[k] <- odd[k] + odd[k-1]` for k from the top down to 1: each entry plus its old predecessor. -/
def addPrev (prev : F32) (l : List F32) : List F32 :=
  match l with
  | [] => []
  | x :: rest => F32.add x prev :: addPrev x rest

/-- The odd half before its own transform: running sums, and the first entry times `sqrt(2)`. -/
def oddHalf (l : List F32) : List F32 :=
  match l with
  | [] => []
  | x :: rest => F32.mul x sqrt2 :: addPrev x rest

/-- `IDCT1D_N` for `N = 2^(k+1)` (45_transforms.md R335). -/
def idct1d : Nat → List F32 → List F32
  | 0, c => [F32.add (fnth c 0) (fnth c 1), F32.sub (fnth c 0) (fnth c 1)]
  | k + 1, c =>
    let e := idct1d k (evens c)
    let o := List.zipWith F32.mul (idct1d k (oddHalf (odds c))) (weights (2 ^ (k + 2)))
    List.zipWith F32.add e o ++ (List.zipWith F32.sub e o).reverse

/-- `IDCT1D_n` for a power of two `n` of at least 2. -/
def idctRow (n : Nat) (c : List F32) : List F32 := idct1d (floorLog2 n - 1) c

/-- Row `y` of a raster of width `w`. -/
def rasterRow (w y : Nat) (l : List F32) : List F32 := (l.drop (y * w)).take w

/-- Transpose a raster of `h` rows and `w` columns. -/
def transpose (h w : Nat) (l : List F32) : List F32 :=
  (List.range w).flatMap fun x => (List.range h).map fun y => fnth l (y * w + x)

/-- The separable inverse DCT of a matrix of `h` rows (vertical frequency) and `w` columns (45_transforms.md R334). -/
def idct2d (h w : Nat) (c : List F32) : List F32 :=
  let t := (List.range h).flatMap fun v => idctRow w (rasterRow w v c)
  let u := transpose h w t
  let s := (List.range w).flatMap fun x => idctRow h (rasterRow h x u)
  transpose w h s

/-- A block by frequency, from its coefficient buffer and the layout: `C[v][u]` is the coefficient at the place the
layout gives frequency `(u, v)` (45_transforms.md R331). -/
def fromLayout (layout : List Nat) (l : List F32) : List F32 := layout.map (fnth l)

/-! ### The small transforms (45_transforms.md R341 to R346) -/

/-- Coefficient `C[v][u]` of an 8×8 block. -/
def c8 (l : List F32) (v u : Nat) : F32 := fnth l (8 * v + u)

/-- The 2×2 butterfly of rule R346: the means top left, top right, bottom left, bottom right. R342 and R346 write
`a+b+c+d` and do not say in which order the additions go; they are done in pairs, `(a+b)±(c+d)` and `(a-b)±(c-d)` (DESIGN
CHOICE, notes/assumptions/27.md). -/
def butterfly (a b c d : F32) : F32 × F32 × F32 × F32 :=
  (F32.add (F32.add a b) (F32.add c d), F32.sub (F32.add a b) (F32.add c d),
   F32.add (F32.sub a b) (F32.sub c d), F32.sub (F32.sub a b) (F32.sub c d))

/-- The entry of a quadruple by row and column. -/
def quad (q : F32 × F32 × F32 × F32) (y x : Nat) : F32 :=
  if y = 0 then (if x = 0 then q.1 else q.2.1) else (if x = 0 then q.2.2.1 else q.2.2.2)

/-- The sub-block means of an 8×8 block. -/
def means (l : List F32) : F32 × F32 × F32 × F32 := butterfly (c8 l 0 0) (c8 l 0 1) (c8 l 1 0) (c8 l 1 1)

/-- An 8×8 tile from its samples. -/
def tile8 (f : Nat → Nat → F32) : List F32 :=
  (List.range 64).map fun k => f (k / 8) (k % 8)

/-- One round of DCT2X2 at scale `n` (45_transforms.md R342). -/
def dct2x2Round (n : Nat) (b : List F32) : List F32 :=
  tile8 fun y x =>
    if y < 2 * n ∧ x < 2 * n then
      quad (butterfly (c8 b (y / 2) (x / 2)) (c8 b (y / 2) (x / 2 + n)) (c8 b (y / 2 + n) (x / 2))
        (c8 b (y / 2 + n) (x / 2 + n))) (y % 2) (x % 2)
    else c8 b y x

/-- The first entry of a list replaced. -/
def withDc (dc : F32) (l : List F32) : List F32 := l.set 0 dc

/-- The sub-block of DCT4X4 at (sy, sx). -/
def dct4x4Sub (l : List F32) (sy sx : Nat) : List F32 :=
  idct2d 4 4 (withDc (quad (means l) sy sx) ((List.range 16).map fun k => c8 l (sy + 2 * (k / 4)) (sx + 2 * (k % 4))))

/-- The half `i` of DCT8X4: 8 rows, 4 columns; the halves' coefficients are interleaved by column (PRESUMED,
notes/assumptions/27.md: R344 calls it a convention the source does not state). -/
def dct8x4Half (l : List F32) (i : Nat) : List F32 :=
  let dc := if i = 0 then F32.add (c8 l 0 0) (c8 l 0 1) else F32.sub (c8 l 0 0) (c8 l 0 1)
  idct2d 8 4 (withDc dc ((List.range 32).map fun k => c8 l (k / 4) (i + 2 * (k % 4))))

/-- The half `i` of DCT4X8: 4 rows, 8 columns; the halves' coefficients are interleaved by row (PRESUMED,
notes/assumptions/27.md: R345 is the transpose arrangement of R344). -/
def dct4x8Half (l : List F32) (i : Nat) : List F32 :=
  let dc := if i = 0 then F32.add (c8 l 0 0) (c8 l 1 0) else F32.sub (c8 l 0 0) (c8 l 1 0)
  idct2d 4 8 (withDc dc ((List.range 32).map fun k => c8 l (i + 2 * (k / 8)) (k % 8)))

/-- The tile of X.DCT2X2 (45_transforms.md R342). -/
def dct2x2Rounds (l : List F32) : List F32 := dct2x2Round 4 (dct2x2Round 2 (dct2x2Round 1 l))

/-- The tile of X.DCT4X4 (45_transforms.md R343). -/
def dct4x4Parts (l : List F32) : List F32 :=
  let s00 := dct4x4Sub l 0 0
  let s01 := dct4x4Sub l 0 1
  let s10 := dct4x4Sub l 1 0
  let s11 := dct4x4Sub l 1 1
  tile8 fun y x =>
    fnth (if y < 4 then (if x < 4 then s00 else s01) else (if x < 4 then s10 else s11)) (4 * (y % 4) + x % 4)

/-- The tile of X.DCT8X4 (45_transforms.md R344): its halves stand side by side (PRESUMED, notes/assumptions/27.md). -/
def dct8x4Parts (l : List F32) : List F32 :=
  let a := dct8x4Half l 0
  let b := dct8x4Half l 1
  tile8 fun y x => fnth (if x < 4 then a else b) (4 * y + x % 4)

/-- The tile of X.DCT4X8 (45_transforms.md R345): its halves stand one above the other (PRESUMED,
notes/assumptions/27.md). -/
def dct4x8Parts (l : List F32) : List F32 :=
  let a := dct4x8Half l 0
  let b := dct4x8Half l 1
  tile8 fun y x => fnth (if y < 4 then a else b) (8 * (y % 4) + x)

/-- A sum of floats from the left. -/
def fsum (l : List F32) : F32 := l.foldl F32.add 0

/-! ### IDENTITY (45_transforms.md R341) -/

/-- The residual of sample `i` of sub-block (sy, sx), in raster order: its own element of the sub-block; the sample at
(0, 0), whose element is the DC's, takes the anchor's. -/
def identityResidual (l : List F32) (anchor sy sx i : Nat) : F32 :=
  let j := if i = 0 then anchor else i
  c8 l (sy + 2 * (j / 4)) (sx + 2 * (j % 4))

/-- The samples of sub-block (sy, sx): the anchor is `dc - (sum of the 15 residuals) / 16`, every other sample its
residual plus the anchor. -/
def identitySub (l : List F32) (anchor sy sx : Nat) : List F32 :=
  let rest := (List.range 16).filter fun i => decide (i ≠ anchor)
  let sum := fsum (rest.map (identityResidual l anchor sy sx))
  let a := F32.sub (quad (means l) sy sx) (F32.mul sum 0x3D800000#32)
  (List.range 16).map fun i => if i = anchor then a else F32.add (identityResidual l anchor sy sx i) a

/-- The tile of X.IDENTITY with the anchor at place `anchor` of every sub-block. -/
def identityParts (anchor : Nat) (l : List F32) : List F32 :=
  let s00 := identitySub l anchor 0 0
  let s01 := identitySub l anchor 0 1
  let s10 := identitySub l anchor 1 0
  let s11 := identitySub l anchor 1 1
  tile8 fun y x =>
    fnth (if y < 4 then (if x < 4 then s00 else s01) else (if x < 4 then s10 else s11)) (4 * (y % 4) + x % 4)

/-! ### AFV (45_transforms.md R340) -/

/-- The constants of AFV that are not in the source: the basis below its first row, the multiples of `C[0][1]` and
`C[1][0]` in the three DC values, and the places of the three parts' other coefficients. -/
structure AfvConstants where
  basis : Nat → Nat → F32
  dc : Nat → F32 × F32
  places : List Nat

/-- The DC of part `i` (0 the patch, 1 the 4×4 beside it, 2 the 4×8 half): `C[0][0]` plus multiples of the two others,
so that a block with `C[0][0]` alone has that DC in all three. R340 says only "recombine": the multiple of `C[0][1]` is
added first, that of `C[1][0]` to the sum (DESIGN CHOICE, notes/assumptions/27.md). -/
def afvPartDc (k : AfvConstants) (l : List F32) (i : Nat) : F32 :=
  F32.add (F32.add (c8 l 0 0) (F32.mul (k.dc i).1 (c8 l 0 1))) (F32.mul (k.dc i).2 (c8 l 1 0))

/-- The coefficients of a part: its DC, then `n` others from place `from_` of the interleaving on. -/
def afvPart (k : AfvConstants) (l : List F32) (i from_ n : Nat) : List F32 :=
  afvPartDc k l i :: ((k.places.drop from_).take n).map (fnth l)

/-- Sample `i` of `AFV_BASIS^T * afv`. The DC's row is 1: a patch with its DC alone is constant and equal to it
(45_transforms.md R346). -/
def afvPatch (k : AfvConstants) (afv : List F32) (i : Nat) : F32 :=
  fsum ((List.range 16).map fun j => F32.mul (if j = 0 then 0x3F800000#32 else k.basis j i) (fnth afv j))

/-- The tile of X.AFV: the patch mirrored into corner (cx, cy), the 4×4 beside it, the 4×8 half. -/
def afvParts (k : AfvConstants) (cx cy : Nat) (l : List F32) : List F32 :=
  let patch := (List.range 16).map (afvPatch k (afvPart k l 0 0 15))
  let beside := idct2d 4 4 (afvPart k l 1 15 15)
  let half := idct2d 4 8 (afvPart k l 2 30 31)
  tile8 fun y x =>
    if y / 4 = cy then
      if x / 4 = cx then
        fnth patch (4 * (if cy = 1 then 3 - y % 4 else y % 4) + (if cx = 1 then 3 - x % 4 else x % 4))
      else fnth beside (4 * (y % 4) + x % 4)
    else fnth half (8 * (y % 4) + x)

/-! ### The DC law (45_transforms.md R334, R340, R346) -/

/-- Whether every coefficient from place `i` on is a zero, but for the places in `keep`. -/
def zeroBut (keep : List Nat) (i : Nat) (l : List F32) : Bool :=
  match l with
  | [] => true
  | x :: rest => (keep.contains i || decide (x = 0#32) || decide (x = 0x80000000#32)) && zeroBut keep (i + 1) rest

/-- A block whose only nonzero coefficient is the first gives the constant tile. -/
def dcLaw (n : Nat) (l : List F32) (f : List F32) : List F32 :=
  if zeroBut [0] 0 l then List.replicate n (fnth l 0) else f

/-- With all residual coefficients zero, each 4×4 sub-block is constant and equal to its mean (R346). -/
def quadLaw (l : List F32) (f : List F32) : List F32 :=
  if zeroBut [0, 1, 8, 9] 0 l then tile8 fun y x => quad (means l) (y / 4) (x / 4) else f

/-- The same for the two halves of DCT8X4. -/
def leftRightLaw (l : List F32) (f : List F32) : List F32 :=
  if zeroBut [0, 1] 0 l then
    tile8 fun _ x => if x < 4 then F32.add (c8 l 0 0) (c8 l 0 1) else F32.sub (c8 l 0 0) (c8 l 0 1)
  else f

/-- The same for the two halves of DCT4X8. -/
def topBottomLaw (l : List F32) (f : List F32) : List F32 :=
  if zeroBut [0, 8] 0 l then
    tile8 fun y _ => if y < 4 then F32.add (c8 l 0 0) (c8 l 1 0) else F32.sub (c8 l 0 0) (c8 l 1 0)
  else f

/-- The same for the three parts of AFV. -/
def afvLaw (k : AfvConstants) (cx cy : Nat) (l : List F32) (f : List F32) : List F32 :=
  if zeroBut [0, 1, 8] 0 l then
    tile8 fun y x => afvPartDc k l (if y / 4 = cy then (if x / 4 = cx then 0 else 1) else 2)
  else f

/-! ### The transforms, in the reference order of their additions (45_transforms.md R347, 93_implementation_defined.md
U6) -/

/-- The 61 places of an 8×8 block beside `C[0][0]`, `C[0][1]`, `C[1][0]`. -/
def afvOthers : List Nat := (List.range 64).filter fun i => !([0, 1, 8].contains i)

namespace Cfg

variable (p : Params)

/-- The anchor sample of IDENTITY, in raster order of a 4×4 sub-block. -/
def identityAnchor : Nat := p.identityAnchor.getD Config.identityAnchor % 16

/-- The constants of AFV's variant `k`: one basis for all variants (45_transforms.md R340 names one AFV_BASIS), DC
multiples and places for each. The three parts share out the 61 places, each to one part. -/
def afvConstants (k : Nat) : AfvConstants :=
  let l := Fn.get p.afvPlaces Config.afvPlaces Config.afvPlaces k
  { basis := fun j i => Fn.get p.afvBasis Config.afvBasis Config.afvBasis (j, i)
    dc := fun i => Fn.get p.afvDc Config.afvDc Config.afvDc (k, i)
    places := if l.length = 61 ∧ afvOthers.all l.contains then l else afvOthers }

def idct (h w : Nat) (l : List F32) : List F32 := dcLaw (h * w) l (idct2d h w l)

def afv (k : Nat) (l : List F32) : List F32 :=
  let c := afvConstants p k
  dcLaw 64 l (afvLaw c (k % 2) (k / 2) l (afvParts c (k % 2) (k / 2) l))

def identity8 (l : List F32) : List F32 := dcLaw 64 l (quadLaw l (identityParts (identityAnchor p) l))
def dct2x2 (l : List F32) : List F32 := dcLaw 64 l (quadLaw l (dct2x2Rounds l))
def dct4x4 (l : List F32) : List F32 := dcLaw 64 l (quadLaw l (dct4x4Parts l))
def dct8x4 (l : List F32) : List F32 := dcLaw 64 l (leftRightLaw l (dct8x4Parts l))
def dct4x8 (l : List F32) : List F32 := dcLaw 64 l (topBottomLaw l (dct4x8Parts l))

end Cfg

/-- The tile of an operation at a shape, from the block by frequency. -/
def tileByFrequency (p : Params) (x : XType) (l : List F32) : List F32 :=
  match x.kind with
  | .idct => Cfg.idct x.h x.w l
  | .afv k => Cfg.afv p k l
  | .identity => Cfg.identity8 p l
  | .dct2x2 => Cfg.dct2x2 l
  | .dct4x4 => Cfg.dct4x4 l
  | .dct8x4 => Cfg.dct8x4 l
  | .dct4x8 => Cfg.dct4x8 l

/-- The tile of a catalog entry, from its coefficient buffer in the transform's layout (45_transforms.md R331, R332). -/
def tileOf (p : Params) (x : XType) (l : List F32) : List F32 :=
  tileByFrequency p x (fromLayout (Cfg.coeffLayout p x.kind x.h x.w) l)

/-- Whether a buffer is a float view of `h` rows and `w` columns (45_transforms.md R331, R333). -/
def Buffer.isTile (b : Buffer) (h w : Nat) : Bool :=
  decide (b.width = w) && decide (b.height = h) && decide (b.ty = .float)

/-- Run a transform from a coefficient view into a sample view, after the shape check (45_transforms.md R333). -/
def transformViews (x : XType) (coeff out : Nat) : Op Unit := do
  let c ← getBuf coeff
  let o ← getBuf out
  check (c.isTile x.h x.w && o.isTile x.h x.w) .transform
  let vs ← readAll coeff
  let l ← collect vs asFloat
  let p ← getParams
  writeAll out ((tileOf p x l).map Sample.flt)

/-- X.IDCT (45_transforms.md R334); a pair outside the catalog is a Transform error (R336). -/
def execXIdct (h w coeff out : Nat) (s : State) : Host.Outcome State Fault Refusal :=
  runUnit (do
    check (isIdctPair h w) .transform
    transformViews { kind := .idct, h := h, w := w } coeff out) s

/-- X.AFV (45_transforms.md R340). -/
def execXAfv (k coeff out : Nat) (s : State) : Host.Outcome State Fault Refusal :=
  runUnit (transformViews { kind := .afv k, h := 8, w := 8 } coeff out) s

/-- X.IDENTITY (45_transforms.md R341). -/
def execXIdentity (coeff out : Nat) (s : State) : Host.Outcome State Fault Refusal :=
  runUnit (transformViews { kind := .identity, h := 8, w := 8 } coeff out) s

/-- X.DCT2X2 (45_transforms.md R342). -/
def execXDct2x2 (coeff out : Nat) (s : State) : Host.Outcome State Fault Refusal :=
  runUnit (transformViews { kind := .dct2x2, h := 8, w := 8 } coeff out) s

/-- X.DCT4X4 (45_transforms.md R343). -/
def execXDct4x4 (coeff out : Nat) (s : State) : Host.Outcome State Fault Refusal :=
  runUnit (transformViews { kind := .dct4x4, h := 8, w := 8 } coeff out) s

/-- X.DCT8X4 (45_transforms.md R344). -/
def execXDct8x4 (coeff out : Nat) (s : State) : Host.Outcome State Fault Refusal :=
  runUnit (transformViews { kind := .dct8x4, h := 8, w := 8 } coeff out) s

/-- X.DCT4X8 (45_transforms.md R345). -/
def execXDct4x8 (coeff out : Nat) (s : State) : Host.Outcome State Fault Refusal :=
  runUnit (transformViews { kind := .dct4x8, h := 8, w := 8 } coeff out) s

end Sys2Proof.Machine
end

