-- ==== Sys2Proof/Machine/Block.lean ====
section
/-! DEFINITION. The block steps of GROUPDEC (43_group_decoder.md R247 to R257): predict and decode the nonzero
count, decode the coefficients, dequantise, transform and store. Channels X, Y, B are 0, 1, 2. Block positions of
operands are relative to the group of the HF block state; the block in progress is the one B.PREDNZ named last. -/

namespace Sys2Proof.Machine

/-! ### Places -/

/-- The catalog entry of a transform id, or Transform (45_transforms.md R333, decision D13). -/
def catalogued (t : Nat) : Op XType := do
  let p ← getParams
  match xtype p t with
  | some x => pure x
  | none => raise .transform

/-- The rectangle of the group in progress. -/
def groupRect : Op Rect := do
  let hf ← getHf
  let fh ← getFrame
  present fh.groups[hf.group]? .frame

/-- The frame block position of a block position of the group. -/
def framePos (r : Rect) (b : Nat × Nat) : Nat × Nat := (r.x0 / 8 + b.1, r.y0 / 8 + b.2)

/-- The quant index of a block of the group (10_state.md R34). -/
def blockQuant (b : Nat × Nat) : Op Nat := do
  let r ← groupRect
  let m ← getHfMeta
  let at_ := framePos r b
  let v ← readSample m.quant at_.1 at_.2
  asNat v

/-- The buffer of channel `c` in a list of buffers per channel. -/
def channelBuffer (l : List Nat) (c : Nat) : Op Nat := present l[c]? .buffer

/-- Change the HF block state. -/
def setHf (f : HfBlock → HfBlock) : Op Unit :=
  upd fun s => s.setGrp fun g => { g with hf := g.hf.map f }

/-! ### B.PREDNZ, B.NZ (43_group_decoder.md R247 to R249, R257) -/

/-- NZ_MAP at a position. -/
def nzAt (hf : HfBlock) (c bx byy : Nat) : Op Nat := present (assocGet hf.nzMap (c, bx, byy)) .hfBlock

/-- B.PREDNZ. -/
def predNz (c bx byy : Nat) : Op Nat := do
  let hf ← getHf
  let v ←
    if bx = 0 ∧ byy = 0 then pure 32
    else if bx = 0 then nzAt hf c bx (byy - 1)
    else if byy = 0 then nzAt hf c (bx - 1) byy
    else do
      let top ← nzAt hf c bx (byy - 1)
      let left ← nzAt hf c (bx - 1) byy
      pure ((top + left + 1) / 2)
  setHf fun h => { h with blk := (bx, byy) }
  pure v

/-- The block context of the block in progress (43_group_decoder.md R248). -/
def blockContextOf (c t : Nat) : Op Nat := do
  let hf ← getHf
  let q ← blockQuant hf.blk
  let g ← getLfGlobal
  let p ← getParams
  pure (Cfg.blockContext p c t q g.blockCtx)

/-- Set NZ_MAP at every position the block covers (43_group_decoder.md R257). -/
def recordNz (m : List ((Nat × Nat × Nat) × Nat)) (c v : Nat) (l : List (Nat × Nat)) :
    List ((Nat × Nat × Nat) × Nat) :=
  match l with
  | [] => m
  | b :: rest => recordNz (assocSet m (c, b.1, b.2) v) c v rest

/-- B.NZ. -/
def decodeNz (c pred t : Nat) : Op Nat := do
  let _ ← catalogued t
  let b ← blockContextOf c t
  let hf ← getHf
  let g ← getLfGlobal
  let p ← getParams
  let nz ← readValue (.ac hf.pass) (Cfg.nonZeroContext p pred b g.blockCtx)
  check (decide (nz ≤ Cfg.capacity p t)) .format
  setHf fun h =>
    { h with
      nzLeft := nz
      nzMap := recordNz h.nzMap c (Cfg.nzStored p nz (coveredBlocks p t)) (coveredPositions p t h.blk.1 h.blk.2) }
  pure nz

/-! ### B.COEFFS (43_group_decoder.md R250, R251) -/

/-- The scan in progress. -/
structure Scan where
  k : Nat
  left : Nat
  prev : Bool
  coeffs : List Int
  deriving DecidableEq, Repr

/-- The coefficient loop of a pass: positions `k` on, while the budget lasts; `fuel` counts the positions left. Each value
joins what is at its position by the open accumulation across passes (notes/assumptions/55.md). -/
def scanLoop (pass cb offset shift : Nat) (order : List Nat) : Nat → Scan → Op Scan
  | 0, w => pure w
  | fuel + 1, w =>
    if w.left = 0 then pure w
    else do
      let p ← getParams
      let u ← readValue (.ac pass) (Cfg.zeroDensityContext p w.left w.k cb w.prev + offset)
      let v := Cfg.unpackSigned p u
      let at_ := (order[w.k]?).getD w.k
      let old := (w.coeffs[at_]?).getD 0
      scanLoop pass cb offset shift order fuel
        { k := w.k + 1
          left := if u ≠ 0 then w.left - 1 else w.left
          prev := prevNzAfter u
          coeffs := w.coeffs.set at_ (Cfg.accumulate p pass old (v * 2 ^ shift)) }

/-- The scan order of a shape and channel in pass `p`: the coded one, else the default (43_group_decoder.md R244). -/
def scanOrder (params : Params) (hg : HfGlobal) (p t c : Nat) : List Nat :=
  match assocGet ((hg.order[p]?).getD []) (orderKey params t c) with
  | some o => o
  | none => Cfg.defaultOrder params (orderKey params t c)

/-- HFGLOBAL. -/
def getHfGlobal : Op HfGlobal := do
  let s ← getState
  present s.grp.hfGlobal .hfGlobal

/-- The corner of a block of the group in the frame's planes, in samples (43_group_decoder.md R256). -/
def tileCorner (r : Rect) (b : Nat × Nat) : Nat × Nat := (8 * b.1 + r.x0, 8 * b.2 + r.y0)

/-- COEFF of a block: coefficient `k` is sample `k` of the block's tile of the channel's coefficient plane, in raster
order. The planes are zero before the first pass (43_group_decoder.md R250). -/
def readCoeffs (c : Nat) (x : XType) (b : Nat × Nat) : Op (List Int) := do
  let r ← groupRect
  let side ← getSide
  let plane ← channelBuffer side.coeff c
  let at_ := tileCorner r b
  let vs ← readTile plane x.w x.h at_.1 at_.2
  collect vs asInt

/-- Write COEFF of a block back. -/
def writeCoeffs (c : Nat) (x : XType) (b : Nat × Nat) (l : List Int) : Op Unit := do
  let r ← groupRect
  let side ← getSide
  let plane ← channelBuffer side.coeff c
  let at_ := tileCorner r b
  writeTile plane x.w at_.1 at_.2 (l.map Sample.int)

/-- B.COEFFS. -/
def decodeCoeffs (c t nz p : Nat) : Op Unit := do
  let x ← catalogued t
  let hf ← getHf
  let hg ← getHfGlobal
  let b ← blockContextOf c t
  let fh ← getFrame
  let params ← getParams
  let cb := coveredBlocks params t
  let size := 64 * cb
  let first := Cfg.firstAc params t
  let old ← readCoeffs c x hf.blk
  let w ← scanLoop p cb (Cfg.contextOffset params b) (Cfg.passShift params p fh.passShifts)
    (scanOrder params hg p t c) (size - first)
    { k := first, left := nz, prev := Cfg.initialPrev params nz size, coeffs := old }
  setHf fun h => { h with nzLeft := w.left, scanPos := w.k, prevNz := w.prev }
  writeCoeffs c x hf.blk w.coeffs
  check (decide (w.left = 0)) .format

/-! ### B.DEQUANT (43_group_decoder.md R253) -/

/-- `F[c][k]` before the cross-adjustment. A (transform, channel) for which HFGLOBAL holds no matrix, or too short a
one, takes the open matrix of `Config` (DESIGN CHOICE, notes/assumptions/47.md). -/
def dequantPlain (p : Params) (a : DequantInput) (c k : Nat) : F32 :=
  let base := F32.div (Cfg.invGlobalScale p a.quantizer) (F32.ofNat a.q)
  let v := (((a.coeffs[c]?).getD [])[k]?).getD 0
  let m := match (a.matrices[c]?).getD none with
    | some l => (l[k]?).getD (Cfg.dequantMatrix p a.t c k)
    | none => Cfg.dequantMatrix p a.t c k
  F32.mul (F32.mul (F32.mul (Cfg.adjustBias p c v) base) (Cfg.channelMul p c)) m

/-- The documented shape of `Dequant`: X and B are adjusted by a multiple of Y. -/
def dequantShape (p : Params) (e : (Nat × Nat) × DequantInput) : F32 :=
  let c := e.1.1
  let k := e.1.2
  let a := e.2
  if c = 1 then dequantPlain p a 1 k
  else F32.add (dequantPlain p a c k)
    (F32.mul (Cfg.correlation p c a.bx a.byy a.colorCorr (if c = 0 then a.tileX else a.tileB)) (dequantPlain p a 1 k))

/-- `Dequant` at channel and position (decision D22). -/
def Cfg.dequant (p : Params) (a : DequantInput) (c k : Nat) : F32 :=
  Fn.get p.dequant Config.dequant (dequantShape p) ((c, k), a)

/-- The positions of a transform that are not LF positions. -/
def isAc (p : Params) (t k : Nat) : Bool := !(Cfg.lfPositions p t).contains k

/-- The colour-correlation factor of the tile that holds a frame block position, in one of HFMETA's tile maps; side data
that gives none is malformed. -/
def tileFactor (h : Nat) (b : Nat × Nat) : Op Int := do
  let p ← getParams
  let n := Cfg.tileBlocks p
  let known ← isWritten h (b.1 / n) (b.2 / n)
  check known .format
  let v ← readSample h (b.1 / n) (b.2 / n)
  asInt v

/-- Write the dequantised coefficients of a channel of a block. -/
def writeDequantised (c : Nat) (x : XType) (b : Nat × Nat) (l : List F32) : Op Unit := do
  let r ← groupRect
  let side ← getSide
  let plane ← channelBuffer side.deq c
  let at_ := tileCorner r b
  writeTile plane x.w at_.1 at_.2 (l.map Sample.flt)

/-- B.DEQUANT. The LF positions are zero until B.XFORM places the LF values (notes/assumptions/48.md). -/
def dequantBlock (bx byy t : Nat) : Op Unit := do
  let x ← catalogued t
  let q ← blockQuant (bx, byy)
  check (decide (1 ≤ q)) .format
  let g ← getLfGlobal
  let hg ← getHfGlobal
  let m ← getHfMeta
  let r ← groupRect
  let p ← getParams
  let at_ := framePos r (bx, byy)
  let fx ← tileFactor m.corrX at_
  let fb ← tileFactor m.corrB at_
  let coeffs ← collect [0, 1, 2] fun c => readCoeffs c x (bx, byy)
  let a : DequantInput :=
    { t := t, q := q, bx := at_.1, byy := at_.2, coeffs := coeffs
      quantizer := g.quantizer, colorCorr := g.colorCorr, tileX := fx, tileB := fb
      matrices := [0, 1, 2].map fun c => assocGet hg.dequant (t, c) }
  each [0, 1, 2] fun c => writeDequantised c x (bx, byy)
    ((List.range (x.w * x.h)).map fun k => if isAc p t k then Cfg.dequant p a c k else 0)

/-! ### B.XFORM (43_group_decoder.md R256) -/

/-- Place values at positions. -/
def placeAt (l : List F32) (e : List (Nat × F32)) : List F32 :=
  match e with
  | [] => l
  | (k, v) :: rest => placeAt (l.set k v) rest

/-- The LF value of a channel at a frame block position; side data that gives none is malformed. -/
def lfAt (c : Nat) (b : Nat × Nat) : Op Int := do
  let side ← getSide
  let h ← channelBuffer side.lf c
  let known ← isWritten h b.1 b.2
  check known .format
  let v ← readSample h b.1 b.2
  asInt v

/-- The dequantised coefficients of a channel of a block. -/
def readDequantised (c : Nat) (x : XType) (b : Nat × Nat) : Op (List F32) := do
  let r ← groupRect
  let side ← getSide
  let h ← channelBuffer side.deq c
  let at_ := tileCorner r b
  let vs ← readTile h x.w x.h at_.1 at_.2
  collect vs asFloat

/-- B.XFORM for one channel. The LF values are placed in the block the transform works on and are not written back to
the dequantised plane, which keeps 0 there (DESIGN CHOICE, notes/assumptions/48.md). The open function that makes them
sees the channel's own LF values at the covered positions and the quantizer only (DESIGN CHOICE,
notes/assumptions/63.md). -/
def xformChannel (c bx byy t : Nat) : Op Unit := do
  let x ← catalogued t
  let s ← getState
  let g ← getLfGlobal
  let r ← groupRect
  let p ← getParams
  let f ← readDequantised c x (bx, byy)
  let at_ := framePos r (bx, byy)
  let lf ← collect (coveredPositions p t at_.1 at_.2) fun b => lfAt c b
  let vals := (Cfg.lfPositions p t).zipIdx.map fun e => (e.1, Cfg.lfValue p t c e.2 lf g.quantizer)
  let plane ← channelBuffer s.grp.planes c
  let o := tileCorner r (bx, byy)
  writeTile plane x.w o.1 o.2 ((tileOf p x (placeAt f vals)).map Sample.flt)

/-- B.XFORM: for each of X, Y, B. -/
def xformBlock (bx byy t : Nat) : Op Unit := each [0, 1, 2] fun c => xformChannel c bx byy t

/-! ### The operations -/

def execBPredNz (c bx byy : Nat) (s : State) : Host.Outcome State Fault Refusal :=
  run (do
    let v ← predNz c bx byy
    pure (.nat v)) s

def execBNz (c pred t : Nat) (s : State) : Host.Outcome State Fault Refusal :=
  run (commitOrAbandon do
    let v ← decodeNz c pred t
    pure (.nat v)) s

def execBCoeffs (c t nz p : Nat) (s : State) : Host.Outcome State Fault Refusal :=
  runUnit (commitOrAbandon (decodeCoeffs c t nz p)) s

def execBDequant (bx byy t : Nat) (s : State) : Host.Outcome State Fault Refusal :=
  runUnit (dequantBlock bx byy t) s

def execBXform (bx byy t : Nat) (s : State) : Host.Outcome State Fault Refusal :=
  runUnit (xformBlock bx byy t) s

end Sys2Proof.Machine
end

