-- ==== Sys2Proof/Machine/Modular.lean ====
section
/-! DEFINITION. The Modular subsystem (44_modular.md): tree decoding and walking, per-pixel prediction, the weighted
predictor, palette, squeeze, and the decoding of a channel list. -/

namespace Sys2Proof.Machine

/-! ### The tree (44_modular.md R282 to R286) -/

/-- The accumulated range of a property along a path; an absent bound is the full range's. -/
structure PropRange where
  property : Nat
  lo : Option Int
  hi : Option Int
  deriving DecidableEq, Repr

/-- The range of a property. The full range a tree starts from is not in the source; it is unbounded on both sides
(DESIGN CHOICE, notes/assumptions/49.md). -/
def rangeOf (l : List PropRange) (p : Nat) : PropRange :=
  match l with
  | [] => { property := p, lo := none, hi := none }
  | r :: rest => if r.property = p then r else rangeOf rest p

/-- Both children of a split at `t` are non-empty: `lo <= t < hi` (44_modular.md R283, decision D43). -/
def PropRange.splits (r : PropRange) (t : Int) : Bool :=
  (match r.lo with
   | none => true
   | some lo => decide (lo ≤ t)) &&
  (match r.hi with
   | none => true
   | some hi => decide (t < hi))

/-- Replace the range of a property. -/
def setRange (l : List PropRange) (r : PropRange) : List PropRange :=
  r :: l.filter fun x => decide (x.property ≠ r.property)

/-- A node waiting to be read: its accumulated ranges and its depth. -/
structure Waiting where
  ranges : List PropRange
  depth : Nat
  deriving DecidableEq, Repr

/-- A value of a field of the tree scope. -/
def treeField (f : TreeField) : Op Nat := do
  let p ← getParams
  readValue .tree (Cfg.treeContext p f)

/-- A leaf's fields (44_modular.md R282). Of the two values of `MultiplierFrom`, which the rule does not name, the log
comes first in the stream, then the bits (DESIGN CHOICE, notes/assumptions/20.md). -/
def readLeaf (ctx : Nat) : Op Leaf := do
  let p ← getParams
  let k ← treeField .predictor
  match Cfg.predictorOf p k with
  | none => raise .format
  | some predictor => do
    let o ← treeField .offset
    let log ← treeField .multLog
    let bits ← treeField .multBits
    let m := Cfg.multiplierFrom p log bits
    check (decide (1 ≤ m)) .format
    pure { predictor := predictor, offset := Cfg.unpackSigned p o, multiplier := m, ctx := ctx }

/-- The breadth-first loop: nodes read so far in slot order, leaves so far, the queue. The n-th node popped is slot n,
and a split's children take the next two free slots. -/
def treeLoop : Nat → List Node → Nat → List Waiting → Op Tree
  | 0, _, _, _ => raise .resourceLimit
  | fuel + 1, nodes, leaves, queue =>
    match queue with
    | [] => pure nodes
    | w :: rest => do
      let p ← getParams
      check (decide (nodes.length < Cfg.maxTreeNodes p)) .resourceLimit
      check (decide (w.depth ≤ Cfg.maxTreeHeight p)) .format
      let u ← treeField .property
      match Cfg.treeTag p u with
      | none => do
        let l ← readLeaf leaves
        treeLoop fuel (nodes ++ [.leaf l]) (leaves + 1) rest
      | some prop => do
        check (Cfg.propertyDefined p prop) .format
        let z ← treeField .threshold
        let t := Cfg.unpackSigned p z
        let r := rangeOf w.ranges prop
        check (r.splits t) .format
        let slot := nodes.length + 1 + rest.length
        treeLoop fuel (nodes ++ [.split prop t slot (slot + 1)]) leaves
          (rest ++
            [{ ranges := setRange w.ranges { r with lo := some (t + 1) }, depth := w.depth + 1 },
             { ranges := setRange w.ranges { r with hi := some t }, depth := w.depth + 1 }])

/-- M.TREE: decode a tree with its scope's entropy coder. -/
def decodeTree : Op Tree := do
  let p ← getParams
  scopeOpen .tree
  let t ← treeLoop (Cfg.maxTreeNodes p + 1) [] 0 [{ ranges := [], depth := 1 }]
  scopeFinal .tree
  scopeDrop .tree
  pure t

/-- The tree of a scope with "no tree" (44_modular.md R281). -/
def zeroTree : Tree := [.leaf { predictor := .zero, offset := 0, multiplier := 1, ctx := 0 }]

/-- A property of a list of properties; one the list does not have is a free value (notes/assumptions/40.md). -/
def propAt (props : List Int) (k : Nat) : Int := (props[k]?).getD (Config.missingProperty k)

/-- The walk from a node: `value(property) > threshold` goes left, equality goes right (44_modular.md R286, R288). -/
def walkFrom (t : Tree) (props : List Int) : Nat → Nat → Option Leaf
  | 0, _ => none
  | fuel + 1, n =>
    match t[n]? with
    | none => none
    | some (.leaf l) => some l
    | some (.split p th l r) => walkFrom t props fuel (if propAt props p > th then l else r)

/-- M.WALK. A tree of n nodes has no path of more than n. -/
def walk (t : Tree) (props : List Int) : Option Leaf := walkFrom t props t.length 0

/-- Whether a tree uses the weighted predictor, as a leaf's predictor or through a property that carries one of its
outputs (44_modular.md R287, R296). -/
def usesWp (p : Params) (t : Tree) : Bool :=
  t.any fun n => match n with
    | .leaf l => decide (l.predictor = .weighted)
    | .split k _ _ _ => Cfg.wpProperty p k

/-! ### Samples and neighbours (44_modular.md R291, R312) -/

/-- Whether an integer fits MOD_SAMPLE_BITS as a signed value (44_modular.md R312). -/
def fitsSample (p : Params) (v : Int) : Bool :=
  let lim : Int := 2 ^ (Cfg.modSampleBits p - 1)
  decide (-lim ≤ v) && decide (v < lim)

/-- Store a Modular sample; a value that does not fit is a Format error (44_modular.md R312). -/
def putInt (buf x y : Nat) (v : Int) : Op Unit := do
  let p ← getParams
  check (fitsSample p v) .format
  writeSample buf x y (.int v)

/-- A sample of an integer buffer. -/
def getInt (buf x y : Nat) : Op Int := do
  let v ← readSample buf x y
  asInt v

/-- A sample, where the position exists. -/
def getIntIf (c : Bool) (buf x y : Nat) : Op (Option Int) :=
  if c then do
    let v ← getInt buf x y
    pure (some v)
  else pure none

/-- The neighbours of a position that lie inside the buffer (44_modular.md R291). The position of NEE, which predictor 13
names, is not in the source: two columns to the right in the row above (notes/assumptions/45.md). -/
def rawNeighbours (buf w x y : Nat) : Op RawNeighbours := do
  let vw ← getIntIf (decide (1 ≤ x)) buf (x - 1) y
  let vn ← getIntIf (decide (1 ≤ y)) buf x (y - 1)
  let vnw ← getIntIf (decide (1 ≤ x) && decide (1 ≤ y)) buf (x - 1) (y - 1)
  let vne ← getIntIf (decide (1 ≤ y) && decide (x + 1 < w)) buf (x + 1) (y - 1)
  let vww ← getIntIf (decide (2 ≤ x)) buf (x - 2) y
  let vnn ← getIntIf (decide (2 ≤ y)) buf x (y - 2)
  let vnee ← getIntIf (decide (1 ≤ y) && decide (x + 2 < w)) buf (x + 2) (y - 1)
  pure { w := vw, n := vn, nw := vnw, ne := vne, ww := vww, nn := vnn, nee := vnee }

/-- The neighbours of a position of channel `ch` with the edge convention. -/
def neighboursAt (ch buf x y : Nat) : Op Neighbours := do
  let b ← getBuf buf
  let p ← getParams
  let r ← rawNeighbours buf b.width x y
  pure (Cfg.neighbours p (ch, x, y) r)

/-! ### The weighted predictor (44_modular.md R292 to R296) -/

/-- WP at the start of a channel of width `w`: every accumulator is zero (10_state.md R42). -/
def wpInit (h : WpHeader) (w : Nat) : Wp :=
  { header := h, width := w
    accPrev := List.replicate 4 (List.replicate w 0), accCur := List.replicate 4 (List.replicate w 0)
    errPrev := List.replicate w 0, errCur := List.replicate w 0
    est := [0, 0, 0, 0], pred := 0, prop := 0 }

/-- Whether two true errors have the same sign bit. -/
def sameSign (a b : Int) : Bool := decide (a < 0) == decide (b < 0)

/-- The neighbouring error of largest magnitude, its sign kept. Of errors of equal magnitude and opposite sign, of which
the rule does not speak, it is the first in the order W, N, NW, NE (44_modular.md R292; DESIGN CHOICE,
notes/assumptions/20.md). -/
def largestError (best : Int) (l : List Int) : Int :=
  match l with
  | [] => best
  | e :: rest => largestError (if best.natAbs < e.natAbs then e else best) rest

/-- An entry of a row, where the column exists. -/
def columnOf {α : Type} (l : List α) (c : Bool) (x : Nat) : Option α := if c then l[x]? else none

/-- The inputs of the estimators at a position. -/
def Wp.input (p : Params) (wp : Wp) (nb : Neighbours) (x y : Nat) : WpInput :=
  let f := Cfg.wpScale p
  { coeffs := wp.header.coeffs
    nb := { w := f nb.w, n := f nb.n, nw := f nb.nw, ne := f nb.ne, ww := f nb.ww, nn := f nb.nn, nee := f nb.nee }
    teW := columnOf wp.errCur (decide (1 ≤ x)) (x - 1)
    teN := columnOf wp.errPrev (decide (1 ≤ y)) x
    teNW := columnOf wp.errPrev (decide (1 ≤ x) && decide (1 ≤ y)) (x - 1)
    teNE := columnOf wp.errPrev (decide (1 ≤ y) && decide (x + 1 < wp.width)) (x + 1) }

/-- The weight of estimator `i` at column `x`, from the accumulators at N, NE, NW (44_modular.md R294); what a missing
one counts as is the weight function's affair (notes/assumptions/46.md). -/
def Wp.weight (p : Params) (wp : Wp) (x i : Nat) : Nat :=
  let row := (wp.accPrev[i]?).getD []
  Cfg.wpWeight p ((wp.header.weights[i]?).getD 0)
    [row[x]?, columnOf row (decide (x + 1 < wp.width)) (x + 1), columnOf row (decide (1 ≤ x)) (x - 1)]

/-- Whether the clamp applies: the true errors at N, W and NW agree in sign, or, under SIGNS_DIFFER, do not
(44_modular.md R295, 90_conflicts.md C2). -/
def clampApplies (p : Params) (i : WpInput) : Bool :=
  let n := i.teN.getD 0
  let agree := sameSign n (i.teW.getD 0) && sameSign n (i.teNW.getD 0)
  match p.wpClampWhen with
  | .signsAgree => agree
  | .signsDiffer => !agree

/-- M.WP: the estimates, the prediction in the fixed-point scale and the property (44_modular.md R292). -/
def Wp.predict (p : Params) (wp : Wp) (nb : Neighbours) (x y : Nat) : Wp :=
  let i := wp.input p nb x y
  let est := (List.range 4).map fun k => Cfg.wpEstimator p k i
  let avg := Cfg.wpAverage p est ((List.range 4).map fun k => wp.weight p x k)
  let r := Cfg.wpRange p i.nb
  { wp with
    est := est
    pred := if clampApplies p i then clampInt avg r.1 r.2 else avg
    prop := largestError (i.teW.getD 0) [i.teN.getD 0, i.teNW.getD 0, i.teNE.getD 0] }

/-- Change an entry of a row. -/
def addAt (l : List Nat) (x d : Nat) : List Nat := l.set x (nth l x + d)

/-- M.WP.UPDATE (44_modular.md R296); at a row's end the two rows of the ring are swapped (R294), and the recycled row,
the new current one, is zero (DESIGN CHOICE, notes/assumptions/64.md). -/
def Wp.update (p : Params) (wp : Wp) (x : Nat) (value : Int) : Wp :=
  let v := Cfg.wpScale p value
  let err := wp.est.map fun e => Cfg.wpErr p (e - v).natAbs
  let cur := List.zipWith (fun (row : List Nat) (e : Nat) => row.set x e) wp.accCur err
  let prev := List.zipWith (fun (row : List Nat) (e : Nat) => addAt row (x + 1) e) wp.accPrev err
  let te := wp.errCur.set x (wp.pred - v)
  if x + 1 = wp.width then
    { wp with
      accPrev := cur, accCur := List.replicate 4 (List.replicate wp.width 0)
      errPrev := te, errCur := List.replicate wp.width 0 }
  else { wp with accPrev := prev, accCur := cur, errCur := te }

/-- Compute M.WP at (x, y) of the buffer of channel `ch`, when the weighted predictor is tracked. -/
def wpAt (ch buf x y : Nat) : Op Unit := do
  let nb ← neighboursAt ch buf x y
  upd fun s => s.setMod fun m => { m with wp := m.wp.map fun wp => wp.predict s.inp.params nb x y }

/-- The weighted predictor's state. -/
def getWp : Op Wp := do
  let s ← getState
  present s.mod.wp .wp

/-- The weighted predictor's estimate as a pixel prediction, for predictor `pr` at a channel and position. Where it is
not tracked, WP is absent: the Weighted predictor reads it, a model fault, and for another one the estimate is a free
value (10_state.md R61, notes/assumptions/40.md). -/
def wpPixel (pr : Predictor) (at_ : Nat × Nat × Nat) : Op Int := do
  let s ← getState
  match s.mod.wp with
  | some wp => pure (Cfg.wpUnscale s.inp.params wp.pred)
  | none =>
    if pr = .weighted then stop (.fault (.absent .wp))
    else pure (Cfg.wpUnscale s.inp.params (Config.untrackedWp at_).1)

/-! ### Pixels (44_modular.md R287, R288, R290, R298) -/

/-- The channels before `ch` with its size, each with its number, the nearest first. -/
def prevChannels (w h : Nat) (s : State) (l : List Channel) : List (Channel × Nat) :=
  (l.zipIdx.filter fun c => match assocGet s.img.bufs c.1.buf with
    | some b => decide (b.width = w) && decide (b.height = h)
    | none => false).reverse

/-- M.PROPS: the properties of a position; the weighted predictor's outputs are computed first
(notes/assumptions/19.md). -/
def pixelProps (ch x y : Nat) : Op (List Int) := do
  let img ← getModImage
  let c ← getChannel ch
  let b ← getBuf c.buf
  upd fun s => s.setMod fun m => { m with cur := (ch, x, y) }
  wpAt ch c.buf x y
  let nb ← neighboursAt ch c.buf x y
  let leftGrad ←
    if x = 0 then pure 0
    else do
      let l ← neighboursAt ch c.buf (x - 1) y
      pure (l.w + l.n - l.nw)
  let s ← getState
  let prev ← collect (prevChannels b.width b.height s (img.channels.take ch)) fun q => do
    let v ← getInt q.1.buf x y
    let n ← neighboursAt q.2 q.1.buf x y
    pure (v, n)
  pure (Cfg.propertyTable s.inp.params
    { channel := ch, stream := img.stream, x := x, y := y, nb := nb, leftGrad := leftGrad
      wpPred := match s.mod.wp with
        | some wp => wp.pred
        | none => (Config.untrackedWp (ch, x, y)).1
      wpError := match s.mod.wp with
        | some wp => wp.prop
        | none => (Config.untrackedWp (ch, x, y)).2
      prev := prev })

/-- The tree of the scope in progress. -/
def getTree : Op Tree := do
  let s ← getState
  present s.mod.tree .tree

/-- M.WALK on the scope's tree. -/
def walkTree (props : List Int) : Op Leaf := do
  let t ← getTree
  present (walk t props) .tree

/-- The value of a pixel from prediction and residual (44_modular.md R290, 90_conflicts.md C3). -/
def pixelValue (p : Params) (l : Leaf) (guess residual : Int) : Int :=
  match p.mulAppliesTo with
  | .prediction => guess * l.multiplier + l.offset + residual
  | .residual => guess + residual * l.multiplier + l.offset

/-- M.PREDICT at the position M.PROPS named last. -/
def predictPixel (l : Leaf) : Op Int := do
  let s ← getState
  let c ← getChannel s.mod.cur.1
  let nb ← neighboursAt s.mod.cur.1 c.buf s.mod.cur.2.1 s.mod.cur.2.2
  let wp ← wpPixel l.predictor s.mod.cur
  let p ← getParams
  let u ← readValue .modular l.ctx
  let v := pixelValue p l (Cfg.predictOne p l.predictor nb wp) (Cfg.unpackSigned p u)
  putInt c.buf s.mod.cur.2.1 s.mod.cur.2.2 v
  pure v

/-- M.WP.UPDATE where the weighted predictor is tracked. -/
def updateWp (x : Nat) (v : Int) : Op Unit :=
  upd fun s => s.setMod fun m => { m with wp := m.wp.map fun wp => wp.update s.inp.params x v }

/-- One pixel: M.PROPS, M.WALK, M.PREDICT, M.WP.UPDATE (44_modular.md R298). -/
def decodePixel (ch x y : Nat) : Op Unit := do
  let props ← pixelProps ch x y
  let l ← walkTree props
  let v ← predictPixel l
  updateWp x v

/-- A channel in raster order, with a fresh weighted predictor when the tree uses it; a channel of no samples is
skipped. -/
def decodeChannel (h : WpHeader) (ch : Nat) : Op Unit := do
  let c ← getChannel ch
  let b ← getBuf c.buf
  let t ← getTree
  upd fun s => s.setMod fun m => { m with wp := if usesWp s.inp.params t then some (wpInit h b.width) else none }
  each (List.range (b.width * b.height)) fun k => decodePixel ch (k % b.width) (k / b.width)

/-! ### Replacing channels -/

/-- Channel `c`'s buffer as a transform's operand; a missing channel is a mismatched operand, Transform. -/
def operandChannel (c : Nat) : Op (Channel × Buffer) := do
  let m ← getModImage
  match m.channels[c]? with
  | none => raise .transform
  | some ch => do
    let b ← getBuf ch.buf
    pure (ch, b)

/-- The list with entry `at_` replaced by `new` and entry `gone` removed, counting from `i`. -/
def splice {α : Type} (at_ gone : Nat) (new : List α) (i : Nat) (l : List α) : List α :=
  match l with
  | [] => []
  | x :: rest =>
    (if i = at_ then new else if i = gone then [] else [x]) ++ splice at_ gone new (i + 1) rest

/-- Put a transform's output channels in place of its operands (notes/assumptions/18.md). -/
def replaceChannels (at_ gone : Nat) (new : List Channel) : Op Unit :=
  upd fun s => s.setMod fun m =>
    { m with image := m.image.map fun i => { i with channels := splice at_ gone new 0 i.channels } }

/-! ### Palette (44_modular.md R300 to R305) -/

/-- The value of a palette index for a channel; `explicit` is the palette image's entry, asked for only in its range
(44_modular.md R301). -/
def paletteValue (p : Params) (numColors bitDepth : Nat) (explicit : Nat → Int) (idx : Int) (c : Nat) : Int :=
  if idx < 0 then Cfg.deltaPalette p idx c bitDepth
  else if idx < numColors then explicit idx.toNat
  else if idx < numColors + 64 then Cfg.smallCube p (idx.toNat - numColors) c bitDepth
  else Cfg.largeCube p (idx.toNat - numColors - 64) c bitDepth

/-- One output sample. Where the palette's predictor is Weighted the predictor runs over the output channel. -/
def palettePixel (indexBuf out numColors numDeltas bitDepth : Nat) (predictor : Predictor) (row : List Int)
    (c x y : Nat) : Op Unit := do
  let idx ← getInt indexBuf x y
  let p ← getParams
  wpAt c out x y
  let v := paletteValue p numColors bitDepth (fun k => propAt row k) idx c
  let r ←
    if idx < numDeltas then do
      let nb ← neighboursAt c out x y
      let wp ← wpPixel predictor (c, x, y)
      pure (Cfg.predictOne p predictor nb wp + v)
    else pure v
  putInt out x y r
  updateWp x r

/-- The samples of row `y` of an integer buffer. -/
def intRow (buf w y : Nat) : Op (List Int) := do
  let vs ← readRow buf y 0 w
  collect vs asInt

/-- M.PALETTE (44_modular.md R300). One channel in both roles is a Transform error (DESIGN CHOICE,
notes/assumptions/18.md). With the Weighted predictor the rules do not say what state it has: each output channel starts
a new one with the header of the Modular scope, and every output sample updates it (DESIGN CHOICE,
notes/assumptions/57.md). -/
def undoPalette (index pal numColors numDeltas : Nat) (predictor : Predictor) (bitDepth : Nat) : Op Unit := do
  let i ← operandChannel index
  let q ← operandChannel pal
  check (decide (index ≠ pal) && decide (numColors ≤ q.2.width)) .transform
  let s ← getState
  let header ←
    if predictor = .weighted then do
      let wp ← present s.mod.wp .wp
      pure (some wp.header)
    else pure none
  let outs ← collect (List.range q.2.height) fun c => do
    let row ← intRow q.1.buf q.2.width c
    let out ← alloc i.2.width i.2.height .int
    upd fun s => s.setMod fun m => { m with wp := header.map fun h => wpInit h i.2.width }
    each (List.range (i.2.width * i.2.height)) fun k =>
      palettePixel i.1.buf out numColors numDeltas bitDepth predictor row c (k % i.2.width) (k / i.2.width)
    pure { i.1 with buf := out }
  upd fun t => t.setMod fun m => { m with wp := s.mod.wp }
  replaceChannels index pal outs
  release i.1.buf
  release q.1.buf

/-! ### Squeeze (44_modular.md R306 to R310) -/

/-- `Tendency(B, a, n)` (44_modular.md R308). -/
def tendency (b a n : Int) : Int :=
  if b ≥ a ∧ a ≥ n then
    let d := Int.tdiv (4 * b - 3 * n - a + 6) 12
    let d := if d - lowBit d > 2 * (b - a) then 2 * (b - a) + 1 else d
    if d + lowBit d > 2 * (a - n) then 2 * (a - n) else d
  else if b ≤ a ∧ a ≤ n then
    let d := Int.tdiv (4 * b - 3 * n - a - 6) 12
    let d := if d + lowBit d < 2 * (b - a) then 2 * (b - a) - 1 else d
    if d - lowBit d < 2 * (a - n) then 2 * (a - n) else d
  else 0

/-- `Pair(a, d).first` (44_modular.md R309). -/
def pairFirst (a d : Int) : Int := sar (2 * a + d + (if d > 0 then -lowBit d else lowBit d)) 1

/-- One row of M.HSQUEEZE; `prev` is the last reconstructed sample (44_modular.md R306, R310). -/
def unsqueeze (prev : Option Int) (avg res : List Int) : List Int :=
  match avg, res with
  | [], _ => []
  | a :: _, [] => [a]
  | a :: more, r :: rest =>
    let d := r + tendency (prev.getD a) a ((more.head?).getD a)
    let first := pairFirst a d
    first :: (first - d) :: unsqueeze (some (first - d)) more rest

/-- The samples of column `x` of an integer buffer. -/
def intColumn (buf h x : Nat) : Op (List Int) := collect (List.range h) fun y => getInt buf x y

/-- Store a row of integers. -/
def putRow (buf y x : Nat) (l : List Int) : Op Unit :=
  match l with
  | [] => pure ()
  | v :: rest => do
    putInt buf x y v
    putRow buf y (x + 1) rest

/-- Store a column of integers. -/
def putColumn (buf x y : Nat) (l : List Int) : Op Unit :=
  match l with
  | [] => pure ()
  | v :: rest => do
    putInt buf x y v
    putColumn buf x (y + 1) rest

/-- M.HSQUEEZE (44_modular.md R306). One channel in both roles is a Transform error, and the shift of the output is one
less than that of the averages, 0 where theirs is 0 (DESIGN CHOICE, notes/assumptions/18.md). -/
def undoHsqueeze (avg res w : Nat) : Op Unit := do
  let a ← operandChannel avg
  let r ← operandChannel res
  check (decide (avg ≠ res) && decide (a.2.width = (w + 1) / 2) && decide (r.2.width = w / 2)
    && decide (a.2.height = r.2.height)) .transform
  let out ← alloc w a.2.height .int
  each (List.range a.2.height) fun y => do
    let la ← intRow a.1.buf a.2.width y
    let lr ← intRow r.1.buf r.2.width y
    putRow out y 0 (unsqueeze none la lr)
  replaceChannels avg res [{ a.1 with buf := out, hshift := a.1.hshift - 1 }]
  release a.1.buf
  release r.1.buf

/-- M.VSQUEEZE (44_modular.md R307). One channel in both roles is a Transform error, and the shift of the output is one
less than that of the averages, 0 where theirs is 0 (DESIGN CHOICE, notes/assumptions/18.md). -/
def undoVsqueeze (avg res h : Nat) : Op Unit := do
  let a ← operandChannel avg
  let r ← operandChannel res
  check (decide (avg ≠ res) && decide (a.2.height = (h + 1) / 2) && decide (r.2.height = h / 2)
    && decide (a.2.width = r.2.width)) .transform
  let out ← alloc a.2.width h .int
  each (List.range a.2.width) fun x => do
    let la ← intColumn a.1.buf a.2.height x
    let lr ← intColumn r.1.buf r.2.height x
    putColumn out x 0 (unsqueeze none la lr)
  replaceChannels avg res [{ a.1 with buf := out, vshift := a.1.vshift - 1 }]
  release a.1.buf
  release r.1.buf

/-- Undo one transform. -/
def undoTransform (t : ModTransform) : Op Unit :=
  match t with
  | .palette index pal nc nd pr bd => undoPalette index pal nc nd pr bd
  | .hsqueeze avg res w => undoHsqueeze avg res w
  | .vsqueeze avg res h => undoVsqueeze avg res h

/-! ### A channel list (44_modular.md R280, R281, R298) -/

/-- The tree of a Modular scope (44_modular.md R281). A scope that chooses the shared tree in a frame without one, of
which the rule does not speak, is malformed (DESIGN CHOICE, notes/assumptions/56.md). -/
def chooseTree (c : TreeChoice) : Op Tree :=
  match c with
  | .own => decodeTree
  | .absent => pure zeroTree
  | .shared => do
    let g ← getLfGlobal
    match g.sharedTree with
    | some t => pure t
    | none => raise .format

/-- A channel's size and samples. -/
def channelGrid (c : Channel) : Op ChannelGrid := do
  let b ← getBuf c.buf
  let vs ← readAll c.buf
  let l ← collect vs asInt
  pure { w := b.width, h := b.height, samples := l }

/-- Copy a channel into its place in a plane of the frame, which must hold it (notes/assumptions/16.md). -/
def placeChannel (e : Placement) : Op Unit := do
  let m ← getModImage
  let s ← getState
  match m.channels[e.channel]?, s.grp.planes[e.plane]? with
  | some c, some pl => do
    let b ← getBuf c.buf
    let q ← getBuf pl
    check (decide (e.x0 + b.width ≤ q.width) && decide (e.y0 + b.height ≤ q.height)) .format
    each (List.range b.height) fun y => do
      let row ← intRow c.buf b.width y
      writeRow pl (e.y0 + y) e.x0 (row.map (Cfg.planeSample s.inp.params q.ty))
  | _, _ => raise .format

/-- What the section syntax of a Modular scope may depend on beside its bits (notes/assumptions/67.md). -/
def State.modSite (s : State) (place : ModPlace) : ModSite :=
  { place := place, image := s.par.imageHeader, frame := s.par.frame }

/-- Decode a Modular scope of a section: specification, tree, channels, checksum, transforms in reverse order,
placement; the answer is the channels' sizes and samples. No rule says when the scope's channel buffers are allocated
(44_modular.md R280, R298): all of them are, in channel order, after the scope's tree is there and before its entropy
tables are opened, which decides whether ResourceLimit or Format is reported where both would be (DESIGN CHOICE,
notes/assumptions/66.md). -/
def decodeModular (place : ModPlace) (stream : Nat) : Op (List ChannelGrid) := do
  let s ← getState
  let spec ← parse (Cfg.modularSpec s.inp.params (s.modSite place))
  let t ← chooseTree spec.tree
  let chans ← collect spec.channels fun c => do
    let b ← alloc c.w c.h .int
    pure ({ buf := b, hshift := c.hshift, vshift := c.vshift } : Channel)
  upd fun s => s.setMod fun m =>
    { m with
      tree := some t, wp := none
      image := some { stream := stream, channels := chans, transforms := spec.transforms } }
  scopeOpen .modular
  each (List.range chans.length) fun ch => decodeChannel spec.wp ch
  scopeFinal .modular
  scopeDrop .modular
  upd fun s => s.setMod fun m => { m with wp := some (wpInit spec.wp 0) }
  each spec.transforms.reverse undoTransform
  each spec.place placeChannel
  let m ← getModImage
  let grids ← collect m.channels channelGrid
  each m.channels fun c => release c.buf
  upd fun s => s.setMod fun _ => .reset
  pure grids

/-! ### The operations -/

def execMTree (s : State) : Host.Outcome State Fault Refusal :=
  runUnit (commitOrAbandon do
    let t ← decodeTree
    upd fun s => s.setMod fun m => { m with tree := some t }) s

def execMProps (ch x y : Nat) (s : State) : Host.Outcome State Fault Refusal :=
  run (do
    let l ← pixelProps ch x y
    pure (.props l)) s

def execMWalk (props : List Int) (s : State) : Host.Outcome State Fault Refusal :=
  run (do
    let l ← walkTree props
    pure (.leaf l)) s

/-- `PredictOne` takes the neighbours the properties were computed from; the property list itself is not read. -/
def execMPredict (leaf : Leaf) (_props : List Int) (s : State) : Host.Outcome State Fault Refusal :=
  run (commitOrAbandon do
    let v ← predictPixel leaf
    pure (.int v)) s

/-- M.WP at (x, y) of the channel M.PROPS named last (44_modular.md R292). -/
def execMWp (x y : Nat) (s : State) : Host.Outcome State Fault Refusal :=
  run (do
    let _ ← getWp
    let c ← getChannel s.mod.cur.1
    wpAt s.mod.cur.1 c.buf x y
    let wp ← getWp
    pure (.pair wp.pred wp.prop)) s

/-- M.WP.UPDATE (44_modular.md R296): the errors are kept by column, so the row is that of the ring. -/
def execMWpUpdate (x _y : Nat) (value : Int) (s : State) : Host.Outcome State Fault Refusal :=
  runUnit (do
    let _ ← getWp
    updateWp x value) s

def execMPalette (index pal numColors numDeltas : Nat) (predictor : Predictor) (bitDepth : Nat) (s : State) :
    Host.Outcome State Fault Refusal :=
  runUnit (undoPalette index pal numColors numDeltas predictor bitDepth) s

def execMHsqueeze (avg res w : Nat) (s : State) : Host.Outcome State Fault Refusal :=
  runUnit (undoHsqueeze avg res w) s

def execMVsqueeze (avg res h : Nat) (s : State) : Host.Outcome State Fault Refusal :=
  runUnit (undoVsqueeze avg res h) s

end Sys2Proof.Machine
end

