-- ==== Sys2Proof/Machine/Section.lean ====
section
/-! DEFINITION. The section decodes (43_group_decoder.md R242 to R245) and the combined section
(30_encoding.md R109). Inside a section bits come from its store, from bit 0 on (40_parser.md R163, R166). -/

namespace Sys2Proof.Machine

/-- Run a decode on the store of the section stored `sec`-th; its bit position ends with it (40_parser.md R163). -/
def withSection {α : Type} (sec : Nat) (body : Op α) : Op α := do
  let s ← getState
  let x ← present s.par.sect[sec]? .sect
  upd fun s => s.setPar fun p => { p with reader := some { bytes := x.bytes, pos := 0 } }
  let a ← body
  upd fun s => s.setPar fun p => { p with reader := none }
  pure a

/-- The stream id of a Modular scope, the "group or stream id" of 44_modular.md R287: which number it is is not in the
source; the logical index its section has, or would have beside the other parts of a combined section (DESIGN CHOICE,
notes/assumptions/51.md). -/
def streamOf (fh : FrameHeader) (m : ModPlace) : Nat :=
  match m with
  | .global => 0
  | .lf g => 1 + g
  | .hf g p => 2 + fh.lfGroups.length + p * fh.groups.length + g

/-! ### S.LFGLOBAL (43_group_decoder.md R242) -/

/-- The number of columns and rows of samples that hold the frame and every block of its groups and LF groups, whose
geometry is open (40_parser.md R143; notes/assumptions/16.md). -/
def frameExtent (fh : FrameHeader) : Nat × Nat :=
  (fh.groups ++ fh.lfGroups).foldl
    (fun e r => (max e.1 (r.x0 + alignUp8 r.w), max e.2 (r.y0 + alignUp8 r.h))) (alignUp8 fh.width, alignUp8 fh.height)

/-- The planes of the frame: in VarDCT X, Y and B, whose tiles are whole blocks, then the planes the image needs
(notes/assumptions/16.md). -/
def planeShapes (p : Params) (ih : ImageHeader) (fh : FrameHeader) : List (Nat × Nat × SampleType) :=
  (match fh.encoding with
   | .varDct => List.replicate 3 ((frameExtent fh).1, (frameExtent fh).2, SampleType.float)
   | .modular => []) ++ Cfg.framePlanes p ih fh

/-- The other buffers of a VarDCT frame: coefficient planes, dequantised planes, LF planes, the three block maps and
the two tile maps (43_group_decoder.md R241, 47_image_buffer.md R390). -/
def sideShapes (p : Params) (fh : FrameHeader) : List (Nat × Nat × SampleType) :=
  let w := (frameExtent fh).1
  let h := (frameExtent fh).2
  let n := Cfg.tileBlocks p
  List.replicate 3 (w, h, SampleType.int) ++ List.replicate 3 (w, h, SampleType.float) ++
    List.replicate 3 (w / 8, h / 8, SampleType.int) ++ List.replicate 3 (w / 8, h / 8, SampleType.nat) ++
    List.replicate 2 ((w / 8 + n - 1) / n, (h / 8 + n - 1) / n, SampleType.int)

/-- The buffers of a VarDCT frame from 14 handles. -/
def Side.ofHandles (l : List Nat) : Side :=
  { coeff := l.take 3, deq := (l.drop 3).take 3, lf := (l.drop 6).take 3
    maps :=
      { transform := (l[9]?).getD 0, first := (l[10]?).getD 0, quant := (l[11]?).getD 0
        corrX := (l[12]?).getD 0, corrB := (l[13]?).getD 0 } }

/-- Allocate buffers in order. -/
def allocAll (l : List (Nat × Nat × SampleType)) : Op (List Nat) := collect l fun e => alloc e.1 e.2.1 e.2.2

/-- The buffers of a frame: its pixel planes, and in VarDCT the others, of which the coefficient planes are zero
(43_group_decoder.md R250), and the map of first blocks too: no transform covers a position yet
(notes/assumptions/29.md). -/
def frameBuffers : Op Unit := do
  let p ← getParams
  let ih ← getImageHeader
  let fh ← getFrame
  let planes ← allocAll (planeShapes p ih fh)
  upd fun s => s.setGrp fun g => { g with planes := planes }
  match fh.encoding with
  | .modular => pure ()
  | .varDct => do
    let l ← allocAll (sideShapes p fh)
    each (l.take 3) zeroFill
    zeroFill (Side.ofHandles l).maps.first
    upd fun s => s.setGrp fun g => { g with side := some (Side.ofHandles l) }

/-- The list with a stage inserted before its first Save, at the end where there is none. -/
def insertBeforeSave (st : RStage) (l : List RStage) : List RStage :=
  match l with
  | [] => [st]
  | .save c pl :: rest => st :: .save c pl :: rest
  | x :: rest => x :: insertBeforeSave st rest

/-- The stages before the first Save. -/
def beforeSave (l : List RStage) : List RStage :=
  match l with
  | [] => []
  | .save _ _ :: _ => []
  | x :: rest => x :: beforeSave rest

/-- Whether a function mixes spot colours, by whatever formula. -/
def StageFn.isSpot (f : StageFn) : Bool :=
  match f with
  | .spot _ => true
  | .named _ | .withRef _ _ | .cms | .cmsInplace | .premultiply => false

/-- Whether a stage has a function of this kind. -/
def RStage.isFn (kind : StageFn → Bool) (st : RStage) : Bool :=
  match st with
  | .inplace g _ => kind g
  | .inout g _ _ _ _ _ _ => kind g
  | .save _ _ => false
  | .extend _ _ _ _ => false

/-- Whether the stage is an InPlace stage with a function of this kind on at least the channels `set`. -/
def RStage.serves (kind : StageFn → Bool) (set : List Nat) (st : RStage) : Bool :=
  match st with
  | .inplace g on => kind g && set.all on.contains
  | .inout _ _ _ _ _ _ _ => false
  | .save _ _ => false
  | .extend _ _ _ _ => false

/-- The list with an InPlace stage of a kind of function on at least the channels `set` among the stages before its first
Save if `on`, and without any stage of this kind otherwise. Where BuildPipeline does not place such a stage, the model's,
with function `f`, stands right before that Save, on the channels `set`, and is the only one of its kind. -/
def requireStage (kind : StageFn → Bool) (f : StageFn) (on : Bool) (set : List Nat) (l : List RStage) : List RStage :=
  if on then
    if (beforeSave l).any (RStage.serves kind set) then l
    else insertBeforeSave (.inplace f set) (l.filter fun st => !RStage.isFn kind st)
  else l.filter fun st => !RStage.isFn kind st

/-- The colour channels of a pipeline of `planes` channels: those before the image's extra channels. -/
def colourChannels (ih : ImageHeader) (planes : Nat) : List Nat := List.range (planes - ih.extra.length)

/-- The channels that a stage mixing the spot colours reads and writes: the colour channels and the spot-colour ones
(46_render_pipeline.md R372). -/
def spotSet (p : Params) (ih : ImageHeader) (planes : Nat) : List Nat :=
  colourChannels ih planes ++ ih.extra.zipIdx.filterMap fun e =>
    if Cfg.isSpot p e.1 then some (planes - ih.extra.length + e.2) else none

/-- The stages of the frame, of `planes` channels: what BuildPipeline gives, with what the options require of it. The
colour-management stages are in the list only if OPT.CMS is present (46_render_pipeline.md R373); the one that mixes
spot colours, by a formula that is BuildPipeline's, if and only if OPT.RENDER_SPOT_COLORS is 1 and the image has
spot-colour channels (R372); the one that
multiplies colour by alpha if and only if OPT.PREMULTIPLY_OUTPUT is 1 (R375) and there is an alpha channel to multiply
by (notes/assumptions/50.md). Each works on all of its channels. -/
def stagesOf (p : Params) (a : PipelineInput) (planes : Nat) : List RStage :=
  requireStage (fun f => decide (f = .premultiply)) .premultiply (a.opt.premultiplyOutput && a.image.extra.any (Cfg.isAlpha p))
    (colourChannels a.image planes)
    (requireStage StageFn.isSpot (.spot (Cfg.spotFormula p a)) (a.opt.renderSpotColors && a.image.extra.any (Cfg.isSpot p))
      (spotSet p a.image planes) ((Cfg.buildPipeline p a).filter fun st =>
        a.opt.cms.isSome || !RStage.isFn (fun f => decide (f = .cms) || decide (f = .cmsInplace)) st))

/-- Build the frame's render pipeline; PASSES_READY is all zero (46_render_pipeline.md R361, 10_state.md R47). -/
def startRender : Op Unit := do
  let ih ← getImageHeader
  let fh ← getFrame
  let g ← getLfGlobal
  upd fun s => s.setRnd (some
    { stages := stagesOf s.inp.params { image := ih, frame := fh, lf := g, opt := s.ctl.opt } s.grp.planes.length
      chans := [], next := []
      ready := List.replicate fh.groups.length (List.replicate s.grp.planes.length 0)
      rendered := 0, checked := false })

/-- The optional shared tree. -/
def sharedTree : Op (Option Tree) := do
  let p ← getParams
  let flag ← parse (Cfg.sharedTreeFlag p)
  if flag then do
    let t ← decodeTree
    pure (some t)
  else pure none

/-- S.LFGLOBAL. The six members are asked for in either encoding, which their parser sees: which of them a MODULAR
frame has is not in the source (DESIGN CHOICE, notes/assumptions/52.md). -/
def lfGlobalBody : Op Unit := do
  let p ← getParams
  let fh ← getFrame
  frameBuffers
  let patches ← parse (Cfg.lfMember p fh.encoding .patches)
  let splines ← parse (Cfg.lfMember p fh.encoding .splines)
  let noise ← parse (Cfg.lfMember p fh.encoding .noise)
  let quantizer ← parse (Cfg.lfMember p fh.encoding .quantizer)
  let blockCtx ← parse (Cfg.lfMember p fh.encoding .blockCtx)
  let colorCorr ← parse (Cfg.lfMember p fh.encoding .colorCorr)
  let tree ← sharedTree
  upd fun s => s.setGrp fun g =>
    { g with
      lfGlobal := some
        { patches := patches, splines := splines, noise := noise, quantizer := quantizer, blockCtx := blockCtx
          colorCorr := colorCorr, sharedTree := tree } }
  startRender
  let _ ← decodeModular .global (streamOf fh .global)
  pure ()

/-! ### S.LFGROUP (43_group_decoder.md R243) -/

/-- Whether frame block position `b` is one of a group's block positions. -/
def Rect.holdsBlock (r : Rect) (b : Nat × Nat) : Bool :=
  decide (r.x0 / 8 ≤ b.1) && decide (b.1 < r.x0 / 8 + (r.w + 7) / 8) &&
    decide (r.y0 / 8 ≤ b.2) && decide (b.2 < r.y0 / 8 + (r.h + 7) / 8)

/-- Every position a transform covers lies inside one group and inside the LF group that gives it, and the transform
lies across the edge of no group (43_group_decoder.md R243, notes/assumptions/29.md). -/
def insideGroup (p : Params) (fh : FrameHeader) (lfGroup : Rect) (m : BlockMeta) : Bool :=
  let l := coveredPositions p m.t m.bx m.byy
  l.all lfGroup.holdsBlock && fh.groups.any (fun r => l.all r.holdsBlock) &&
    fh.groups.all fun r => l.all r.holdsBlock || !l.any r.holdsBlock

/-- The LF values and the tiles of the maps lie inside the LF group, the values in channels X, Y, B. -/
def insideLfGroup (p : Params) (lfGroup : Rect) (maps : LfMaps) : Bool :=
  maps.lf.all (fun e => decide (e.1.1 < 3) && lfGroup.holdsBlock (e.1.2.1, e.1.2.2)) &&
    maps.corr.all fun e => lfGroup.holdsBlock (e.tx * Cfg.tileBlocks p, e.ty * Cfg.tileBlocks p)

/-- Write a transform's entry at one position it covers: its first position is the first block (43_group_decoder.md
R246). No position is covered twice: the map of first blocks holds 0 where nothing covers a position, 1 at a first
block and 2 at the other positions of a transform (notes/assumptions/29.md). -/
def placeCell (hm : HfMeta) (m : BlockMeta) (b : Nat × Nat) : Op Unit := do
  let cover ← readSample hm.first b.1 b.2
  check (decide (cover = .nat 0)) .format
  writeSample hm.transform b.1 b.2 (.nat m.t)
  writeSample hm.first b.1 b.2 (.nat (if b = (m.bx, m.byy) then 1 else 2))
  writeSample hm.quant b.1 b.2 (.nat m.q)

/-- Place a transform inside a group and over no other, else Format. -/
def placeBlock (p : Params) (fh : FrameHeader) (lfGroup : Rect) (hm : HfMeta) (m : BlockMeta) : Op Unit := do
  check (insideGroup p fh lfGroup m) .format
  each (coveredPositions p m.t m.bx m.byy) (placeCell hm m)

/-- Write an LF value. -/
def placeLf (side : Side) (e : (Nat × Nat × Nat) × Int) : Op Unit := do
  let h ← channelBuffer side.lf e.1.1
  writeSample h e.1.2.1 e.1.2.2 (.int e.2)

/-- Write the colour-correlation factors of a tile. -/
def placeTile (hm : HfMeta) (e : TileFactor) : Op Unit := do
  writeSample hm.corrX e.tx e.ty (.int e.x)
  writeSample hm.corrB e.tx e.ty (.int e.b)

/-- Write an LF group's maps into the frame's LF planes and HFMETA. -/
def placeMaps (g : Nat) (maps : LfMaps) : Op Unit := do
  let p ← getParams
  let fh ← getFrame
  let r ← present fh.lfGroups[g]? .frame
  each maps.blocks fun m => check (xtype p m.t).isSome .transform
  check (insideLfGroup p r maps) .format
  let side ← getSide
  upd fun s => s.setGrp fun x => { x with hfMeta := some side.maps }
  each maps.blocks (placeBlock p fh r side.maps)
  each maps.lf (placeLf side)
  each maps.corr (placeTile side.maps)

/-- S.LFGROUP. In a MODULAR frame it carries Modular channels only (43_group_decoder.md R240). How many Modular scopes,
each with its own tree choice and tables, a section holds is not in the source (91_not_in_source.md N8, N16): it is one,
whose channels give the LF values and the HF metadata (DESIGN CHOICE, notes/assumptions/59.md). -/
def lfGroupBody (g : Nat) : Op Unit := do
  let p ← getParams
  let fh ← getFrame
  let grids ← decodeModular (.lf g) (streamOf fh (.lf g))
  match fh.encoding with
  | .modular => pure ()
  | .varDct => placeMaps g (Cfg.lfMaps p { group := g, frame := fh, channels := grids })

/-! ### S.HFGLOBAL (43_group_decoder.md R244) -/

/-- A dequant matrix is indexed as the catalog says: a known transform, one entry for each of its positions. -/
def matrixOk (p : Params) (e : (Nat × Nat) × List F32) : Bool :=
  (xtype p e.1.1).isSome && decide (e.2.length = 64 * coveredBlocks p e.1.1)

/-- A scan order is a permutation of its shape's positions. -/
def orderOk (e : OrderKey × List Nat) : Bool := isPermutation e.2 (e.1.h * e.1.w)

/-- S.HFGLOBAL. -/
def hfGlobalBody : Op Unit := do
  let p ← getParams
  let fh ← getFrame
  let dequant ← parse (Cfg.dequantMatrices p)
  check (dequant.all (matrixOk p)) .transform
  let order ← collect (List.range fh.numPasses) fun pass => do
    let o ← parse (Cfg.scanOrders p pass)
    check (o.all orderOk) .format
    scopeTables (.ac pass)
    pure o
  upd fun s => s.setGrp fun g => { g with hfGlobal := some { dequant := dequant, order := order } }

/-! ### S.HFGROUP (43_group_decoder.md R245) -/

/-- The work of a first block of type `t` (43_group_decoder.md R245). -/
def decodeFirstBlock (pass bx byy t : Nat) : Op Unit := do
  let p ← getParams
  each (Cfg.channelOrder p) fun c => do
    let pred ← predNz c bx byy
    let nz ← decodeNz c pred t
    decodeCoeffs c t nz pass
  dequantBlock bx byy t
  xformBlock bx byy t

/-- One block position of the group: nothing unless it is the first block of its transform. A position no transform
covers is malformed side data. -/
def decodeBlock (pass bx byy : Nat) : Op Unit := do
  let r ← groupRect
  let m ← getHfMeta
  let at_ := framePos r (bx, byy)
  let cover ← readSample m.first at_.1 at_.2
  check (decide (cover ≠ .nat 0)) .format
  if cover = .nat 1 then do
    let v ← readSample m.transform at_.1 at_.2
    let t ← asNat v
    decodeFirstBlock pass bx byy t
  else pure ()

/-- S.HFGROUP. In a MODULAR frame it carries Modular channels only. -/
def hfGroupBody (g pass : Nat) : Op Unit := do
  let fh ← getFrame
  match fh.encoding with
  | .modular => do
    let _ ← decodeModular (.hf g pass) (streamOf fh (.hf g pass))
    pure ()
  | .varDct => do
    upd fun s => s.setGrp fun x =>
      { x with
        hf := some
          { group := g, pass := pass, blk := (0, 0), nzMap := [], nzLeft := 0, scanPos := 0, prevNz := false } }
    scopeStart (.ac pass)
    let r ← groupRect
    let bw := (r.w + 7) / 8
    each (List.range (bw * ((r.h + 7) / 8))) fun k => decodeBlock pass (k % bw) (k / bw)
    scopeFinal (.ac pass)
    setScope (.ac pass) fun e => { e with ansState := none }
    upd fun s => s.setGrp fun x => { x with hf := none }

/-! ### The operations and the combined section -/

/-- The four decodes of a combined section, back to back; HfGlobal only in VarDCT (43_group_decoder.md R240). -/
def combinedBody : Op Unit := do
  let fh ← getFrame
  lfGlobalBody
  each (List.range fh.lfGroups.length) lfGroupBody
  match fh.encoding with
  | .varDct => hfGlobalBody
  | .modular => pure ()
  hfGroupBody 0 0

def execSLfGlobal (sec : Nat) (s : State) : Host.Outcome State Fault Refusal :=
  runUnit (withSection sec lfGlobalBody) s

def execSLfGroup (sec g : Nat) (s : State) : Host.Outcome State Fault Refusal :=
  runUnit (withSection sec (lfGroupBody g)) s

def execSHfGlobal (sec : Nat) (s : State) : Host.Outcome State Fault Refusal :=
  runUnit (withSection sec hfGlobalBody) s

def execSHfGroup (sec g p : Nat) (s : State) : Host.Outcome State Fault Refusal :=
  runUnit (withSection sec (hfGroupBody g p)) s

end Sys2Proof.Machine
end

