-- ==== Sys2Proof/Machine/Render.lean ====
section
/-! DEFINITION. The render pipeline (46_render_pipeline.md): the four stage kinds, the plane check, driving by group,
the pass outside the frame, finishing a frame. The channel buffers of RENDER state hold the frame between stages; a
stage names its channels by number. -/

namespace Sys2Proof.Machine

/-- Change RENDER state. -/
def setRender (f : Render → Render) : Op Unit := upd fun s => s.setRnd (s.rnd.map f)

/-- The buffers of a stage's channels. -/
def stageBuffers (set : List Nat) : Op (List Nat) := do
  let r ← getRender
  collect set fun c => present r.chans[c]? .buffer

/-- Width and height of the first of a list of buffers; 0 by 0 of none. The channels of a stage have one size. -/
def bufferSize (l : List Nat) : Op (Nat × Nat) :=
  match l with
  | [] => pure (0, 0)
  | h :: _ => do
    let b ← getBuf h
    pure (b.width, b.height)

/-- The channel list with new buffers for some channels. -/
def swapChannels (chans : List Nat) (next : List (Nat × Nat)) : List Nat :=
  match next with
  | [] => chans
  | e :: rest => swapChannels (chans.set e.1 e.2) rest

/-- The output of an InOut or Extend stage replaces its channels' buffers, which go to POOL. -/
def nextChannels : Op Unit := do
  let r ← getRender
  each (r.next.filterMap fun e => r.chans[e.1]?) release
  setRender fun r => { r with chans := swapChannels r.chans r.next, next := [] }

/-- The output buffers of the stage in progress: one for each of its channels, allocated at its first row. -/
def outputBuffers (set : List Nat) (w h : Nat) : Op (List Nat) := do
  let r ← getRender
  if r.next.isEmpty then do
    let ins ← stageBuffers set
    let outs ← collect ins fun b => do
      let x ← getBuf b
      alloc w h x.ty
    setRender fun r => { r with next := set.zip outs }
    pure outs
  else pure (r.next.map Prod.snd)

/-- The rows of a buffer. -/
def readRows (h : Nat) : Op (List (List Sample)) := do
  let b ← getBuf h
  collect (List.range b.height) fun y => readRow h y 0 b.width

/-- What a stage function sees of the reference frames: the planes of the slot it names, row by row. An absent slot is
malformed (70_reset_and_hazards.md R464). -/
def stageRefs (f : StageFn) : Op (List (List (List Sample))) :=
  match f with
  | .withRef _ slot => do
    let s ← getState
    match assocGet s.img.refs slot with
    | none => raise .format
    | some planes => collect planes readRows
  | .named _ => pure []
  | .cms => pure []
  | .cmsInplace => pure []
  | .spot _ => pure []
  | .premultiply => pure []

/-! ### R.INPLACE (46_render_pipeline.md R362) -/

/-- Interleave rows of equal length: sample 0 of each, then sample 1 of each. -/
def interleave {α : Type} (n : Nat) (rows : List (List α)) : List α :=
  (List.range n).flatMap fun i => rows.filterMap fun r => r[i]?

/-- The number of colour channels: the channels before the image's extra channels. -/
def colourCount : Op Nat := do
  let ih ← getImageHeader
  let r ← getRender
  pure (r.chans.length - ih.extra.length)

/-- A colour-management stage on a row segment: interleave the colour channels of the stage, ask HOST, de-interleave.
The output has as many channels as the input, and a channel of another type is converted, for R.GROUP raises no
Transform (46_render_pipeline.md R368, R373, R374; DESIGN CHOICE, notes/assumptions/39.md). -/
def cmsRow (set : List Nat) (y x0 n : Nat) : Op Unit := do
  let k ← colourCount
  let hs ← stageBuffers (set.filter fun c => decide (c < k))
  let p ← getParams
  let rows ← collect hs fun h => do
    let vs ← readRow h y x0 n
    pure (vs.map (Cfg.toFloat p))
  let m := hs.length
  let out ← askCms (n * m) (interleave n rows)
  each hs.zipIdx fun e => do
    let b ← getBuf e.1
    writeRow e.1 y x0 ((List.range n).map fun i => Cfg.fromFloat p b.ty ((out[i * m + e.2]?).getD 0))

/-- The image's first alpha channel, by number of channel, in a pipeline of `planes` channels. -/
def firstAlpha (p : Params) (ih : ImageHeader) (planes : Nat) : Option Nat :=
  (ih.extra.findIdx? (Cfg.isAlpha p)).map fun i => planes - ih.extra.length + i

/-- The alpha channel of the pipeline. -/
def alphaChannel : Op (Option Nat) := do
  let ih ← getImageHeader
  let p ← getParams
  let r ← getRender
  pure (firstAlpha p ih r.chans.length)

/-- The stage that multiplies the colour channels by the alpha channel (46_render_pipeline.md R375). -/
def premultiplyRow (set : List Nat) (y x0 n : Nat) : Op Unit := do
  let a ← alphaChannel
  match a with
  | none => pure ()
  | some a => do
    let k ← colourCount
    let ah ← stageBuffers [a]
    let alpha ← collect ah fun h => readRow h y x0 n
    let hs ← stageBuffers (set.filter fun c => decide (c < k))
    let p ← getParams
    each hs fun h => do
      let vs ← readRow h y x0 n
      writeRow h y x0 (List.zipWith (Cfg.premultiplied p) vs alpha.flatten)

/-- A stage with an open function on a row segment: every channel's new samples, from the old segments of all of the
stage's channels. -/
def fnRow (f : StageFn) (set : List Nat) (y x0 n : Nat) : Op Unit := do
  let hs ← stageBuffers set
  let segs ← collect hs fun h => readRow h y x0 n
  let ref ← stageRefs f
  let p ← getParams
  each (set.zip hs) fun e => do
    let b ← getBuf e.2
    writeRow e.2 y x0 ((List.range n).map fun i =>
      Cfg.inplaceFn p b.ty { f := f, channel := e.1, x := x0 + i, y := y, x0 := x0, segs := segs, ref := ref })

/-- R.INPLACE on columns x0 to x0 + n - 1 of row `y` of the stage's channels. -/
def inplaceRow (f : StageFn) (set : List Nat) (y x0 n : Nat) : Op Unit :=
  match f with
  | .cms => cmsRow set y x0 n
  | .cmsInplace => cmsRow set y x0 n
  | .premultiply => premultiplyRow set y x0 n
  | .named _ => fnRow f set y x0 n
  | .withRef _ _ => fnRow f set y x0 n
  | .spot _ => fnRow f set y x0 n

/-! ### R.INOUT (46_render_pipeline.md R363, R364) -/

/-- The first input position and the number of input positions an output position sees in one direction: its own and
the border, scaled down by an upsampling shift and up by a downsampling one. -/
def reach (border shift : Nat) (up : Bool) (pos : Nat) : Int × Nat :=
  if up then ((pos / 2 ^ shift : Nat) - (border : Int), 2 * border + 1)
  else ((pos * 2 ^ shift : Nat) - (border : Int), 2 ^ shift + 2 * border)

/-- Whether a position is one of those. -/
def within (r : Int × Nat) (pos : Nat) : Bool := decide (r.1 ≤ (pos : Int)) && decide ((pos : Int) < r.1 + r.2)

/-- Whether the output position `out` sees the input position `pos`, of `size` ones: one within the border; every one
where the border reaches past the edge, since what lies beyond comes from the stage's own edge rule, which is part of
its function of the whole image (46_render_pipeline.md R364). -/
def visible (border shift : Nat) (up : Bool) (size out pos : Nat) : Bool :=
  let r := reach border shift up out
  if 0 ≤ r.1 ∧ r.1 + r.2 ≤ size then within r pos else true

/-- The output size of a size. -/
def scaled (shift : Nat) (up : Bool) (n : Nat) : Nat :=
  if up then n * 2 ^ shift else (n + 2 ^ shift - 1) / 2 ^ shift

/-- A sample an output position sees; the others are blank. -/
def sampleIf (c : Bool) (h x y : Nat) : Op (Option Sample) :=
  if c then do
    let v ← readSample h x y
    pure (some v)
  else pure none

/-- The whole input image of a stage as the output sample (ox, oy) sees it: all rows and columns of the stage's channels,
blank where it does not see them. -/
def imageFor (hs : List Nat) (bx byy sx sy : Nat) (up : Bool) (ox oy : Nat) :
    Op (List (List (List (Option Sample)))) :=
  collect hs fun h => do
    let b ← getBuf h
    collect (List.range b.height) fun y =>
      collect (List.range b.width) fun x =>
        sampleIf (visible bx sx up b.width ox x && visible byy sy up b.height oy y) h x y

/-- One output sample of every channel of the stage. -/
def inoutSample (f : StageFn) (set : List Nat) (bx byy sx sy : Nat) (up : Bool)
    (ref : List (List (List Sample))) (ins outs : List Nat) (x y : Nat) : Op Unit := do
  let p ← getParams
  let image ← imageFor ins bx byy sx sy up x y
  each (set.zip outs) fun e => do
    let b ← getBuf e.2
    writeSample e.2 x y (Cfg.inoutFn p b.ty { f := f, channel := e.1, x := x, y := y, image := image, ref := ref })

/-- The output positions of input positions x0 to x0 + n - 1: of an upsampling stage `x0 shl s` to
`((x0 + n) shl s) - 1`. A downsampling stage "has the inverse relation": its operand names output positions
(notes/assumptions/34.md). -/
def outputRange (shift : Nat) (up : Bool) (x0 n : Nat) : List Nat :=
  if up then (List.range (n * 2 ^ shift)).map fun i => x0 * 2 ^ shift + i else (List.range n).map fun i => x0 + i

/-- The output rows and columns of a part of the image. -/
def inoutPart (f : StageFn) (set : List Nat) (bx byy sx sy : Nat) (up : Bool) (rows columns : List Nat) : Op Unit := do
  let ins ← stageBuffers set
  let size ← bufferSize ins
  let outs ← outputBuffers set (scaled sx up size.1) (scaled sy up size.2)
  let ref ← stageRefs f
  each rows fun y => each columns fun x => inoutSample f set bx byy sx sy up ref ins outs x y

/-- R.INOUT on row `y`, columns x0 to x0 + n - 1. After the last column of the last row the output replaces the
channels. -/
def inoutRow (f : StageFn) (set : List Nat) (bx byy sx sy : Nat) (up : Bool) (y x0 n : Nat) : Op Unit := do
  let ins ← stageBuffers set
  let size ← bufferSize ins
  inoutPart f set bx byy sx sy up (outputRange sy up y 1) (outputRange sx up x0 n)
  let last := if up then size else (scaled sx up size.1, scaled sy up size.2)
  if y + 1 = last.2 ∧ x0 + n = last.1 then nextChannels else pure ()

/-! ### R.SAVE (46_render_pipeline.md R365, R366) -/

/-- Whether a supplied plane is large enough for the expected one. -/
def planeOk (e : Plane × Nat × Nat) : Bool :=
  decide (e.2.1 ≤ e.1.rowBytes) && decide (e.2.2 ≤ e.1.rows) && decide (e.1.rowBytes ≤ e.1.strideBytes)

/-- Whether the supplied planes match the expected ones. -/
def planesMatch (out : List Plane) (expected : List (Nat × Nat)) : Bool :=
  decide (out.length = expected.length) && (out.zip expected).all planeOk

/-- The header `ExpectedPlanes` is applied to: the image header, for the preview frame with the preview's size
(46_render_pipeline.md R365, 91_not_in_source.md N17). -/
def planesHeader (preview : Bool) (h : ImageHeader) : ImageHeader :=
  match h.preview with
  | some size => if preview then { h with width := size.1, height := size.2 } else h
  | none => h

/-- The plane check before the first R.SAVE of a frame (46_render_pipeline.md R365). -/
def checkPlanes (out : List Plane) : Op Unit := do
  let r ← getRender
  if r.checked then pure ()
  else do
    let ih ← getImageHeader
    let s ← getState
    check (planesMatch out (Cfg.expectedPlanes s.inp.params (planesHeader s.ctl.fPreview ih)
      s.ctl.opt.pixelFormat)) .resourceLimit
    setRender fun r => { r with checked := true }

/-- The low `n` bytes of a natural, least significant first. -/
def bytesLe (n v : Nat) : List Byte :=
  match n with
  | 0 => []
  | k + 1 => BitVec.ofNat 8 v :: bytesLe k (v / 256)

/-- The bytes of an output sample in the chosen order (20_memory.md R72). -/
def sampleBytesOut (e : Endian) (n v : Nat) : List Byte :=
  match e with
  | .little => bytesLe n v
  | .big => (bytesLe n v).reverse

/-- Write one output sample, only inside `[0, rows) × [0, row_bytes)` of its plane (46_render_pipeline.md R366). -/
def putOut (pl : Plane) (y off : Nat) (bs : List Byte) : Op Unit :=
  if y < pl.rows ∧ off + bs.length ≤ pl.rowBytes then
    upd fun s => s.setHost fun h => { h with outMem := h.outMem.writeList (pl.base + y * pl.strideBytes + off) bs }
  else pure ()

/-- R.SAVE of columns x0 to x0 + n - 1 of row `y` of a channel; nothing when output buffers are absent. -/
def saveRow (channel plane y x0 n : Nat) : Op Unit := do
  let s ← getState
  match s.ctl.out with
  | none => pure ()
  | some out => do
    checkPlanes out
    let r ← getRender
    let ih ← getImageHeader
    let h ← present r.chans[channel]? .buffer
    match out[plane]? with
    | none => raise .resourceLimit
    | some pl => do
      let vs ← readRow h y x0 n
      let p ← getParams
      let f := Cfg.outputFormat p ih s.ctl.opt.pixelFormat
      each vs.zipIdx fun e =>
        let c := Cfg.convert p e.1 f.sampleType ih.bitDepth
        putOut pl y (Cfg.pixelOffset p (x0 + e.2) channel f.layout) (sampleBytesOut f.endian c.1 c.2)

/-! ### R.EXTEND (46_render_pipeline.md R367) -/

/-- The samples of a canvas row: the frame's row at its place, `Padding` elsewhere. -/
def canvasRow (cw : Nat) (x0 : Int) (row : List Sample) (pad : Nat → Sample) : List Sample :=
  (List.range cw).map fun (x : Nat) =>
    if x0 ≤ (x : Int) then (row[((x : Int) - x0).toNat]?).getD (pad x) else pad x

/-- `Padding` of a canvas row of a channel, by column. -/
def padOf (p : Params) (ty : SampleType) (pad : StageFn) (ref : List (List (List Sample))) (c y x : Nat) : Sample :=
  Cfg.padding p ty { f := pad, channel := c, y := y, x := x, ref := ref }

/-- The canvas row of a frame row, if there is one: the rectangle has this row, and it lies on the canvas. -/
def landing (rect : Place) (ch y : Nat) : Option Nat :=
  let t := rect.y0 + y
  if y < rect.h ∧ 0 ≤ t ∧ t < ch then some t.toNat else none

/-- Frame row `y` of a channel, columns 0 to fw - 1, where `fw` is the rectangle's width. A channel that is wider has more
samples than the frame, and one that is narrower or has no such row has none there: `Padding` comes in their place
(DESIGN CHOICE, notes/assumptions/62.md). -/
def frameRow (h y fw : Nat) : Op (List Sample) := do
  let b ← getBuf h
  if y < b.height then readRow h y 0 (min b.width fw) else pure []

/-- Frame row `y` of every channel onto its canvas row; a row outside the canvas is dropped. -/
def extendPart (pad : StageFn) (rect : Place) (cw ch y : Nat) : Op Unit := do
  let r ← getRender
  let outs ← outputBuffers (List.range r.chans.length) cw ch
  let ref ← stageRefs pad
  let p ← getParams
  match landing rect ch y with
  | none => pure ()
  | some t =>
    each (r.chans.zip outs).zipIdx fun e => do
      let b ← getBuf e.1.1
      let row ← frameRow e.1.1 y rect.w
      writeRow e.1.2 t 0 (canvasRow cw rect.x0 row (padOf p b.ty pad ref e.2 t))

/-- R.EXTEND of frame row `y`. After the rectangle's last row the canvas replaces the channels. -/
def extendRow (pad : StageFn) (rect : Place) (cw ch y : Nat) : Op Unit := do
  extendPart pad rect cw ch y
  if y + 1 = rect.h then nextChannels else pure ()

/-! ### The stages in list order (46_render_pipeline.md R364, R368, R371) -/

/-- Whether the frame's rectangle does not meet a canvas row. -/
def beyond (rect : Place) (y : Nat) : Bool := decide ((y : Int) < rect.y0) || decide (rect.y0 + rect.h ≤ y)

/-- The canvas rows the frame's rectangle does not meet. -/
def outsideRows (ch : Nat) (rect : Place) : List Nat := (List.range ch).filter (beyond rect)

/-- `Padding` on whole rows of every channel. -/
def padRows (pad : StageFn) (cw : Nat) (rows : List Nat) : Op Unit := do
  let r ← getRender
  let ref ← stageRefs pad
  let p ← getParams
  each rows fun y => each r.chans.zipIdx fun e => do
    let b ← getBuf e.1
    writeRow e.1 y 0 ((List.range cw).map (padOf p b.ty pad ref e.2 y))

/-- The entry of the first of a stage's channels; `d` of none. -/
def firstOf {α : Type} (d : α) (l : List α) (set : List Nat) : α :=
  match set with
  | [] => d
  | c :: _ => (l[c]?).getD d

/-- A list per channel with the entries of some channels changed. -/
def setEach {α : Type} (l : List α) (set : List Nat) (f : α → α) : List α :=
  match set with
  | [] => l
  | c :: rest => setEach (l.modify c f) rest f

/-- Of `h` rows, those listed for one of the channels `set`, in increasing order. -/
def listedRows (rows : List (List Nat)) (set : List Nat) (h : Nat) : List Nat :=
  (List.range h).filter fun y => set.any fun c => ((rows[c]?).getD []).contains y

/-- All rows of channels of these heights. -/
def allRows (heights : List Nat) : List (List Nat) := heights.map List.range

/-- The channels that an InPlace stage reads: its own, and the alpha channel if it multiplies by it. -/
def readsOf (alpha : Option Nat) (f : StageFn) (set : List Nat) : List Nat :=
  if f = .premultiply then set ++ alpha.toList else set

/-- The output rows of an InOut stage that its input rows `rows`, of an image of `h` rows, have a part in. -/
def outputRows (shift : Nat) (up : Bool) (h : Nat) (rows : List Nat) : List Nat :=
  if up then rows.flatMap fun y => outputRange shift true y 1
  else (List.range (scaled shift false h)).filter fun o => rows.any fun y => decide (y / 2 ^ shift = o)

/-- The heights of the channels after a stage. -/
def heightsAfter (heights : List Nat) (st : RStage) : List Nat :=
  match st with
  | .inplace _ _ => heights
  | .inout _ set _ _ _ sy up => setEach heights set fun _ => scaled sy up (firstOf 0 heights set)
  | .save _ _ => heights
  | .extend _ _ _ ch => heights.map fun _ => ch

/-- What becomes of rows, given per channel, in a stage. -/
def rowsAfter (heights : List Nat) (rows : List (List Nat)) (st : RStage) : List (List Nat) :=
  match st with
  | .inplace _ _ => rows
  | .inout _ set _ _ _ sy up =>
    let h := firstOf 0 heights set
    setEach rows set fun _ => outputRows sy up h (listedRows rows set h)
  | .save _ _ => rows
  | .extend _ rect _ ch => rows.map fun l => l.filterMap (landing rect ch)

/-- The rows a stage needs before it to give the rows `need` after it: an InOut stage every row that an output row sees,
an Extend stage the frame rows that land there. -/
def rowsBefore (alpha : Option Nat) (heights : List Nat) (need : List (List Nat)) (st : RStage) : List (List Nat) :=
  match st with
  | .inplace f set =>
    setEach need (readsOf alpha f set) fun l => l ++ listedRows need set (firstOf 0 heights set)
  | .inout _ set _ byy _ sy up =>
    let h := firstOf 0 heights set
    let out := listedRows need set (scaled sy up h)
    setEach need set fun _ => (List.range h).filter fun y => out.any fun o => visible byy sy up h o y
  | .save _ _ => need
  | .extend _ rect _ ch =>
    let out := listedRows need (List.range heights.length) ch
    heights.map fun h => (List.range h).filter fun y => ((landing rect ch y).map out.contains).getD false

/-- The rows that must stand before a list of stages for the rows `rows` to come out of it and be saved on the way. -/
def rowsNeeded (alpha : Option Nat) (heights : List Nat) (rows : List (List Nat)) (l : List RStage) :
    List (List Nat) :=
  match l with
  | [] => rows
  | st :: rest =>
    List.zipWith (fun a b => a ++ b) rows
      (rowsBefore alpha heights (rowsNeeded alpha (heightsAfter heights st) (rowsAfter heights rows st) rest) st)

/-- One stage's work: the heights of its channels, the rows it gives and, of a Save stage, the rows it saves, per
channel. -/
structure StageRun where
  stage : RStage
  heights : List Nat
  gives : List (List Nat)
  saves : List (List Nat)
  deriving DecidableEq, Repr

/-- The work on the whole image: all rows at every stage (46_render_pipeline.md R364, R377). -/
def wholeImage (heights : List Nat) (l : List RStage) : List StageRun :=
  match l with
  | [] => []
  | st :: rest =>
    { stage := st, heights := heights, gives := allRows (heightsAfter heights st), saves := allRows heights } ::
      wholeImage (heightsAfter heights st) rest

/-- The work on some rows, given per channel: every stage gives what becomes of these rows in it, and the rows of which
a later stage needs the samples to give its own; the rows saved are those and no others. -/
def someRows (alpha : Option Nat) (heights : List Nat) (rows : List (List Nat)) (l : List RStage) : List StageRun :=
  match l with
  | [] => []
  | st :: rest =>
    let after := rowsAfter heights rows st
    let next := heightsAfter heights st
    { stage := st, heights := heights, gives := rowsNeeded alpha next after rest, saves := rows } ::
      someRows alpha next after rest

/-- Run one stage on its rows. An Extend stage gives the canvas rows that the frame meets, and those it does not meet from
`Padding` (R371). Colour management gets one whole image row in a transaction: how many samples it gets at once is not in
the source (91_not_in_source.md N15; DESIGN CHOICE, notes/assumptions/39.md). -/
def runStage (r : StageRun) : Op Unit :=
  match r.stage with
  | .inplace f set => do
    let hs ← stageBuffers set
    let size ← bufferSize hs
    each (listedRows r.gives set (firstOf 0 r.heights set)) fun y => inplaceRow f set y 0 size.1
  | .inout f set bx byy sx sy up => do
    let hs ← stageBuffers set
    let size ← bufferSize hs
    inoutPart f set bx byy sx sy up (listedRows r.gives set (scaled sy up (firstOf 0 r.heights set)))
      (List.range (scaled sx up size.1))
    nextChannels
  | .save channel plane => do
    let hs ← stageBuffers [channel]
    let size ← bufferSize hs
    each (listedRows r.saves [channel] (firstOf 0 r.heights [channel])) fun y => saveRow channel plane y 0 size.1
  | .extend pad rect cw ch => do
    let all := List.range r.heights.length
    let out := listedRows r.gives all ch
    let _ ← outputBuffers all cw ch
    each ((List.range rect.h).filter fun y => ((landing rect ch y).map out.contains).getD false)
      fun y => extendPart pad rect cw ch y
    nextChannels
    padRows pad cw (out.filter (beyond rect))

/-- The heights of the pipeline's channels. -/
def channelHeights : Op (List Nat) := do
  let r ← getRender
  collect r.chans fun h => do
    let b ← getBuf h
    pure b.height

/-- The stages after the first Extend. -/
def afterExtend (l : List RStage) : List RStage :=
  match l with
  | [] => []
  | .extend _ _ _ _ :: rest => rest
  | .inplace _ _ :: rest => afterExtend rest
  | .inout _ _ _ _ _ _ _ :: rest => afterExtend rest
  | .save _ _ :: rest => afterExtend rest

/-- R.OUTSIDE: `Padding` on the canvas rows outside the rectangle, all columns, then the stages after Extend on those
rows (46_render_pipeline.md R371). -/
def outside (pad : StageFn) (cw ch : Nat) (rect : Place) : Op Unit := do
  let r ← getRender
  let rows := outsideRows ch rect
  padRows pad cw rows
  let s ← getState
  let alpha := s.par.imageHeader.bind fun ih => firstAlpha s.inp.params ih r.chans.length
  let heights ← channelHeights
  each (someRows alpha heights (List.replicate r.chans.length rows) (afterExtend r.stages)) runStage

/-! ### Driving (46_render_pipeline.md R368 to R370) -/

/-- The part of a plane that belongs to the frame: VarDCT planes are whole blocks. -/
def planeSize (fh : FrameHeader) (b : Buffer) : Nat × Nat := (min b.width fh.width, min b.height fh.height)

/-- A fresh channel buffer with the samples of a plane, cut to the frame's size. -/
def copyPlane (fh : FrameHeader) (plane : Nat) : Op Nat := do
  let b ← getBuf plane
  let size := planeSize fh b
  let c ← alloc size.1 size.2 b.ty
  each (List.range size.2) fun y => do
    let row ← readRow plane y 0 size.1
    writeRow c y 0 row
  pure c

/-- Render the whole frame from its planes: every stage applied to the whole image (46_render_pipeline.md R364, R377,
notes/assumptions/17.md). -/
def renderFrame : Op Unit := do
  let fh ← getFrame
  let r ← getRender
  each r.chans release
  each (r.next.map Prod.snd) release
  let s ← getState
  let chans ← collect s.grp.planes (copyPlane fh)
  setRender fun r => { r with chans := chans, next := [] }
  let heights ← channelHeights
  each (wholeImage heights r.stages) runStage

/-- Whether every sample of a plane that belongs to the frame has been written. -/
def planeWritten (s : State) (fh : FrameHeader) (plane : Nat) : Bool :=
  match assocGet s.img.bufs plane with
  | none => false
  | some b =>
    let size := planeSize fh b
    (List.range size.2).all fun y => (List.range size.1).all fun x =>
      (storeRead b.samples (y * b.width + x)).isSome

/-- The number of passes of a group whose sections are DECODED. -/
def passesDecoded (s : State) (g : Nat) : Nat :=
  (s.par.sect.filter fun x => decide (x.state = .decoded) &&
    (match x.kind with
     | .hf g' _ => decide (g' = g)
     | .combined => true
     | .lfGlobal => false
     | .lf _ => false
     | .hfGlobal => false)).length

/-- The passes every group has, when all have the same number. -/
def commonPasses (ready : List (List Nat)) : Option Nat :=
  match ready with
  | (n :: _) :: rest => if rest.all fun l => decide (l.head? = some n) then some n else none
  | _ => none

/-- R.GROUP: PASSES_READY of the group, and the whole frame once every group has one more pass and every sample of the
planes is there (46_render_pipeline.md R368, R369). -/
def renderGroup (g : Nat) : Op Unit := do
  let s ← getState
  let fh ← getFrame
  let _ ← getRender
  setRender fun r =>
    { r with ready := r.ready.set g (((r.ready[g]?).getD []).map fun _ => passesDecoded s g) }
  let r ← getRender
  match commonPasses r.ready with
  | none => pure ()
  | some n =>
    if r.rendered < n ∧ s.grp.planes.all (planeWritten s fh) then do
      renderFrame
      setRender fun r => { r with rendered := n }
    else pure ()

/-- Finish the frame's pipeline: render what is not rendered with all passes, the canvas outside the frame with it; drop
the stage list (46_render_pipeline.md R370). The answer is the pipeline's last buffers, one per channel. -/
def finishRender : Op (List Nat) := do
  let r ← getRender
  let fh ← getFrame
  if r.rendered < fh.numPasses ∨ fh.numPasses = 0 then renderFrame else pure ()
  let r ← getRender
  each (r.next.map Prod.snd) release
  upd fun s => s.setRnd none
  pure r.chans

/-! ### The operations -/

def execRInplace (f : StageOn) (y x0 x1 : Nat) (s : State) : Host.Outcome State Fault Refusal :=
  runUnit (inplaceRow f.fn f.channels y x0 (x1 + 1 - x0)) s

def execRInout (f : StageOn) (borderX borderY shiftX shiftY : Nat) (up : Bool) (part : RowPart) (s : State) :
    Host.Outcome State Fault Refusal :=
  runUnit (inoutRow f.fn f.channels borderX borderY shiftX shiftY up part.y part.x0 (part.x1 + 1 - part.x0)) s

def execRSave (channel plane y x0 x1 : Nat) (s : State) : Host.Outcome State Fault Refusal :=
  runUnit (saveRow channel plane y x0 (x1 + 1 - x0)) s

def execRExtend (rect : Placing) (canvasW canvasH y : Nat) (s : State) : Host.Outcome State Fault Refusal :=
  runUnit (extendRow rect.pad rect.rect canvasW canvasH y) s

def execRGroup (g : Nat) (s : State) : Host.Outcome State Fault Refusal :=
  runUnit (renderGroup g) s

def execROutside (canvasW canvasH : Nat) (rect : Placing) (s : State) : Host.Outcome State Fault Refusal :=
  runUnit (outside rect.pad canvasW canvasH rect.rect) s

end Sys2Proof.Machine
end

