-- ==== Sys2Proof/Machine/Parser.lean ====
section
/-! DEFINITION. The parser's phase steps (40_parser.md R142 to R172) and step selection. -/

namespace Sys2Proof.Machine

/-- Set PHASE. -/
def setPhase (ph : Phase) : Op Unit := upd fun s => s.setCtl fun c => { c with phase := ph }

/-! ### Headers -/

/-- A header without its colour profile bytes (40_parser.md R144). -/
def ImageHeader.withoutProfile (h : ImageHeader) : ImageHeader :=
  match h.color with
  | .simple _ => h
  | .icc _ => { h with color := .icc [] }

/-- P.FILE_HEADER (40_parser.md R144). -/
def fileHeader : Op OpValue := do
  let p ← getParams
  let r ← ask (Cfg.parseFileHeader p)
  let s ← getState
  check (decide (r.1.width * r.1.height ≤ s.ctl.opt.pixelLimit)) .resourceLimit
  upd fun s => s.setPar fun x => { x with imageHeader := some r.1.withoutProfile }
  setBitpos (s.ctl.bitpos + r.2)
  setPhase .needColorProfile
  pure .none

/-- The colour profile of an embedded-ICC header; a simple encoding has nothing to read (40_parser.md R145). -/
def readProfile (h : ImageHeader) : Op Unit :=
  match h.color with
  | .simple _ => pure ()
  | .icc _ => do
    let p ← getParams
    let r ← ask (Cfg.parseColorProfile p h)
    let s ← getState
    upd fun s => s.setPar fun x => { x with imageHeader := some { h with color := .icc r.1 } }
    setBitpos (s.ctl.bitpos + r.2)

/-- P.COLOR_PROFILE, with IMAGE_INFO at its end (40_parser.md R145, R146). -/
def colorProfile : Op OpValue := do
  let h ← getImageHeader
  readProfile h
  setPhase .needFrameHeaderToc
  upd fun s => s.setCtl fun c => { c with infoValid := true }
  yieldEvent .imageInfo

/-- P.FRAME_HEADER (40_parser.md R147 to R149). -/
def frameHeader : Op OpValue := do
  let p ← getParams
  let h ← getImageHeader
  let r ← ask (Cfg.parseFrameHeader p h)
  let s ← getState
  check (decide (r.1.width * r.1.height ≤ s.ctl.opt.pixelLimit)) .resourceLimit
  upd fun s => (s.setPar fun x => { x with frame := some r.1 }).setCtl fun c => c.latchFrame r.1
  setBitpos (s.ctl.bitpos + r.2)
  pure .none

/-- The permutation is absent or a permutation of `0 .. m-1` (40_parser.md R156). -/
def permOk (perm : Option (List Nat)) (m : Nat) : Bool :=
  match perm with
  | none => true
  | some l => isPermutation l m

/-- P.TOC (40_parser.md R156 to R159): BITPOS goes to the next byte boundary, SECT is built, and in MODE = SKIP
SKIP_LEFT is set (R167). -/
def toc : Op OpValue := do
  let p ← getParams
  let fh ← getFrame
  let r ← ask (Cfg.parseToc p fh)
  let s ← getState
  check (decide (r.1.len.length = numSections fh)) .format
  check (permOk r.1.perm r.1.len.length) .format
  let start := alignUp8 (s.ctl.bitpos + r.2)
  upd fun s => s.setPar fun x =>
    { x with
      toc := some { len := r.1.len, perm := r.1.perm, base := start / 8 }
      sect := buildSections fh r.1.perm 0 (start / 8) r.1.len
      skipLeft := if s.ctl.mode = .skip then r.1.len.sum else 0 }
  setBitpos start
  setPhase .awaitingSections
  pure .none

/-! ### Sections -/

/-- The section that bytes go to: the smallest stored index that is not fully ready (40_parser.md R160). -/
def fillingSection (l : List Section) : Option (Nat × Section) := findSection (fun x => !x.full) 0 l

/-- P.BUFFER (40_parser.md R160). -/
def buffer : Op OpValue := do
  let sect ← getSect
  match fillingSection sect with
  | none => pure .none
  | some (i, x) => do
    let at_ := x.start + x.ready
    let s ← getState
    if s.par.stage.have at_ = 0 then fill 1 else pure ()
    let s ← getState
    let got := (s.par.stage.bytesFrom at_).take (x.total - x.ready)
    upd fun s => s.setPar fun q =>
      { q with sect := q.sect.set i { x with bytes := x.bytes ++ got, ready := x.ready + got.length } }
    setBitpos (8 * (at_ + got.length))
    pure .none

/-- The decode a section's kind selects, and the group it completes new data for (40_parser.md R164). In a MODULAR
frame HfGlobal is not decoded (43_group_decoder.md R240). -/
def sectionBody (fh : FrameHeader) (k : SecKind) : Op Unit :=
  match k with
  | .lfGlobal => lfGlobalBody
  | .lf g => lfGroupBody g
  | .hfGlobal => match fh.encoding with
    | .varDct => hfGlobalBody
    | .modular => pure ()
  | .hf g p => hfGroupBody g p
  | .combined => combinedBody

/-- The group a section adds data for. -/
def sectionGroup (k : SecKind) : Option Nat :=
  match k with
  | .hf g _ => some g
  | .combined => some 0
  | .lfGlobal => none
  | .lf _ => none
  | .hfGlobal => none

/-- Whether every section is DECODED or SKIPPED (40_parser.md R168). -/
def allDone (l : List Section) : Bool := l.all fun x => decide (x.state ≠ .pending)

/-- P.DISPATCH (40_parser.md R164): the section decode, then R.GROUP of the group it completes new data for; the decode
returns nothing. -/
def dispatch : Op OpValue := do
  let sect ← getSect
  match nextPending 0 sect with
  | none => stop (.refuse .notSelected)
  | some (i, x) =>
    if x.full then do
      let fh ← getFrame
      withSection i (sectionBody fh x.kind)
      upd fun s => (s.setRet .none).setPar fun q =>
        { q with sect := q.sect.set i { x with state := .decoded, bytes := [] } }
      match sectionGroup x.kind with
      | some g => renderGroup g
      | none => pure ()
      let s ← getState
      if allDone s.par.sect then setPhase .frameDone else pure ()
      pure .none
    else stop (.refuse .notSelected)

/-- BITPOS while skipping: `8 * (base + sum(TOC.len) - SKIP_LEFT)` (40_parser.md R167). -/
def skipBitpos : Op Unit := do
  let s ← getState
  let t ← present s.par.toc .toc
  setBitpos (8 * (t.base + t.len.sum - s.par.skipLeft))

/-- Ask the source to skip what is left; what it did not skip stays in SKIP_LEFT. -/
def skipSource : Op Unit := do
  let s ← getState
  if s.par.skipLeft = 0 then pure ()
  else if s.available = 0 then do
    skipBitpos
    incomplete
  else do
    let k ← sourceSkip s.par.skipLeft
    if k = 0 then do
      skipBitpos
      incomplete
    else upd fun s => s.setPar fun p => { p with skipLeft := p.skipLeft - k }

/-- P.SKIP (40_parser.md R167): staged bytes first, then the source. -/
def skip : Op OpValue := do
  let s ← getState
  let _ ← present s.par.toc .toc
  let at_ := s.ctl.bitpos / 8
  let k := min s.par.skipLeft (s.par.stage.have at_)
  upd fun s => s.setPar fun p => { p with stage := p.stage.dropBelow (at_ + k), skipLeft := p.skipLeft - k }
  skipSource
  skipBitpos
  let s ← getState
  if s.par.skipLeft = 0 then do
    upd fun s => s.setPar fun p => { p with sect := p.sect.map fun x => { x with state := .skipped } }
    setPhase .frameDone
  else pure ()
  pure .none

/-! ### The end of a frame -/

/-- Finish a decoded frame: the pipeline, then REF when the frame can be referenced: its decoded planes are what the
pipeline leaves in its channels (46_render_pipeline.md R360, notes/assumptions/53.md). Else they go to POOL. The planes of
the slot's previous occupant are dropped with the frame (40_parser.md R170, R171). A slot number beyond NUM_REF_SLOTS
names no slot of REF, and nothing is stored (10_state.md R46, DESIGN CHOICE, notes/assumptions/53.md). -/
def keepFrame : Op Unit := do
  let chans ← finishRender
  let s ← getState
  let fh ← getFrame
  if s.ctl.fCanRef ∧ fh.slot < Cfg.numRefSlots s.inp.params then
    upd fun s => s.setImg fun i => { i with refs := assocSet i.refs fh.slot chans }
  else each chans release

/-- P.FINISH (40_parser.md R172). -/
def finishStream : Op Unit := setPhase .finished

/-- P.FRAME_DONE (40_parser.md R170). -/
def frameDone : Op OpValue := do
  let s ← getState
  match s.ctl.mode with
  | .decode => keepFrame
  | .skip => pure ()
  upd fun t => t.destroyFrame.setCtl fun c => { c with frameCount := c.frameCount + 1 }
  if s.ctl.fLast then finishStream else setPhase .needFrameHeaderToc
  if s.ctl.surfaced then yieldEvent .frameReady else pure .none

/-! ### The operations -/

def execPFileHeader (s : State) : Host.Outcome State Fault Refusal := run (commitOrAbandon fileHeader) s

def execPColorProfile (s : State) : Host.Outcome State Fault Refusal := run (commitOrAbandon colorProfile) s

def execPFrameHeader (s : State) : Host.Outcome State Fault Refusal := run (commitOrAbandon frameHeader) s

def execPToc (s : State) : Host.Outcome State Fault Refusal := run (commitOrAbandon toc) s

def execPBuffer (s : State) : Host.Outcome State Fault Refusal := run buffer s

def execPDispatch (s : State) : Host.Outcome State Fault Refusal := run dispatch s

def execPSkip (s : State) : Host.Outcome State Fault Refusal := run skip s

def execPFrameDone (s : State) : Host.Outcome State Fault Refusal := run frameDone s

def execPFinish (s : State) : Host.Outcome State Fault Refusal := runUnit finishStream s

def execPFill (want : Nat) (s : State) : Host.Outcome State Fault Refusal := runUnit (fill want) s

/-! ### Step selection (40_parser.md R142) -/

/-- The operation of a phase; FINISHED and FAULTED have none. -/
def select (s : State) : Option Instr :=
  match s.ctl.phase with
  | .needFileHeader => some .pFileHeader
  | .needColorProfile => some .pColorProfile
  | .needFrameHeaderToc => some (if s.par.frame.isSome then .pToc else .pFrameHeader)
  | .awaitingSections =>
    match s.ctl.mode with
    | .skip => some .pSkip
    | .decode =>
      match nextPending 0 s.par.sect with
      | some (_, x) => some (if x.full then .pDispatch else .pBuffer)
      | none => some .pBuffer
  | .frameDone => some .pFrameDone
  | .finished => none
  | .faulted => none

end Sys2Proof.Machine
end

