-- ==== Sys2Proof/Machine/Dispatch.lean ====
section
/-! DEFINITION. The meaning of every operation: one arm per constructor. -/

namespace Sys2Proof.Machine

/-- Execute an operation. -/
def exec (i : Instr) (s : State) : Host.Outcome State Fault Refusal :=
  match i with
  -- HOST commands
  | .process src opts out => Sys2Proof.Machine.execProcess src opts out s
  | .reset => Sys2Proof.Machine.execReset s
  | .outQuery => Sys2Proof.Machine.execOutQuery s
  -- PORT transactions
  | .srcAvail => Sys2Proof.Machine.execSrcAvail s
  | .srcRead caps => Sys2Proof.Machine.execSrcRead caps s
  | .srcSkip n => Sys2Proof.Machine.execSrcSkip n s
  | .cmsXform input output => Sys2Proof.Machine.execCmsXform input output s
  | .cmsXformInplace buffer => Sys2Proof.Machine.execCmsXformInplace buffer s
  -- PARSER phase steps
  | .pFileHeader => Sys2Proof.Machine.execPFileHeader s
  | .pColorProfile => Sys2Proof.Machine.execPColorProfile s
  | .pFrameHeader => Sys2Proof.Machine.execPFrameHeader s
  | .pToc => Sys2Proof.Machine.execPToc s
  | .pBuffer => Sys2Proof.Machine.execPBuffer s
  | .pDispatch => Sys2Proof.Machine.execPDispatch s
  | .pSkip => Sys2Proof.Machine.execPSkip s
  | .pFrameDone => Sys2Proof.Machine.execPFrameDone s
  | .pFinish => Sys2Proof.Machine.execPFinish s
  | .pFill want => Sys2Proof.Machine.execPFill want s
  -- SECTION decodes
  | .sLfGlobal sec => Sys2Proof.Machine.execSLfGlobal sec s
  | .sLfGroup sec g => Sys2Proof.Machine.execSLfGroup sec g s
  | .sHfGlobal sec => Sys2Proof.Machine.execSHfGlobal sec s
  | .sHfGroup sec g p => Sys2Proof.Machine.execSHfGroup sec g p s
  -- ANS
  | .ansHist sc las => Sys2Proof.Machine.execAnsHist sc las s
  | .ansHistSingle sc las => Sys2Proof.Machine.execAnsHistSingle sc las s
  | .ansHistTwo sc las => Sys2Proof.Machine.execAnsHistTwo sc las s
  | .ansHistFlat sc las => Sys2Proof.Machine.execAnsHistFlat sc las s
  | .ansHistComplex sc las => Sys2Proof.Machine.execAnsHistComplex sc las s
  | .ansAlias sc hist las => Sys2Proof.Machine.execAnsAlias sc hist las s
  | .ansInit sc => Sys2Proof.Machine.execAnsInit sc s
  | .ansRead sc ctx => Sys2Proof.Machine.execAnsRead sc ctx s
  | .ansFinal sc => Sys2Proof.Machine.execAnsFinal sc s
  -- HUFF
  | .huffSimple sc a => Sys2Proof.Machine.execHuffSimple sc a s
  | .huffLengths sc a skip => Sys2Proof.Machine.execHuffLengths sc a skip s
  | .huffBuild sc lens => Sys2Proof.Machine.execHuffBuild sc lens s
  | .huffRead sc ctx => Sys2Proof.Machine.execHuffRead sc ctx s
  -- GROUPDEC block steps
  | .bPredNz c bx byy => Sys2Proof.Machine.execBPredNz c bx byy s
  | .bNz c pred t => Sys2Proof.Machine.execBNz c pred t s
  | .bCoeffs c t nz p => Sys2Proof.Machine.execBCoeffs c t nz p s
  | .bDequant bx byy t => Sys2Proof.Machine.execBDequant bx byy t s
  | .bXform bx byy t => Sys2Proof.Machine.execBXform bx byy t s
  -- MODULAR
  | .mTree => Sys2Proof.Machine.execMTree s
  | .mProps ch x y => Sys2Proof.Machine.execMProps ch x y s
  | .mWalk props => Sys2Proof.Machine.execMWalk props s
  | .mPredict leaf props => Sys2Proof.Machine.execMPredict leaf props s
  | .mWp x y => Sys2Proof.Machine.execMWp x y s
  | .mWpUpdate x y value => Sys2Proof.Machine.execMWpUpdate x y value s
  | .mPalette index pal numColors numDeltas predictor bitDepth => Sys2Proof.Machine.execMPalette index pal numColors numDeltas predictor bitDepth s
  | .mHsqueeze avg res w => Sys2Proof.Machine.execMHsqueeze avg res w s
  | .mVsqueeze avg res h => Sys2Proof.Machine.execMVsqueeze avg res h s
  -- XFORM
  | .xIdct h w coeff out => Sys2Proof.Machine.execXIdct h w coeff out s
  | .xAfv k coeff out => Sys2Proof.Machine.execXAfv k coeff out s
  | .xIdentity coeff out => Sys2Proof.Machine.execXIdentity coeff out s
  | .xDct2x2 coeff out => Sys2Proof.Machine.execXDct2x2 coeff out s
  | .xDct4x4 coeff out => Sys2Proof.Machine.execXDct4x4 coeff out s
  | .xDct8x4 coeff out => Sys2Proof.Machine.execXDct8x4 coeff out s
  | .xDct4x8 coeff out => Sys2Proof.Machine.execXDct4x8 coeff out s
  -- RENDER
  | .rInplace f y x0 x1 => Sys2Proof.Machine.execRInplace f y x0 x1 s
  | .rInout f bx byy sx sy up y => Sys2Proof.Machine.execRInout f bx byy sx sy up y s
  | .rSave channel plane y x0 x1 => Sys2Proof.Machine.execRSave channel plane y x0 x1 s
  | .rExtend rect cw ch y => Sys2Proof.Machine.execRExtend rect cw ch y s
  | .rGroup g => Sys2Proof.Machine.execRGroup g s
  | .rOutside cw ch rect => Sys2Proof.Machine.execROutside cw ch rect s
  -- IMGBUF
  | .iAlloc w h ty => Sys2Proof.Machine.execIAlloc w h ty s
  | .iRow b y mode => Sys2Proof.Machine.execIRow b y mode s
  | .iRows b rows mode => Sys2Proof.Machine.execIRows b rows mode s
  | .iRect b x0 y0 w h mode => Sys2Proof.Machine.execIRect b x0 y0 w h mode s
  | .iFree b => Sys2Proof.Machine.execIFree b s

end Sys2Proof.Machine
end

