-- ==== Sys2Proof/Machine/Step.lean ====
section
/-! DEFINITION. One step of the machine: the operation at the fetch port; else the command HOST has issued; else, while
a PROCESS command is in progress, the operation its loop selects (40_parser.md R130, R142); else HOST's next act. -/

namespace Sys2Proof.Machine

/-- Execute an operation as a step. -/
def runInstr (i : Instr) (s : State) : Host.Outcome State Fault Refusal := afterOp i (exec i s)

/-- The operation at the fetch port is taken from it and executed. Nothing in the machine fills this port: it is where
one operation is put to be run by itself, whatever its unit (notes/assumptions/2.md). -/
def fetchStep (s : State) : Host.Outcome State Fault Refusal :=
  match decode s.inp.fetch with
  | .ok i => runInstr i (s.setInp fun x => { x with fetch := [] })
  | .error e => .refused (.badWords e)

/-- HOST's command is taken from its issue port and executed. HOST may issue the three commands and nothing else
(60_exceptions.md R430). -/
def issueStep (s : State) : Host.Outcome State Fault Refusal :=
  match decode s.host.issue with
  | .ok i =>
    if i.isHostCommand then runInstr i (s.setHost fun h => { h with issue := [] }) else .refused .notHostCommand
  | .error e => .refused (.badWords e)

/-- The step of a PROCESS command in progress. -/
def processStep (s : State) : Host.Outcome State Fault Refusal :=
  match select s with
  | some i => runInstr i s
  | none => .next s

/-- One step. CORE's operations run between the start of a PROCESS command and its return (00_scope.md R10). -/
def step (s : State) : Host.Outcome State Fault Refusal :=
  if s.inp.fetch ≠ [] then fetchStep s
  else if s.host.issue ≠ [] then issueStep s
  else if s.ctl.busy then processStep s
  else .next (hostStep s)

/-- The state whose next step executes the operation of a table word: its words are at the fetch port. -/
def State.withFetchWord (s : State) (nbits w : Nat) : State :=
  s.setInp fun x => { x with fetch := wordBytes nbits w }

end Sys2Proof.Machine
end

