-- ==== Sys2Proof/Safety.lean ====
section
/-! DEFINITION. What claims are stated in: safe runs, the invariant of the machine, and names for the states an
operation can lead to: bits consumed, a draw made, a sample written, a buffer allocated. -/

namespace Sys2Proof.Machine

/-! ### Safe runs and the invariant -/

/-- A run of any length from `s` stops at no model fault (10_state.md R61, R53). -/
def Safe (s : State) : Prop := ∀ (k : Nat) (f : Fault), core.run k s ≠ .fault f

/-- "`0 <= ready <= total` for every entry" of SECT (10_state.md R31). -/
def Section.readyOk (x : Section) : Bool := decide (x.ready ≤ x.total)

/-- "ANS bucket probabilities always sum to exactly 4096" (10_state.md R37), for every histogram of a scope. -/
def ScopeTables.histsOk (e : ScopeTables) : Bool := e.codes.all fun c => histOk c.las c.dist

/-- `SRC.avail_end >= SRC.pos`, and what is revealed exists (20_memory.md R76). -/
def Source.ok (x : Source) : Bool := decide (x.pos ≤ x.availEnd) && decide (x.availEnd ≤ x.bytes.length)

/-- Every buffer's handle, and the handle of the buffer it borrows from, has been given out. -/
def Buffers.handlesOk (b : Buffers) : Bool :=
  b.bufs.all fun e => decide (e.1 < b.next) && decide ((rootOf e.1 e.2).1 < b.next)

/-- The invariant: HOST's memory is in canonical form, every source's cursor lies in what is revealed of it, every
section has at most its total, every histogram of every scope satisfies the sum rule, INFO_VALID guards an image header
that is present (10_state.md R28), and every buffer handle in use has been given out. -/
structure Inv (s : State) : Prop where
  mem : s.host.outMem.wf = true
  sources : s.host.sources.all Source.ok = true
  sect : s.par.sect.all Section.readyOk = true
  hists : (s.ent.all fun e => e.2.histsOk) = true
  info : s.ctl.infoValid = true → s.par.imageHeader.isSome = true
  handles : s.img.handlesOk = true

/-! ### The position, and draws -/

/-- The position `n` bits on is one the machine can hold (10_state.md R21). A section's own position has no bound. -/
def State.fits (s : State) (n : Nat) : Prop :=
  s.par.reader = none → s.ctl.bitpos + n < 2 ^ (s.inp.params.posBits.getD Config.posBits)

/-- The state `n` bits further: the section's position moves inside a section decode, BITPOS outside one. -/
def State.moved (s : State) (n : Nat) : State :=
  match s.par.reader with
  | some r => s.setPar fun p => { p with reader := some { r with pos := r.pos + n } }
  | none => s.setCtl fun c => { c with bitpos := c.bitpos + n }

/-- `n` bits are at hand, and the position after them can be held. -/
def State.canRead (s : State) (n : Nat) : Prop := n ≤ s.bitsHere.length ∧ s.fits n

/-- A parser function answers `v` over the next `n` bits. -/
def State.answers {α : Type} (s : State) (f : Bits → Answer α) (v : α) (n : Nat) : Prop :=
  firstAnswer f s.bitsHere = .parsed v n ∧ s.fits n

/-- The state after one draw. -/
def State.drawn (s : State) : State :=
  s.setInp fun i => { i with tape := i.tape.tail, drawCount := i.drawCount + 1 }

/-! ### Samples -/

/-- The buffer that holds sample (x, y) of a buffer or view, and the sample's key in it, for an access the live views
allow: none of another holder forbids it, and a view that is written through is a WRITE view (47_image_buffer.md R393,
R395, R396). -/
def State.cell (s : State) (h x y : Nat) (mode : Access) : Option (Nat × Nat) :=
  match assocGet s.img.bufs h with
  | none => none
  | some b =>
    if x < b.width ∧ y < b.height then
      match assocGet s.img.bufs (rootOf h b).1 with
      | none => none
      | some r =>
        if clashes s.img.bufs h (rootOf h b).1 ((rootOf h b).2.1 + x) ((rootOf h b).2.2 + y) mode then none
        else if mode = .write ∧ b.writable = false then none
        else some ((rootOf h b).1, ((rootOf h b).2.2 + y) * r.width + ((rootOf h b).2.1 + x))
    else none

/-- Sample (x, y) of a buffer or view may be written with a sample of type `ty`. -/
def State.canWrite (s : State) (ty : SampleType) (h x y : Nat) : Bool :=
  match s.cell h x y .write with
  | none => false
  | some c =>
    match assocGet s.img.bufs c.1 with
    | none => false
    | some b => decide (b.ty = ty)

/-- The sample at a cell, none where nothing has written it. -/
def State.sampleIn (s : State) (c : Nat × Nat) : Option Sample :=
  match assocGet s.img.bufs c.1 with
  | none => none
  | some b => storeRead b.samples c.2

/-- Sample (x, y) of a buffer or view, none where it has none that may be read. -/
def State.sample (s : State) (h x y : Nat) : Option Sample :=
  match s.cell h x y .read with
  | none => none
  | some c => s.sampleIn c

/-- The state with a sample written. -/
def State.putSample (s : State) (h x y : Nat) (v : Sample) : State :=
  match s.cell h x y .write with
  | none => s
  | some c =>
    match assocGet s.img.bufs c.1 with
    | none => s
    | some b => s.setImg fun i =>
      { i with bufs := assocSet i.bufs c.1 { b with samples := storeWrite b.samples c.2 v } }

/-- The elements of a list of which every one is present. -/
def allSome {α : Type} (l : List (Option α)) : Option (List α) :=
  match l with
  | [] => some []
  | none :: _ => none
  | some a :: rest =>
    match allSome rest with
    | none => none
    | some as => some (a :: as)

/-- The samples of columns x0 to x0 + n - 1 of row `y`. -/
def State.row (s : State) (h y x0 n : Nat) : Option (List Sample) :=
  allSome ((List.range n).map fun k => s.sample h (x0 + k) y)

/-- The samples of a buffer or view of size `w` by `ht` in raster order. -/
def State.raster (s : State) (h w ht : Nat) : Option (List Sample) :=
  allSome ((List.range (w * ht)).map fun k => s.sample h (k % w) (k / w))

/-- The state with a row segment written from column x0 on. -/
def State.putRow (s : State) (h y x0 : Nat) (vs : List Sample) : State :=
  match vs with
  | [] => s
  | v :: rest => (s.putSample h x0 y v).putRow h y (x0 + 1) rest

/-- The state with samples written in raster order of a tile of width `w` at (x0, y0), from the k-th on. -/
def State.putTile (s : State) (h w x0 y0 k : Nat) (vs : List Sample) : State :=
  match vs with
  | [] => s
  | v :: rest => (s.putSample h (x0 + k % w) (y0 + k / w) v).putTile h w x0 y0 (k + 1) rest

/-- Every sample of the rectangle may be written with samples of type `ty`. -/
def State.holds (s : State) (ty : SampleType) (h x0 y0 w ht : Nat) : Prop :=
  ∀ x y, x < w → y < ht → s.canWrite ty h (x0 + x) (y0 + y) = true

/-- The samples of a tile of `w` columns and `ht` rows at (x0, y0), in raster order. -/
def State.tile (s : State) (h w ht x0 y0 : Nat) : Option (List Sample) :=
  allSome ((List.range (w * ht)).map fun k => s.sample h (x0 + k % w) (y0 + k / w))

/-- The float of a sample. -/
def Sample.flt? (v : Sample) : Option F32 :=
  match v with
  | .flt f => some f
  | .int _ => none
  | .nat _ => none

/-- The floats of samples that all are. -/
def floats (l : List Sample) : Option (List F32) := allSome (l.map Sample.flt?)

/-- A buffer or view of this size and type exists, with its root. -/
def State.hasBuffer (s : State) (h w ht : Nat) (ty : SampleType) : Prop :=
  ∃ b, assocGet s.img.bufs h = some b ∧ b.width = w ∧ b.height = ht ∧ b.ty = ty

/-- The value of an integer sample; a small natural reads as an integer. -/
def Sample.int? (v : Sample) : Option Int :=
  match v with
  | .int z => some z
  | .nat n => some n
  | .flt _ => none

/-- The integers of samples that all are. -/
def integers (l : List Sample) : Option (List Int) := allSome (l.map Sample.int?)

/-- The integer at (x, y). -/
def State.intAt (s : State) (h x y : Nat) : Option Int :=
  match s.sample h x y with
  | none => none
  | some v => v.int?

/-- The integers of row `y`. -/
def State.intRow (s : State) (h w y : Nat) : Option (List Int) :=
  allSome ((List.range w).map fun x => s.intAt h x y)

/-- The integers of column `x`. -/
def State.intColumn (s : State) (h ht x : Nat) : Option (List Int) :=
  allSome ((List.range ht).map fun y => s.intAt h x y)

/-- Neighbour slot `v` holds the integer at (x, y) when `c` says that the position exists, and nothing else. -/
def State.neighbourIs (s : State) (h : Nat) (c : Bool) (x y : Nat) (v : Option Int) : Prop :=
  if c then (s.intAt h x y).isSome = true ∧ v = s.intAt h x y else v = none

/-- The neighbours of (x, y) in a buffer of width `w` (44_modular.md R291). -/
structure State.neighboursAre (s : State) (h w x y : Nat) (r : RawNeighbours) : Prop where
  west : s.neighbourIs h (decide (1 ≤ x)) (x - 1) y r.w
  north : s.neighbourIs h (decide (1 ≤ y)) x (y - 1) r.n
  northWest : s.neighbourIs h (decide (1 ≤ x) && decide (1 ≤ y)) (x - 1) (y - 1) r.nw
  northEast : s.neighbourIs h (decide (1 ≤ y) && decide (x + 1 < w)) (x + 1) (y - 1) r.ne
  westWest : s.neighbourIs h (decide (2 ≤ x)) (x - 2) y r.ww
  northNorth : s.neighbourIs h (decide (2 ≤ y)) x (y - 2) r.nn
  northEastEast : s.neighbourIs h (decide (1 ≤ y) && decide (x + 2 < w)) (x + 2) (y - 1) r.nee

/-! ### Buffers and tables -/

/-- The state after I.ALLOC (47_image_buffer.md R391). -/
def State.allocated (s : State) (w h : Nat) (ty : SampleType) : State :=
  s.setImg fun i =>
    { i with
      bufs := assocSet i.bufs i.next
        { width := w, height := h, ty := ty, stride := strideOf s.inp.params w ty, ownership := .owned,
          samples := freshSamples s.inp.params w h ty }
      next := i.next + 1
      pool := takePooled i.pool w h ty }

/-- The state after allocating buffers of these shapes in order. -/
def State.allocatedAll (s : State) (l : List (Nat × Nat × SampleType)) : State :=
  match l with
  | [] => s
  | e :: rest => (s.allocated e.1 e.2.1 e.2.2).allocatedAll rest

/-- The state after buffers went to POOL in order. -/
def State.released (s : State) (l : List Nat) : State :=
  match l with
  | [] => s
  | h :: rest =>
    (s.setImg fun i =>
      { i with
        bufs := i.bufs.filter fun e => e.1 != h
        pool := match assocGet i.bufs h with
          | some b => { b with samples := [] } :: i.pool
          | none => i.pool }).released rest

/-- The state with a view taken: the next handle is a view of rectangle (x0, y0, w, ht) of `h`, whose buffer is `b`. -/
def State.viewed (s : State) (h : Nat) (b : Buffer) (x0 y0 w ht : Nat) (mode : Access) : State :=
  s.setImg fun i =>
    { i with
      bufs := assocSet i.bufs i.next
        { width := w, height := ht, ty := b.ty, stride := b.stride,
          ownership := .borrowed h x0 y0 (rootOf h b).1 ((rootOf h b).2.1 + x0) ((rootOf h b).2.2 + y0) mode,
          samples := [] }
      next := i.next + 1 }

/-- The state with a scope's tables replaced. -/
def State.withScope (s : State) (sc : ScopeId) (t : ScopeTables) : State :=
  s.setEnt fun e => assocSet e sc t

end Sys2Proof.Machine
end

