-- ==== Sys2Proof/Certificates/Slice0/Obligations.lean ====
section
/-! DEFINITION. The statements about the machine, for the provers. `Sys2Proof.Claims` names the states and conditions
several of them speak of. A statement that an operation answers `.next t` for the `t` it writes out says the result,
that the operation completes, and that every other field of State is unchanged. -/

open Sys2Proof Sys2Proof.Machine

/-! ### Step, words, invariant, reset -/

/-- A step runs one operation: the one at the fetch port, by itself; else the command HOST has issued, which is one of
its three; else the operation the loop of PROCESS selects; else HOST acts (40_parser.md R130, R142, 60_exceptions.md
R430). One selected operation to a step is the model's reading of R130 (notes/assumptions/1.md, DEDUCED), the two ports
and their words are notes/assumptions/2.md and 28.md, and that views outlive exactly the operations of format I is
notes/assumptions/14.md (DESIGN CHOICE). -/
def Obligations.StepRunsDecodedOperation : Prop :=
  (∀ (s : State) (i : Instr), decode s.inp.fetch = .ok i →
    step s = afterOp i (exec i (s.setInp fun x => { x with fetch := [] }))) ∧
  (∀ (s : State) (e : DecodeError), s.inp.fetch ≠ [] → decode s.inp.fetch = .error e →
    step s = .refused (.badWords e)) ∧
  (∀ (s : State) (i : Instr), s.inp.fetch = [] → decode s.host.issue = .ok i → i.isHostCommand = true →
    step s = afterOp i (exec i (s.setHost fun h => { h with issue := [] }))) ∧
  (∀ (s : State) (i : Instr), s.inp.fetch = [] → decode s.host.issue = .ok i → i.isHostCommand = false →
    step s = .refused .notHostCommand) ∧
  (∀ (s : State) (e : DecodeError), s.inp.fetch = [] → s.host.issue ≠ [] → decode s.host.issue = .error e →
    step s = .refused (.badWords e)) ∧
  (∀ (s : State) (i : Instr), s.inp.fetch = [] → s.host.issue = [] → s.ctl.busy = true → select s = some i →
    step s = afterOp i (exec i s)) ∧
  (∀ s : State, s.inp.fetch = [] → s.host.issue = [] → s.ctl.busy = false → step s = .next (hostStep s)) ∧
  (∀ i : Instr, i.isHostCommand = true ↔ i = .reset ∨ i = .outQuery ∨ ∃ src opts out, i = .process src opts out) ∧
  (∀ (i : Instr) (t : State), i.isBufferOp = true → afterOp i (.next t) = .next t) ∧
  (∀ (i : Instr) (t : State), i.isBufferOp = false → afterOp i (.next t) = .next t.dropViews)

/-- Words written out from the operation map (30_encoding.md R102) and the operand layout of
notes/assumptions/2.md. -/
def Obligations.DecodesSampleWords : Prop :=
  decode [0x01] = .ok .reset ∧
  decode [0x12, 0xE8, 0x03, 0, 0, 0, 0, 0, 0] = .ok (.srcSkip 1000) ∧
  decode [0x20] = .ok .pFileHeader ∧
  decode [0x31, 2, 0, 0, 0, 0, 0, 0, 0, 1, 0, 0, 0, 0, 0, 0, 0] = .ok (.sLfGroup 2 1) ∧
  decode [0x47, 3, 5, 0, 0, 0, 0, 0, 0, 0] = .ok (.ansRead .modular 5) ∧
  decode [0x53, 0, 1, 0, 0, 0, 0, 0, 0, 0] = .ok (.huffRead .tree 1) ∧
  decode [0x75, 4, 0, 0, 0, 0, 0, 0, 0, 7, 0, 0, 0, 0, 0, 0, 0, 0xFE, 0xFF, 0xFF, 0xFF, 0xFF, 0xFF, 0xFF, 0xFF] =
    .ok (.mWpUpdate 4 7 (-2)) ∧
  decode [0x80, 0, 1, 9, 0, 0, 0, 0, 0, 0, 0, 8, 0, 0, 0, 0, 0, 0, 0] = .ok (.xIdct 8 16 9 8) ∧
  decode [0xA4, 6, 0, 0, 0, 0, 0, 0, 0] = .ok (.iFree 6) ∧
  decode [0x13] = .error .unknownOpcode

/-- Encoding loses nothing: the words of every well-formed operation, followed by any bytes of zero, decode to it; and
whatever decodes is well-formed. The operand layout, that bytes of zero may follow, and that ill-formed operands do not
decode are the model's choice (notes/assumptions/2.md, DESIGN CHOICE); the operation bytes are 30_encoding.md R102. -/
def Obligations.EncodeDecodeRoundTrip : Prop :=
  (∀ (i : Instr) (zs : List Byte), i.wellFormed = true → (zs.all fun b => decide (b = 0)) = true →
    decode (encode i ++ zs) = .ok i) ∧
  (∀ (bs : List Byte) (i : Instr), decode bs = .ok i → i.wellFormed = true)

/-- The invariant holds at reset. -/
def Obligations.InvariantAtReset : Prop := Inv State.reset

/-- Every step keeps the invariant: HOST's memory stays in canonical form (20_memory.md R76 for the sources),
`0 <= ready <= total` for every section (10_state.md R31), every histogram sums to 4096 (R37), INFO_VALID guards a
present image header (R28); the handles in use have been given out, which is the model's own numbering of buffers
(notes/assumptions/14.md). -/
def Obligations.StepKeepsInvariant : Prop := ∀ s t : State, Inv s → step s = .next t → Inv t

/-- RESET returns CORE to the values of 10_state.md R61 and touches no HOST object. The values of OPT are the model's
choice (notes/assumptions/3.md) and are not stated here. The model's own count of refusals and RESETs goes one up (DESIGN CHOICE,
notes/assumptions/61.md). -/
def Obligations.ResetCommand : Prop :=
  (∀ s : State, s.ctl.busy = false → exec .reset s = .next { State.reset with host := s.host, inp := s.counted.inp }) ∧
  State.reset.ctl.phase = .needFileHeader ∧ State.reset.ctl.mode = .decode ∧ State.reset.ctl.bitpos = 0 ∧
  State.reset.ctl.result = none ∧ State.reset.ctl.err = .none ∧ State.reset.ctl.need = 0 ∧
  State.reset.ctl.infoValid = false ∧ State.reset.ctl.busy = false ∧ State.reset.ctl.fPreview = false ∧
  State.reset.ctl.fCanRef = false ∧ State.reset.ctl.fDisplay = false ∧ State.reset.ctl.fLast = false ∧
  State.reset.ctl.frameCount = 0 ∧ State.reset.par.imageHeader = none ∧ State.reset.par.frame = none ∧
  State.reset.par.toc = none ∧ State.reset.par.sect = [] ∧ State.reset.par.stage = { base := 0, bytes := [] } ∧
  State.reset.grp.lfGlobal = none ∧ State.reset.grp.hfGlobal = none ∧ State.reset.grp.hfMeta = none ∧
  State.reset.grp.hf = none ∧ State.reset.grp.side = none ∧ State.reset.grp.planes = [] ∧
  State.reset.ent = [] ∧ State.reset.mod.tree = none ∧ State.reset.mod.wp = none ∧
  State.reset.mod.image = none ∧ State.reset.img.bufs = [] ∧ State.reset.img.pool = [] ∧ State.reset.img.refs = [] ∧
  State.reset.rnd = none

/-- Decoding starts at codestream bit 0 with P.FILE_HEADER: from reset, the first PROCESS is accepted and the operation
its loop selects is P.FILE_HEADER, at BITPOS 0 (70_reset_and_hazards.md R451). -/
def Obligations.DecodingStartsAtBitZero : Prop :=
  ∀ (src : Nat) (opts : Options) (out : Option (List Plane)),
    ∃ t, exec (.process src opts out) State.reset = .next t ∧ t.ctl.bitpos = 0 ∧ select t = some .pFileHeader

/-! ### Host commands -/

/-- PROCESS sets BUSY, clears ERR if it held INCOMPLETE_INPUT and takes its operands; in FAULTED it returns the latched
error and changes nothing else (40_parser.md R130, R173). That PROCESS ends there, the loop of R130 being the steps that
follow, is notes/assumptions/1.md (DEDUCED); that a decode stays with the source it began with is
notes/assumptions/32.md. -/
def Obligations.ProcessCommand : Prop :=
  (∀ (s : State) (src : Nat) (opts : Options) (out : Option (List Plane)),
    s.ctl.busy = false → s.ctl.phase ≠ .finished → s.ctl.phase ≠ .faulted →
    (s.ctl.optValid = true → s.ctl.opt = opts ∧ s.ctl.src = src) →
    (s.par.frame.isSome = true → s.ctl.out.isSome = out.isSome) →
    exec (.process src opts out) s = .next
      { s with
        ctl := { s.ctl with
          busy := true, err := if s.ctl.err = .incompleteInput then .none else s.ctl.err
          opt := opts, optValid := true, src := src, out := out }
        ret := .none }) ∧
  (∀ (s : State) (src : Nat) (opts : Options) (out : Option (List Plane)),
    s.ctl.busy = false → s.ctl.phase = .faulted →
    exec (.process src opts out) s = .next { s with ret := .result (.err s.ctl.err 0) })

/-- OUT.QUERY answers the expected planes once INFO_VALID is set; and the commands the contract forbids are refused
(40_parser.md R138, R173, 60_exceptions.md R433), another source in the middle of a decode among them
(93_implementation_defined.md V13, notes/assumptions/32.md). -/
def Obligations.OutQueryAndRefusals : Prop :=
  (∀ (s : State) (h : ImageHeader), s.ctl.busy = false → s.ctl.infoValid = true → s.par.imageHeader = some h →
    exec .outQuery s =
      .next { s with ret := .planes (Cfg.expectedPlanes s.inp.params h s.ctl.opt.pixelFormat) }) ∧
  (∀ s : State, s.ctl.busy = false → s.ctl.infoValid = false → exec .outQuery s = .refused .noInfo) ∧
  (∀ (s : State) (i : Instr), s.ctl.busy = true →
    (i = .reset ∨ i = .outQuery ∨ ∃ src opts out, i = .process src opts out) → exec i s = .refused .reentrant) ∧
  (∀ (s : State) (src : Nat) (opts : Options) (out : Option (List Plane)), s.ctl.busy = false →
    s.ctl.phase = .finished → exec (.process src opts out) s = .refused .finished) ∧
  (∀ (s : State) (src : Nat) (opts : Options) (out : Option (List Plane)), s.ctl.busy = false →
    s.ctl.phase ≠ .finished → s.ctl.phase ≠ .faulted → s.ctl.optValid = true → s.ctl.opt ≠ opts →
    exec (.process src opts out) s = .refused .optionsChanged) ∧
  (∀ (s : State) (src : Nat) (opts : Options) (out : Option (List Plane)), s.ctl.busy = false →
    s.ctl.phase ≠ .finished → s.ctl.phase ≠ .faulted → s.ctl.optValid = true → s.ctl.opt = opts → s.ctl.src ≠ src →
    exec (.process src opts out) s = .refused .sourceChanged) ∧
  (∀ (s : State) (src : Nat) (opts : Options) (out : Option (List Plane)), s.ctl.busy = false →
    s.ctl.phase ≠ .finished → s.ctl.phase ≠ .faulted → (s.ctl.optValid = true → s.ctl.opt = opts ∧ s.ctl.src = src) →
    s.par.frame.isSome = true → s.ctl.out.isSome ≠ out.isSome →
    exec (.process src opts out) s = .refused .outPresenceChanged)

/-! ### Ports -/

/-- SRC.AVAIL: `a <- SRC.avail_end - SRC.pos; return a`, and nothing changes (40_parser.md R135). -/
def Obligations.SourceAvailable : Prop :=
  ∀ (s : State) (x : Source), s.host.sources[s.ctl.src]? = some x →
    exec .srcAvail s = .next { s with ret := .nat (x.availEnd - x.pos) }

namespace Sys2Proof.Claims

/-- The state after HOST has delivered `k` bytes into STAGE. -/
def delivered (s : State) (k : Nat) : State :=
  { s with
    par := { s.par with stage := { s.par.stage with
      bytes := s.par.stage.bytes ++ (s.source.bytes.drop s.source.pos).take k } }
    host := { s.host with sources := s.host.sources.set s.ctl.src { s.source with pos := s.source.pos + k } }
    inp := s.drawn.inp, ret := .nat k }

/-- The state after HOST has skipped `k` bytes. -/
def skipped (s : State) (k : Nat) : State :=
  { s with
    host := { s.host with sources := s.host.sources.set s.ctl.src { s.source with pos := s.source.pos + k } }
    inp := s.drawn.inp, ret := .nat k }

end Sys2Proof.Claims

/-- SRC.READ: some count between the least and the most the contract allows is delivered, at least one byte where one
can be had, and each of these counts can be the one (40_parser.md R136, 20_memory.md R76). -/
def Obligations.SourceRead : Prop :=
  ∀ (s : State) (caps : List Nat),
    (∃ k, min (min caps.sum s.available) 1 ≤ k ∧ k ≤ min caps.sum s.available ∧
      exec (.srcRead caps) s = .next (Sys2Proof.Claims.delivered s k)) ∧
    (∀ k rest, min (min caps.sum s.available) 1 ≤ k → k ≤ min caps.sum s.available →
      s.inp.tape = (k - min (min caps.sum s.available) 1) :: rest →
      exec (.srcRead caps) s = .next (Sys2Proof.Claims.delivered s k))

/-- SRC.SKIP: likewise; "The skipped bytes never enter STAGE", and nothing but the source's cursor moves
(40_parser.md R137). -/
def Obligations.SourceSkip : Prop :=
  ∀ (s : State) (n : Nat),
    (∃ k, min (min n s.available) 1 ≤ k ∧ k ≤ min n s.available ∧
      exec (.srcSkip n) s = .next (Sys2Proof.Claims.skipped s k)) ∧
    (∀ k rest, min (min n s.available) 1 ≤ k → k ≤ min n s.available →
      s.inp.tape = (k - min (min n s.available) 1) :: rest →
      exec (.srcSkip n) s = .next (Sys2Proof.Claims.skipped s k)) ∧
    (∀ k, (Sys2Proof.Claims.skipped s k).par.stage = s.par.stage)

namespace Sys2Proof.Claims

/-- What HOST's colour transform makes of an input, for a buffer of `n` samples. -/
def transformed (s : State) (handle n : Nat) (input : List F32) : List Sample :=
  (List.range n).map fun i => .flt (Cfg.cms s.inp.params handle n i input)

/-- A buffer of floats with its samples in raster order. -/
structure Floats (s : State) (h : Nat) (b : Buffer) (l : List F32) : Prop where
  here : assocGet s.img.bufs h = some b
  floats : b.ty = .float
  values : s.raster h b.width b.height = some (l.map Sample.flt)

end Sys2Proof.Claims

/-- The two colour-management transactions write HOST's transform of the floats of the input into the output buffer, or
of a buffer into itself (46_render_pipeline.md R373, R374, 30_encoding.md R108). R373 names no error and R416 speaks of
the shape; that a buffer which is not one of floats is a Transform error is notes/assumptions/39.md (DEDUCED), and that a
transaction without OPT.CMS is refused as noColorManagement is there too (DESIGN CHOICE). -/
def Obligations.ColorManagement : Prop :=
  (∀ (s : State) (input output handle : Nat) (a b : Buffer) (l : List F32), s.ctl.opt.cms = some handle →
    Sys2Proof.Claims.Floats s input a l → assocGet s.img.bufs output = some b → b.ty = .float →
    s.holds .float output 0 0 b.width b.height →
    exec (.cmsXform input output) s = .next ((s.putTile output b.width 0 0 0
      (Sys2Proof.Claims.transformed s handle (b.width * b.height) l)).setRet .none)) ∧
  (∀ (s : State) (buffer handle : Nat) (b : Buffer) (l : List F32), s.ctl.opt.cms = some handle →
    Sys2Proof.Claims.Floats s buffer b l → s.holds .float buffer 0 0 b.width b.height →
    exec (.cmsXformInplace buffer) s = .next ((s.putTile buffer b.width 0 0 0
      (Sys2Proof.Claims.transformed s handle (b.width * b.height) l)).setRet .none)) ∧
  (∀ (s : State) (input output : Nat) (a b : Buffer), assocGet s.img.bufs input = some a →
    assocGet s.img.bufs output = some b →
    (a.ty ≠ .float ∨ b.ty ≠ .float → exec (.cmsXform input output) s = .next (trapEntry .transform s)) ∧
    (a.ty ≠ .float → exec (.cmsXformInplace input) s = .next (trapEntry .transform s))) ∧
  (∀ (s : State) (input output : Nat) (a b : Buffer) (l : List F32), s.ctl.opt.cms = none →
    Sys2Proof.Claims.Floats s input a l → assocGet s.img.bufs output = some b → b.ty = .float →
    exec (.cmsXform input output) s = .refused .noColorManagement ∧
      exec (.cmsXformInplace input) s = .refused .noColorManagement)

/-! ### Parser -/

/-- Step selection: the one operation of each row of the table (40_parser.md R142). -/
def Obligations.SelectFollowsPhase : Prop :=
  (∀ s : State, s.ctl.phase = .needFileHeader → select s = some .pFileHeader) ∧
  (∀ s : State, s.ctl.phase = .needColorProfile → select s = some .pColorProfile) ∧
  (∀ s : State, s.ctl.phase = .needFrameHeaderToc → s.par.frame = none → select s = some .pFrameHeader) ∧
  (∀ s : State, s.ctl.phase = .needFrameHeaderToc → s.par.frame ≠ none → select s = some .pToc) ∧
  (∀ s : State, s.ctl.phase = .awaitingSections → s.ctl.mode = .skip → select s = some .pSkip) ∧
  (∀ (s : State) (i : Nat) (x : Section), s.ctl.phase = .awaitingSections → s.ctl.mode = .decode →
    s.par.sect[i]? = some x → x.state = .pending →
    (∀ (j : Nat) (y : Section), s.par.sect[j]? = some y → y.state = .pending →
      x.logical < y.logical ∨ (x.logical = y.logical ∧ i ≤ j)) →
    select s = some (if x.ready = x.total then .pDispatch else .pBuffer)) ∧
  (∀ s : State, s.ctl.phase = .frameDone → select s = some .pFrameDone) ∧
  (∀ s : State, s.ctl.phase = .finished ∨ s.ctl.phase = .faulted → select s = none)

/-- P.FILE_HEADER and P.COLOR_PROFILE: a parsed header inside the pixel limit is kept and BITPOS and PHASE advance;
above the limit the trap is RESOURCE_LIMIT; a malformed header is a Format error, a malformed profile one of the kind it
carries, which is never Transform; the colour profile ends in IMAGE_INFO with INFO_VALID set (40_parser.md R143 to R146,
30_encoding.md R120, 60_exceptions.md R411, R413). -/
def Obligations.FileHeaderAndProfile : Prop :=
  (∀ (s : State) (h : ImageHeader) (n : Nat),
    firstAnswer (Cfg.parseFileHeader s.inp.params) s.bitsHere = .parsed h n →
    h.width * h.height ≤ s.ctl.opt.pixelLimit →
    s.ctl.bitpos + n < 2 ^ (s.inp.params.posBits.getD Config.posBits) →
    exec .pFileHeader s = .next
      { s with
        par := { s.par with imageHeader := some h.withoutProfile }
        ctl := { s.ctl with bitpos := s.ctl.bitpos + n, phase := .needColorProfile }
        ret := .none }) ∧
  (∀ (s : State) (h : ImageHeader) (n : Nat),
    firstAnswer (Cfg.parseFileHeader s.inp.params) s.bitsHere = .parsed h n →
    s.ctl.opt.pixelLimit < h.width * h.height → exec .pFileHeader s = .next (trapEntry .resourceLimit s)) ∧
  (∀ (s : State) (k : Kind), firstAnswer (Cfg.parseFileHeader s.inp.params) s.bitsHere = .malformed k →
    k = .format ∧ exec .pFileHeader s = .next (trapEntry .format s)) ∧
  (∀ (s : State) (h : ImageHeader) (old : List Byte) (k : Kind), s.par.imageHeader = some h → h.color = .icc old →
    firstAnswer (Cfg.parseColorProfile s.inp.params h) s.bitsHere = .malformed k →
    k ≠ .transform ∧ exec .pColorProfile s = .next (trapEntry k s)) ∧
  (∀ (s : State) (h : ImageHeader) (ps : List Nat), s.par.imageHeader = some h → h.color = .simple ps →
    exec .pColorProfile s = .next
      { s with
        ctl := { s.ctl with
          phase := .needFrameHeaderToc, infoValid := true, result := some (.ok .imageInfo), busy := false }
        ret := .result (.ok .imageInfo) }) ∧
  (∀ (s : State) (h : ImageHeader) (old icc : List Byte) (n : Nat), s.par.imageHeader = some h →
    h.color = .icc old → firstAnswer (Cfg.parseColorProfile s.inp.params h) s.bitsHere = .parsed icc n →
    s.ctl.bitpos + n < 2 ^ (s.inp.params.posBits.getD Config.posBits) →
    exec .pColorProfile s = .next
      { s with
        par := { s.par with imageHeader := some { h with color := .icc icc } }
        ctl := { s.ctl with
          bitpos := s.ctl.bitpos + n, phase := .needFrameHeaderToc, infoValid := true
          result := some (.ok .imageInfo), busy := false }
        ret := .result (.ok .imageInfo) })

/-- P.FRAME_HEADER: the frame is created, the four flags are latched, and MODE is DECODE for a preview, a frame that can
be referenced, or a displayed frame with output buffers present, else SKIP; above the pixel limit the trap is
RESOURCE_LIMIT; a malformed header is a Format error (40_parser.md R143, R147 to R149, 30_encoding.md R120). That a header
takes at least one bit is notes/assumptions/25.md (DEDUCED). -/
def Obligations.FrameHeaderStep : Prop :=
  (∀ (s : State) (ih : ImageHeader) (fh : FrameHeader) (n : Nat), s.par.imageHeader = some ih →
    firstAnswer (Cfg.parseFrameHeader s.inp.params ih) s.bitsHere = .parsed fh n →
    fh.width * fh.height ≤ s.ctl.opt.pixelLimit →
    s.ctl.bitpos + n < 2 ^ (s.inp.params.posBits.getD Config.posBits) →
    exec .pFrameHeader s = .next
      { s with
        par := { s.par with frame := some fh }
        ctl := { s.ctl with
          fPreview := fh.preview, fCanRef := fh.canRef, fDisplay := fh.display, fLast := fh.last
          mode := if fh.preview = true ∨ fh.canRef = true ∨ (fh.display = true ∧ s.ctl.out ≠ none) then .decode else .skip
          bitpos := s.ctl.bitpos + n }
        ret := .none }) ∧
  (∀ (s : State) (ih : ImageHeader) (fh : FrameHeader) (n : Nat), s.par.imageHeader = some ih →
    firstAnswer (Cfg.parseFrameHeader s.inp.params ih) s.bitsHere = .parsed fh n →
    s.ctl.opt.pixelLimit < fh.width * fh.height → exec .pFrameHeader s = .next (trapEntry .resourceLimit s)) ∧
  (∀ (s : State) (ih : ImageHeader) (k : Kind), s.par.imageHeader = some ih →
    firstAnswer (Cfg.parseFrameHeader s.inp.params ih) s.bitsHere = .malformed k →
    k = .format ∧ exec .pFrameHeader s = .next (trapEntry .format s)) ∧
  (∀ (p : Params) (ih : ImageHeader) (bits : Bits) (fh : FrameHeader) (n : Nat),
    firstAnswer (Cfg.parseFrameHeader p ih) bits = .parsed fh n → 1 ≤ n)

/-- P.TOC: the section count is checked, BITPOS goes to the next byte boundary, and SECT lists the sections in stored
order, contiguous from that byte, each of the kind its logical index has, nothing ready, all PENDING; a malformed TOC
traps with the kind it carries, which is never Transform (40_parser.md R143, R156 to R159, 30_encoding.md R109,
10_state.md R30, R31). How many sections a frame has and which kind a logical index has are
general knowledge the spec marks (decision D33; notes/assumptions/11.md, PRESUMED); that the permutation takes stored to
logical indexes is the spec's decision D39. -/
def Obligations.TocStep : Prop :=
  (∀ (s : State) (fh : FrameHeader) (tf : TocFields) (n : Nat), s.par.frame = some fh →
    firstAnswer (Cfg.parseToc s.inp.params fh) s.bitsHere = .parsed tf n →
    tf.len.length = numSections fh → permOk tf.perm tf.len.length = true →
    (s.ctl.bitpos + n + 7) / 8 * 8 < 2 ^ (s.inp.params.posBits.getD Config.posBits) →
    ∃ sect : List Section,
      exec .pToc s = .next
        { s with
          par := { s.par with
            toc := some { len := tf.len, perm := tf.perm, base := (s.ctl.bitpos + n + 7) / 8 }
            sect := sect, skipLeft := if s.ctl.mode = .skip then tf.len.sum else 0 }
          ctl := { s.ctl with bitpos := (s.ctl.bitpos + n + 7) / 8 * 8, phase := .awaitingSections }
          ret := .none } ∧
      sect.length = tf.len.length ∧
      ∀ (i m : Nat), tf.len[i]? = some m →
        ∃ l, (l = match tf.perm with
            | none => i
            | some p => (p[i]?).getD i) ∧
          sect[i]? = some
            { kind := sectionKind fh l, logical := l, start := (s.ctl.bitpos + n + 7) / 8 + (tf.len.take i).sum
              total := m, ready := 0, state := .pending, bytes := [] }) ∧
  (∀ (s : State) (fh : FrameHeader) (tf : TocFields) (n : Nat), s.par.frame = some fh →
    firstAnswer (Cfg.parseToc s.inp.params fh) s.bitsHere = .parsed tf n →
    (tf.len.length ≠ numSections fh ∨ permOk tf.perm tf.len.length = false) →
    exec .pToc s = .next (trapEntry .format s)) ∧
  (∀ (s : State) (fh : FrameHeader) (k : Kind), s.par.frame = some fh →
    firstAnswer (Cfg.parseToc s.inp.params fh) s.bitsHere = .malformed k →
    k ≠ .transform ∧ exec .pToc s = .next (trapEntry k s)) ∧
  (∀ fh : FrameHeader, fh.groups.length = 1 → fh.numPasses = 1 → numSections fh = 1 ∧ sectionKind fh 0 = .combined) ∧
  (∀ fh : FrameHeader, ¬ (fh.groups.length = 1 ∧ fh.numPasses = 1) →
    numSections fh = 2 + fh.lfGroups.length + fh.numPasses * fh.groups.length ∧
    sectionKind fh 0 = .lfGlobal ∧
    (∀ g, g < fh.lfGroups.length → sectionKind fh (1 + g) = .lf g) ∧
    sectionKind fh (1 + fh.lfGroups.length) = .hfGlobal ∧
    (∀ p g, g < fh.groups.length →
      sectionKind fh (2 + fh.lfGroups.length + p * fh.groups.length + g) = .hf g p))

/-- P.FILL: with `want` bytes staged or to be had it completes, takes bytes from the source's cursor on in order and
leaves at least `want` staged at or after BITPOS; with too few staged and none to be had it reports Incomplete with a
NEED of at least 1 (40_parser.md R139). -/
def Obligations.FillStage : Prop :=
  (∀ (s : State) (want : Nat) (x : Source), s.host.sources[s.ctl.src]? = some x → x.ok = true →
    want ≤ (s.par.stage.dropBelow (s.ctl.bitpos / 8)).have (s.ctl.bitpos / 8) + s.available →
    ∃ (k : Nat) (inp : Inputs),
      exec (.pFill want) s = .next
        { s with
          par := { s.par with stage :=
            { base := (s.par.stage.dropBelow (s.ctl.bitpos / 8)).base
              bytes := (s.par.stage.dropBelow (s.ctl.bitpos / 8)).bytes ++ (x.bytes.drop x.pos).take k } }
          host := { s.host with sources := s.host.sources.set s.ctl.src { x with pos := x.pos + k } }
          inp := inp, ret := .none } ∧
      x.pos + k ≤ x.availEnd ∧ inp.params = s.inp.params ∧
      want ≤ (s.par.stage.dropBelow (s.ctl.bitpos / 8)).have (s.ctl.bitpos / 8) + k) ∧
  (∀ (s : State) (want : Nat), (s.par.stage.dropBelow (s.ctl.bitpos / 8)).have (s.ctl.bitpos / 8) < want →
    s.available = 0 →
    ∃ n, 1 ≤ n ∧ exec (.pFill want) s = .next (takeIncomplete n
      { s with
        par := { s.par with stage := s.par.stage.dropBelow (s.ctl.bitpos / 8) }
        inp := s.drawn.inp }))

/-- P.BUFFER: staged bytes go to the first section in stored order that is not fully ready, never more than it lacks,
and BITPOS follows; with every section ready nothing happens; with nothing staged and nothing to be had it reports
Incomplete; an absent SECT is a model fault (40_parser.md R160, R163, 10_state.md R61). -/
def Obligations.BufferStep : Prop :=
  (∀ (s : State) (i : Nat) (x : Section), s.par.sect[i]? = some x → x.ready ≠ x.total →
    (∀ (j : Nat) (y : Section), j < i → s.par.sect[j]? = some y → y.ready = y.total) →
    0 < s.par.stage.have (x.start + x.ready) →
    8 * (x.start + x.ready + ((s.par.stage.bytesFrom (x.start + x.ready)).take (x.total - x.ready)).length) <
      2 ^ (s.inp.params.posBits.getD Config.posBits) →
    exec .pBuffer s = .next
      { s with
        par := { s.par with sect := s.par.sect.set i { x with
          bytes := x.bytes ++ (s.par.stage.bytesFrom (x.start + x.ready)).take (x.total - x.ready)
          ready := x.ready + ((s.par.stage.bytesFrom (x.start + x.ready)).take (x.total - x.ready)).length } }
        ctl := { s.ctl with bitpos :=
          8 * (x.start + x.ready + ((s.par.stage.bytesFrom (x.start + x.ready)).take (x.total - x.ready)).length) }
        ret := .none }) ∧
  (∀ s : State, s.par.sect ≠ [] → (∀ (i : Nat) (x : Section), s.par.sect[i]? = some x → x.ready = x.total) →
    exec .pBuffer s = .next { s with ret := .none }) ∧
  (∀ s : State, s.par.sect = [] → exec .pBuffer s = .fault (.absent .sect)) ∧
  (∀ (s : State) (i : Nat) (x : Section), s.par.sect[i]? = some x → x.ready ≠ x.total →
    (∀ (j : Nat) (y : Section), j < i → s.par.sect[j]? = some y → y.ready = y.total) →
    s.par.stage.have (x.start + x.ready) = 0 → s.ctl.bitpos = 8 * (x.start + x.ready) → s.available = 0 →
    ∃ n, 1 ≤ n ∧ exec .pBuffer s = .next (takeIncomplete n
      { s with
        par := { s.par with stage := s.par.stage.dropBelow (s.ctl.bitpos / 8) }
        inp := s.drawn.inp }))

namespace Sys2Proof.Claims

/-- The state inside the decode of the section stored `i`-th, at its first bit. -/
def opened (s : State) (x : Section) : State :=
  s.setPar fun p => { p with reader := some { bytes := x.bytes, pos := 0 } }

/-- The state with the section stored `i`-th DECODED and its store released. -/
def markDecoded (s : State) (i : Nat) (x : Section) : State :=
  s.setPar fun p => { p with sect := p.sect.set i { x with state := .decoded, bytes := [] } }

/-- PHASE after a section: FRAME_DONE when no section is PENDING. -/
def afterSection (s : State) : State :=
  if (s.par.sect.all fun x => decide (x.state ≠ .pending)) = true then
    s.setCtl fun c => { c with phase := .frameDone }
  else s

/-- The section P.DISPATCH takes: the PENDING one with the smallest logical index, when it is fully ready. -/
structure Runnable (s : State) (i : Nat) (x : Section) : Prop where
  here : s.par.sect[i]? = some x
  pending : x.state = .pending
  least : ∀ (j : Nat) (y : Section), s.par.sect[j]? = some y → y.state = .pending →
    x.logical < y.logical ∨ (x.logical = y.logical ∧ i ≤ j)
  ready : x.ready = x.total

end Sys2Proof.Claims

namespace Sys2Proof.Claims

/-- The decode of a combined section: the four section decodes back to back on one bit position, HfGlobal only in
VarDCT. -/
def CombinedRuns (fh : FrameHeader) (s t : State) : Prop :=
  ∃ a b c, lfGlobalBody s = .ok () a ∧ each (List.range fh.lfGroups.length) lfGroupBody a = .ok () b ∧
    (match fh.encoding with
     | .varDct => hfGlobalBody b = .ok () c
     | .modular => c = b) ∧
    hfGroupBody 0 0 c = .ok () t

/-- The state with the section's bit position gone. -/
def closed (s : State) : State := (s.setPar fun p => { p with reader := none }).setRet .none

end Sys2Proof.Claims

/-- P.DISPATCH runs the decode of the runnable section, marks it DECODED, releases its store and goes to FRAME_DONE when
no section is PENDING. First: the HfGlobal section of a MODULAR frame is marked without a decode. Second and third: a
section that completes no group ends as its decode ends, next or trap. Fourth: a section that completes data for
a group, an Hf section or the combined one, is marked and R.GROUP runs for its group; P.DISPATCH ends as R.GROUP ends
(40_parser.md R164, R168, 30_encoding.md R109, 43_group_decoder.md R240). -/
def Obligations.DispatchSection : Prop :=
  (∀ (s : State) (i : Nat) (x : Section) (fh : FrameHeader), Sys2Proof.Claims.Runnable s i x →
    s.par.frame = some fh → fh.encoding = .modular → x.kind = .hfGlobal →
    exec .pDispatch s = .next ((Sys2Proof.Claims.afterSection
      (Sys2Proof.Claims.markDecoded (s.setPar fun p => { p with reader := none }) i x)).setRet .none)) ∧
  (∀ (s t : State) (i : Nat) (x : Section) (fh : FrameHeader), Sys2Proof.Claims.Runnable s i x →
    s.par.frame = some fh →
    (exec (.sLfGlobal i) s = .next t ∧ x.kind = .lfGlobal ∨
      (∃ g, exec (.sLfGroup i g) s = .next t ∧ x.kind = .lf g) ∨
      (exec (.sHfGlobal i) s = .next t ∧ x.kind = .hfGlobal ∧ fh.encoding = .varDct)) →
    t.ret = .none →
    exec .pDispatch s = .next ((Sys2Proof.Claims.afterSection (Sys2Proof.Claims.markDecoded t i x)).setRet .none)) ∧
  (∀ (s t : State) (i : Nat) (x : Section) (fh : FrameHeader), Sys2Proof.Claims.Runnable s i x →
    s.par.frame = some fh →
    (exec (.sLfGlobal i) s = .next t ∧ x.kind = .lfGlobal ∨
      (∃ g, exec (.sLfGroup i g) s = .next t ∧ x.kind = .lf g) ∨
      (exec (.sHfGlobal i) s = .next t ∧ x.kind = .hfGlobal ∧ fh.encoding = .varDct) ∨
      (∃ g p, exec (.sHfGroup i g p) s = .next t ∧ x.kind = .hf g p)) →
    t.ret ≠ .none → exec .pDispatch s = .next t) ∧
  (∀ (s t u : State) (i g : Nat) (x : Section) (fh : FrameHeader), Sys2Proof.Claims.Runnable s i x →
    s.par.frame = some fh →
    ((∃ p, x.kind = .hf g p ∧ exec (.sHfGroup i g p) s = .next t) ∨
      (x.kind = .combined ∧ g = 0 ∧
        ∃ v, Sys2Proof.Claims.CombinedRuns fh (Sys2Proof.Claims.opened s x) v ∧ t = Sys2Proof.Claims.closed v)) →
    t.ret = .none → exec (.rGroup g) (Sys2Proof.Claims.markDecoded t i x) = .next u →
    (u.ret = .none → exec .pDispatch s = .next ((Sys2Proof.Claims.afterSection u).setRet .none)) ∧
    (u.ret ≠ .none → exec .pDispatch s = .next u))

/-- P.SKIP: staged bytes are passed over first, then the source's; BITPOS is `8 * (base + sum(TOC.len) - SKIP_LEFT)`;
with nothing left every section is SKIPPED and the frame done; with nothing to skip it reports Incomplete and keeps its
progress (40_parser.md R167). -/
def Obligations.SkipStep : Prop :=
  (∀ (s : State) (c : Toc), s.par.toc = some c → s.par.skipLeft ≤ s.par.stage.have (s.ctl.bitpos / 8) →
    8 * (c.base + c.len.sum) < 2 ^ (s.inp.params.posBits.getD Config.posBits) →
    exec .pSkip s = .next
      { s with
        par := { s.par with
          stage := s.par.stage.dropBelow (s.ctl.bitpos / 8 + s.par.skipLeft), skipLeft := 0
          sect := s.par.sect.map fun x => { x with state := .skipped } }
        ctl := { s.ctl with bitpos := 8 * (c.base + c.len.sum), phase := .frameDone }
        ret := .none }) ∧
  (∀ (s : State) (c : Toc) (rest : Nat), s.par.toc = some c →
    s.par.skipLeft = s.par.stage.have (s.ctl.bitpos / 8) + rest → 0 < rest → 0 < s.available →
    8 * (c.base + c.len.sum) < 2 ^ (s.inp.params.posBits.getD Config.posBits) →
    ∃ k, 1 ≤ k ∧ k ≤ min rest s.available ∧
      exec .pSkip s = .next
        { s with
          par := { s.par with
            stage := s.par.stage.dropBelow (s.ctl.bitpos / 8 + s.par.stage.have (s.ctl.bitpos / 8))
            skipLeft := rest - k
            sect := if rest = k then s.par.sect.map (fun x => { x with state := .skipped }) else s.par.sect }
          ctl := { s.ctl with
            bitpos := 8 * (c.base + c.len.sum - (rest - k))
            phase := if rest = k then .frameDone else s.ctl.phase }
          host := { s.host with sources := s.host.sources.set s.ctl.src { s.source with pos := s.source.pos + k } }
          inp := s.drawn.inp, ret := .none }) ∧
  (∀ (s : State) (c : Toc) (rest : Nat), s.par.toc = some c →
    s.par.skipLeft = s.par.stage.have (s.ctl.bitpos / 8) + rest → 0 < rest → s.available = 0 →
    8 * (c.base + c.len.sum) < 2 ^ (s.inp.params.posBits.getD Config.posBits) →
    ∃ n, 1 ≤ n ∧ exec .pSkip s = .next (takeIncomplete n
      { s with
        par := { s.par with
          stage := s.par.stage.dropBelow (s.ctl.bitpos / 8 + s.par.stage.have (s.ctl.bitpos / 8)), skipLeft := rest }
        ctl := { s.ctl with bitpos := 8 * (c.base + c.len.sum - rest) }
        inp := s.drawn.inp }))

namespace Sys2Proof.Claims

/-- Whether the frame's end is surfaced: it is displayed, or a preview that is not skipped, or the last frame. -/
def surfaced (c : Control) : Bool :=
  decide (c.fDisplay = true ∨ (c.fPreview = true ∧ c.opt.skipPreview = false) ∨ c.fLast = true)

/-- The state after the frame has been destroyed with every buffer that is not a reference frame's plane, counted, and
surfaced or not. -/
def frameClosed (s : State) : State :=
  { s with
    par := { s.par with frame := none, toc := none, sect := [], skipLeft := 0, reader := none }
    grp := .reset, ent := [], mod := .reset, rnd := none
    img := { s.img with bufs := s.img.bufs.filter fun e => s.img.refs.any fun r => r.2.contains e.1 }
    ctl := { s.ctl with
      frameCount := s.ctl.frameCount + 1
      phase := if s.ctl.fLast = true then .finished else .needFrameHeaderToc
      result := if surfaced s.ctl then some (.ok .frameReady) else s.ctl.result
      busy := if surfaced s.ctl then false else s.ctl.busy }
    ret := if surfaced s.ctl then .result (.ok .frameReady) else .none }

/-- The state after the pipeline of a decoded frame is gone: the buffers of a stage in progress go to POOL, and the
channels it leaves go into the frame's reference slot when it can be referenced and the slot exists, else to POOL. -/
def finished (s : State) (r : Render) (fh : FrameHeader) : State :=
  let t := (s.released (r.next.map Prod.snd)).setRnd none
  if s.ctl.fCanRef = true ∧ fh.slot < Cfg.numRefSlots s.inp.params then t.setImg fun i => { i with refs := assocSet i.refs fh.slot r.chans }
  else t.released r.chans

end Sys2Proof.Claims

/-- P.FRAME_DONE and P.FINISH: a skipped frame is destroyed and counted; a decoded one is first rendered with the passes
it has not been rendered with, and what its pipeline leaves goes into its slot when it can be referenced; a pipeline
that is absent is a model fault; FRAME_READY is raised exactly for a surfaced frame; the last frame leads to FINISHED
(40_parser.md R168 to R172, 46_render_pipeline.md R360, R370, 10_state.md R61). That the planes stored in REF are the
pipeline's last channels, and that a slot number beyond NUM_REF_SLOTS stores nothing, is notes/assumptions/53.md, and
that the whole frame is rendered at once, and one without passes at its end, notes/assumptions/17.md. -/
def Obligations.FrameDoneStep : Prop :=
  (∀ s : State, s.ctl.mode = .skip → exec .pFrameDone s = .next (Sys2Proof.Claims.frameClosed s)) ∧
  (∀ s : State, s.ctl.mode = .decode → s.rnd = none → exec .pFrameDone s = .fault (.absent .render)) ∧
  (∀ (s : State) (fh : FrameHeader) (r : Render), s.ctl.mode = .decode → s.rnd = some r → s.par.frame = some fh →
    fh.numPasses ≤ r.rendered → 0 < fh.numPasses →
    exec .pFrameDone s = .next (Sys2Proof.Claims.frameClosed (Sys2Proof.Claims.finished s r fh))) ∧
  (∀ (s u : State) (fh : FrameHeader) (r v : Render), s.ctl.mode = .decode → s.rnd = some r → s.par.frame = some fh →
    r.rendered < fh.numPasses ∨ fh.numPasses = 0 → renderFrame s = .ok () u → u.rnd = some v → u.par.frame = some fh →
    exec .pFrameDone s = .next (Sys2Proof.Claims.frameClosed (Sys2Proof.Claims.finished u v fh))) ∧
  (∀ s : State, exec .pFinish s = .next { s with ctl := { s.ctl with phase := .finished }, ret := .none })

namespace Sys2Proof.Claims

/-- The state after a fatal error of kind `k` has been taken. -/
def trapped (k : Kind) (s : State) : State :=
  { s with
    ctl := { s.ctl with
      err := k.toErr, need := 0, result := some (.err k.toErr 0), phase := .faulted, busy := false }
    par := { s.par with frame := none, toc := none, sect := [], skipLeft := 0, reader := none }
    grp := .reset, ent := [], mod := .reset, rnd := none
    img := { s.img with
      bufs := s.img.bufs.filter fun e => s.img.refs.any fun r => r.2.contains e.1
      pool := [] }
    ret := .result (.err k.toErr 0) }

end Sys2Proof.Claims

/-- Taking a fatal error: ERR, NEED, RESULT and PHASE are written, BUSY is cleared, everything of the frame in progress
and POOL cease to exist; everything else of the state the error was raised in is kept: INFO_VALID, IMAGE_HEADER,
FRAME_COUNT, REF with its planes, BITPOS, STAGE and OPT (60_exceptions.md R420). First for every operation, of every
kind; second what every instruction that returns such an error leaves; third a malformed file header, which takes it as a
Format error (40_parser.md R144, 30_encoding.md R120). That the frame flags and MODE are kept as well is notes/assumptions/24.md. -/
def Obligations.FatalErrorEntry : Prop :=
  (∀ (op : Op OpValue) (s t : State) (k : Kind), op s = .error (.fatal k) t →
    run op s = .next (Sys2Proof.Claims.trapped k t)) ∧
  (∀ (i : Instr) (s t : State) (k : Kind) (n : Nat), (∀ src opts out, i ≠ .process src opts out) →
    exec i s = .next t → t.ret = .result (.err k.toErr n) →
    n = 0 ∧ ∃ u, t = Sys2Proof.Claims.trapped k u ∧ u.host.script = s.host.script ∧ u.inp.params = s.inp.params) ∧
  (∀ (s : State) (k : Kind), firstAnswer (Cfg.parseFileHeader s.inp.params) s.bitsHere = .malformed k →
    exec .pFileHeader s = .next (Sys2Proof.Claims.trapped .format s))

namespace Sys2Proof.Claims

/-- The operations that read bits of the codestream at the position and so may be abandoned by Incomplete. -/
def readsBits : Instr → Bool
  | .pFileHeader | .pColorProfile | .pFrameHeader | .pToc => true
  | .ansHist _ _ | .ansHistSingle _ _ | .ansHistTwo _ _ | .ansHistFlat _ _ | .ansHistComplex _ _ => true
  | .ansInit _ | .ansRead _ _ | .huffSimple _ _ | .huffLengths _ _ _ | .huffRead _ _ => true
  | .bNz _ _ _ | .bCoeffs _ _ _ _ | .mTree | .mPredict _ _ => true
  | _ => false

/-- STAGE after a step from `s` that took `k` bytes of the source and was abandoned: the bytes that were staged at or
after the step's first byte, and those `k`. -/
def stagedAll (s : State) (k : Nat) : Stage :=
  { base := (s.par.stage.dropBelow (s.ctl.bitpos / 8)).base
    bytes := (s.par.stage.dropBelow (s.ctl.bitpos / 8)).bytes ++ (s.source.bytes.drop s.source.pos).take k }

end Sys2Proof.Claims

/-- An operation that reads bits and is abandoned by Incomplete leaves every state element but STAGE, the input source and
the draws as it was, BITPOS at its first bit among them, and STAGE holds every byte it saw: those staged at or after its
first byte, however far it moved the position in between, and all it took from the source; a header step reports NEED of
at least 1 (40_parser.md R130, R139, R141, decision D10). -/
def Obligations.AbandonedStepKeepsState : Prop :=
  ∀ (i : Instr) (s t : State) (n : Nat), Sys2Proof.Claims.readsBits i = true →
    exec i s = .next t → t.ret = .result (.err .incompleteInput n) →
    (i ∈ [Instr.pFileHeader, .pColorProfile, .pFrameHeader, .pToc] → 1 ≤ n) ∧ t =
      { s with
        ctl := { s.ctl with
          err := .incompleteInput, need := n, result := some (.err .incompleteInput n), busy := false }
        par := { s.par with stage := Sys2Proof.Claims.stagedAll s (t.source.pos - s.source.pos) }
        host := { s.host with sources := t.host.sources }
        inp := t.inp, ret := .result (.err .incompleteInput n) }

/-- Parser functions are prefix-stable as the machine asks them: an answer on a bit string is the answer on every
extension of it, and a parsed value lies within the string (40_parser.md R143, decision D10). -/
def Obligations.ParsersArePrefixStable : Prop :=
  ∀ (α : Type) (f : Bits → Answer α) (bits more : Bits),
    (firstAnswer f bits ≠ .needMore → firstAnswer f (bits ++ more) = firstAnswer f bits) ∧
    (∀ v n, firstAnswer f bits = .parsed v n → n ≤ bits.length)

/-! ### Section decodes -/

namespace Sys2Proof.Claims

/-- At this state a Modular scope follows that has no channels, no transforms, no tree and no tables but the preset
ones: its specification is `m` bits and its coder's specification `n` bits long. -/
structure EmptyModular (s : State) (place : ModPlace) (spec : ModSpec) (coder : ScopeSpec) (m n : Nat) : Prop where
  specHere : s.answers (Cfg.modularSpec s.inp.params (s.modSite place)) spec m
  tree : spec.tree = .absent
  channels : spec.channels = []
  transforms : spec.transforms = []
  places : spec.place = []
  coderHere : (s.moved m).answers (Cfg.scopeSpec s.inp.params .modular) coder n
  huff : coder.coder = .huff
  histograms : coder.las = []
  alphabets : coder.alphabets = []

/-- The six members of LFGLOBAL at this state, the shared-tree flag saying no, and how many bits they take. -/
structure SideData (s : State) (g : LfGlobal) (n : Nat) : Prop where
  all : ∃ (enc : Encoding) (a b c d e f h : Nat), s.par.frame.map FrameHeader.encoding = some enc ∧
    s.answers (Cfg.lfMember s.inp.params enc .patches) g.patches a ∧
    (s.moved a).answers (Cfg.lfMember s.inp.params enc .splines) g.splines b ∧
    (s.moved (a + b)).answers (Cfg.lfMember s.inp.params enc .noise) g.noise c ∧
    (s.moved (a + b + c)).answers (Cfg.lfMember s.inp.params enc .quantizer) g.quantizer d ∧
    (s.moved (a + b + c + d)).answers (Cfg.lfMember s.inp.params enc .blockCtx) g.blockCtx e ∧
    (s.moved (a + b + c + d + e)).answers (Cfg.lfMember s.inp.params enc .colorCorr) g.colorCorr f ∧
    (s.moved (a + b + c + d + e + f)).answers (Cfg.sharedTreeFlag s.inp.params) false h ∧
    n = a + b + c + d + e + f + h
  noTree : g.sharedTree = none

/-- The state a section decode leaves: its bit position is gone, and with it the Modular scope's tables and working
state. -/
def modularClosed (s : State) : State :=
  { s with
    par := { s.par with reader := none }, mod := .reset
    ent := s.ent.filter fun x => decide (x.1 ≠ .modular), ret := .none }

/-- The state with every sample of some buffers zero. -/
def zeroed (s : State) (l : List Nat) : State :=
  match l with
  | [] => s
  | h :: rest =>
    zeroed (match assocGet s.img.bufs h with
      | none => s
      | some b => s.setImg fun i =>
        { i with bufs := (assocSet i.bufs h
            { b with samples := (List.range (b.width * b.height)).map fun k => (k, zeroSample b.ty) }) }) rest

/-- The next `n` buffer handles after `k` others. -/
def handles (s : State) (k n : Nat) : List Nat := (List.range n).map fun j => s.img.next + k + j

/-- The state with the buffers of a frame allocated: the pixel planes, and in VarDCT the side buffers, of which the first
three, the coefficient planes, are zero, and the eleventh, the map of first blocks. -/
def withBuffers (s : State) (fh : FrameHeader) (planes side : List (Nat × Nat × SampleType)) : State :=
  match fh.encoding with
  | .modular => { s.allocatedAll planes with grp := { s.grp with planes := handles s 0 planes.length } }
  | .varDct =>
    { zeroed ((s.allocatedAll planes).allocatedAll side)
        (handles s planes.length 3 ++ handles s (planes.length + 10) 1) with
      grp := { s.grp with
        planes := handles s 0 planes.length
        side := some (Side.ofHandles (handles s planes.length side.length)) } }

/-- A stage has the function `f`. -/
def Computes (f : StageFn) (st : RStage) : Prop :=
  (∃ set, st = .inplace f set) ∨ ∃ set bx byy sx sy up, st = .inout f set bx byy sx sy up

/-- Before the first Save of a list stands an InPlace stage with the function `f` on at least the channels `set`. -/
def PlacedFor (f : StageFn) (set : List Nat) (l : List RStage) : Prop :=
  ∃ pre all rest, l = pre ++ .inplace f all :: rest ∧ (∀ c ∈ set, c ∈ all) ∧
    ∀ st ∈ pre, ∀ channel plane, st ≠ .save channel plane

/-- The state with LFGLOBAL and a render pipeline over `n` planes, PASSES_READY all zero. -/
def withPipeline (s : State) (ih : ImageHeader) (fh : FrameHeader) (g : LfGlobal) (n : Nat) : State :=
  { s with
    grp := { s.grp with lfGlobal := some g }
    rnd := some
      { stages := stagesOf s.inp.params { image := ih, frame := fh, lf := g, opt := s.ctl.opt } n
        chans := [], next := []
        ready := List.replicate fh.groups.length (List.replicate n 0)
        rendered := 0, checked := false } }

end Sys2Proof.Claims

/-- S.LFGLOBAL: the frame's buffers are allocated, the coefficient planes zero, the six members are parsed in the order of
the rule, the render pipeline is built with PASSES_READY all zero, and the frame's global Modular image is decoded, here
one without channels (43_group_decoder.md R242, R250, 46_render_pipeline.md R361). No allocation is refused
(notes/assumptions/61.md). The planes' sizes are notes/assumptions/16.md, and that all six members are asked for in either encoding notes/assumptions/52.md (DESIGN
CHOICE); the zeros of the map of first blocks are notes/assumptions/29.md. The stage list is what BuildPipeline gives with
what the options require of it: no colour-management stage without OPT.CMS; before the first Save a stage that mixes the
spot channels into all colour channels, by some formula, when OPT.RENDER_SPOT_COLORS is 1 and the image has spot channels, else none; and
one that multiplies all colour channels by alpha when OPT.PREMULTIPLY_OUTPUT is 1 and the image has an alpha channel, else
none (R372, R373, R375; notes/assumptions/50.md). -/
def Obligations.LfGlobalSection : Prop :=
  (∀ (s : State) (sec : Nat) (x : Section) (ih : ImageHeader) (fh : FrameHeader) (g : LfGlobal) (k m n : Nat)
    (spec : ModSpec) (coder : ScopeSpec),
    s.par.sect[sec]? = some x → s.par.imageHeader = some ih → s.par.frame = some fh →
    (∀ j e, (planeShapes s.inp.params ih fh)[j]? = some e → s.grants (s.img.next + j) e = true) →
    (fh.encoding = .varDct → ∀ j e, (sideShapes s.inp.params fh)[j]? = some e →
      s.grants (s.img.next + (planeShapes s.inp.params ih fh).length + j) e = true) →
    Sys2Proof.Claims.SideData (Sys2Proof.Claims.opened s x) g k →
    Sys2Proof.Claims.EmptyModular ((Sys2Proof.Claims.opened s x).moved k) .global spec coder m n →
    exec (.sLfGlobal sec) s = .next (Sys2Proof.Claims.modularClosed (Sys2Proof.Claims.withPipeline
      (Sys2Proof.Claims.withBuffers s fh (planeShapes s.inp.params ih fh) (sideShapes s.inp.params fh))
      ih fh g (planeShapes s.inp.params ih fh).length))) ∧
  (∀ (p : Params) (a : PipelineInput) (n : Nat),
    (a.opt.cms = none → ∀ st ∈ stagesOf p a n, ¬ Sys2Proof.Claims.Computes .cms st ∧
      ¬ Sys2Proof.Claims.Computes .cmsInplace st) ∧
    (a.opt.renderSpotColors = true ∧ (∃ k ∈ a.image.extra, Cfg.isSpot p k = true) →
      ∃ id, Sys2Proof.Claims.PlacedFor (.spot id) (spotSet p a.image n) (stagesOf p a n)) ∧
    (¬ (a.opt.renderSpotColors = true ∧ ∃ k ∈ a.image.extra, Cfg.isSpot p k = true) →
      ∀ st ∈ stagesOf p a n, ∀ id, ¬ Sys2Proof.Claims.Computes (.spot id) st) ∧
    (a.opt.premultiplyOutput = true ∧ (∃ k ∈ a.image.extra, Cfg.isAlpha p k = true) →
      Sys2Proof.Claims.PlacedFor .premultiply (List.range (n - a.image.extra.length)) (stagesOf p a n)) ∧
    (¬ (a.opt.premultiplyOutput = true ∧ ∃ k ∈ a.image.extra, Cfg.isAlpha p k = true) →
      ∀ st ∈ stagesOf p a n, ¬ Sys2Proof.Claims.Computes .premultiply st)) ∧
  (∀ (p : Params) (ih : ImageHeader) (n c : Nat), c ∈ spotSet p ih n ↔ c < n - ih.extra.length ∨
    ∃ i k, ih.extra[i]? = some k ∧ Cfg.isSpot p k = true ∧ c = n - ih.extra.length + i)

namespace Sys2Proof.Claims

/-- A buffer that is no view. -/
def Owned (s : State) (h : Nat) : Prop := ∃ b, assocGet s.img.bufs h = some b ∧ b.ownership = .owned

/-- The positions that first blocks cover, each with the block that covers it. -/
def coveredCells (p : Params) (l : List BlockMeta) : List ((Nat × Nat) × BlockMeta) :=
  l.flatMap fun m => (coveredPositions p m.t m.bx m.byy).map fun b => (b, m)

/-- The state with HFMETA's entry written at one covered position: the transform, 1 at the first block and 2 at another
position, the quant index. -/
def cellPut (hm : HfMeta) (s : State) (e : (Nat × Nat) × BlockMeta) : State :=
  ((s.putSample hm.transform e.1.1 e.1.2 (.nat e.2.t)).putSample hm.first e.1.1 e.1.2
    (.nat (if e.1 = (e.2.bx, e.2.byy) then 1 else 2))).putSample hm.quant e.1.1 e.1.2 (.nat e.2.q)

/-- The state with an LF group's blocks, LF values and colour-correlation factors written into the frame's buffers. -/
def mapsPut (p : Params) (side : Side) (s : State) (maps : LfMaps) : State :=
  maps.corr.foldl (fun t e => (t.putSample side.maps.corrX e.tx e.ty (.int e.x)).putSample side.maps.corrB e.tx e.ty
      (.int e.b))
    (maps.lf.foldl (fun t e => t.putSample ((side.lf[e.1.1]?).getD 0) e.1.2.1 e.1.2.2 (.int e.2))
      ((coveredCells p maps.blocks).foldl (cellPut side.maps) s))

/-- First blocks that fit: inside one group and the LF group `r`, over positions nothing covers yet, none twice; and
HFMETA's three block maps may be written there, of which the quant indexes are not the first blocks. -/
structure BlocksFit (s : State) (p : Params) (fh : FrameHeader) (r : Rect) (hm : HfMeta) (l : List BlockMeta) :
    Prop where
  inside : ∀ m ∈ l, insideGroup p fh r m = true
  apart : ((coveredCells p l).map Prod.fst).Nodup
  free : ∀ e ∈ coveredCells p l, s.sample hm.first e.1.1 e.1.2 = some (.nat 0)
  room : ∀ e ∈ coveredCells p l, s.canWrite .nat hm.transform e.1.1 e.1.2 = true ∧
    s.canWrite .nat hm.first e.1.1 e.1.2 = true ∧ s.canWrite .nat hm.quant e.1.1 e.1.2 = true
  owned : Owned s hm.transform ∧ Owned s hm.first ∧ Owned s hm.quant
  maps : hm.first ≠ hm.quant

/-- The LF values and tiles of the maps lie in the LF group and may be written. -/
structure ValuesFit (s : State) (p : Params) (r : Rect) (side : Side) (maps : LfMaps) : Prop where
  inside : insideLfGroup p r maps = true
  lf : ∀ e ∈ maps.lf, ∃ h, side.lf[e.1.1]? = some h ∧ s.canWrite .int h e.1.2.1 e.1.2.2 = true
  corr : ∀ e ∈ maps.corr, s.canWrite .int side.maps.corrX e.tx e.ty = true ∧
    s.canWrite .int side.maps.corrB e.tx e.ty = true

/-- The channels of a first block of type `t` at (bx, by), one after the other: B.PREDNZ, B.NZ, B.COEFFS. -/
inductive ChannelsRun (pass bx byy t : Nat) : List Nat → State → State → Prop
  | done {s : State} : ChannelsRun pass bx byy t [] s s
  | channel {c pred nz : Nat} {rest : List Nat} {s a b u v : State} : predNz c bx byy s = .ok pred a →
      decodeNz c pred t a = .ok nz b → decodeCoeffs c t nz pass b = .ok () u →
      ChannelsRun pass bx byy t rest u v → ChannelsRun pass bx byy t (c :: rest) s v

/-- The block positions of a group, one after the other: the first block of a transform has its channels decoded, then
B.DEQUANT and B.XFORM; nothing happens at another position a transform covers. -/
inductive BlocksRun (pass : Nat) (r : Rect) : List (Nat × Nat) → State → State → Prop
  | done {s : State} : BlocksRun pass r [] s s
  | first {b : Nat × Nat} {t : Nat} {hm : HfMeta} {rest : List (Nat × Nat)} {s u v w x : State} :
      groupRect s = .ok r s → s.grp.hfMeta = some hm →
      s.sample hm.first (framePos r b).1 (framePos r b).2 = some (.nat 1) →
      s.sample hm.transform (framePos r b).1 (framePos r b).2 = some (.nat t) →
      ChannelsRun pass b.1 b.2 t (Cfg.channelOrder s.inp.params) s u → dequantBlock b.1 b.2 t u = .ok () v →
      xformBlock b.1 b.2 t v = .ok () w → BlocksRun pass r rest w x → BlocksRun pass r (b :: rest) s x
  | covered {b : Nat × Nat} {hm : HfMeta} {e : Sample} {rest : List (Nat × Nat)} {s x : State} :
      groupRect s = .ok r s → s.grp.hfMeta = some hm →
      s.sample hm.first (framePos r b).1 (framePos r b).2 = some e → e ≠ .nat 0 → e ≠ .nat 1 →
      BlocksRun pass r rest s x → BlocksRun pass r (b :: rest) s x

/-- The block positions of a group of rectangle `r` in raster order. -/
def groupBlocks (r : Rect) : List (Nat × Nat) :=
  (List.range ((r.w + 7) / 8 * ((r.h + 7) / 8))).map fun k => (k % ((r.w + 7) / 8), k / ((r.w + 7) / 8))

/-- The state at the start of a VarDCT group: the HF block state is new. -/
def groupStarted (s : State) (g pass : Nat) : State :=
  s.setGrp fun x =>
    { x with hf := some { group := g, pass := pass, blk := (0, 0), nzMap := [], nzLeft := 0, scanPos := 0, prevNz := false } }

/-- The state at the end of a VarDCT group: the scope's ANS state, the HF block state and the section's bit position are
gone. -/
def groupEnded (s : State) (pass : Nat) : State :=
  { s.withScope (.ac pass) { s.scope (.ac pass) with ansState := none } with
    par := { s.par with reader := none }, grp := { s.grp with hf := none }, ret := .none }

end Sys2Proof.Claims

/-- S.LFGROUP and S.HFGROUP. In a MODULAR frame both decode a Modular channel list, here one without channels. In a
VarDCT frame S.LFGROUP writes the LF values, HFMETA's block maps and the tile map into the frame's buffers; a transform id
outside the catalog is a Transform error, a transform that leaves its group or covers a position twice a Format error. In
a VarDCT frame S.HFGROUP goes through the group's block positions in raster order: for the first block of a transform, per
channel B.PREDNZ, B.NZ and B.COEFFS, then B.DEQUANT and B.XFORM; at the end the scope's state is checked (43_group_decoder.md
R240, R243, R245). The catalog is notes/assumptions/10.md; that an LfGroup section holds exactly one Modular scope is
notes/assumptions/59.md (DESIGN CHOICE); that blocks lie inside one group and the LF group, that a
position no transform covers is a Format error, and the values 0, 1 and 2 of the map of first blocks are
notes/assumptions/29.md. -/
def Obligations.GroupSections : Prop :=
  (∀ (s : State) (sec g : Nat) (x : Section) (fh : FrameHeader) (m n : Nat) (spec : ModSpec) (coder : ScopeSpec),
    s.par.sect[sec]? = some x → s.par.frame = some fh → fh.encoding = .modular →
    Sys2Proof.Claims.EmptyModular (Sys2Proof.Claims.opened s x) (.lf g) spec coder m n →
    exec (.sLfGroup sec g) s = .next (Sys2Proof.Claims.modularClosed s)) ∧
  (∀ (s : State) (sec g p : Nat) (x : Section) (fh : FrameHeader) (m n : Nat) (spec : ModSpec) (coder : ScopeSpec),
    s.par.sect[sec]? = some x → s.par.frame = some fh → fh.encoding = .modular →
    Sys2Proof.Claims.EmptyModular (Sys2Proof.Claims.opened s x) (.hf g p) spec coder m n →
    exec (.sHfGroup sec g p) s = .next (Sys2Proof.Claims.modularClosed s)) ∧
  (∀ (s : State) (sec g : Nat) (x : Section) (fh : FrameHeader) (m n : Nat) (spec : ModSpec) (coder : ScopeSpec)
    (maps : LfMaps) (side : Side) (r : Rect),
    s.par.sect[sec]? = some x → s.par.frame = some fh → fh.encoding = .varDct →
    Sys2Proof.Claims.EmptyModular (Sys2Proof.Claims.opened s x) (.lf g) spec coder m n →
    maps = Cfg.lfMaps s.inp.params { group := g, frame := fh, channels := [] } → s.grp.side = some side →
    fh.lfGroups[g]? = some r →
    ((∃ b ∈ maps.blocks, xtype s.inp.params b.t = none) → exec (.sLfGroup sec g) s = .next (trapEntry .transform s)) ∧
    ((∀ b ∈ maps.blocks, (xtype s.inp.params b.t).isSome = true) →
      (Sys2Proof.Claims.BlocksFit s s.inp.params fh r side.maps maps.blocks →
        Sys2Proof.Claims.ValuesFit s s.inp.params r side maps →
        exec (.sLfGroup sec g) s = .next (Sys2Proof.Claims.modularClosed (Sys2Proof.Claims.mapsPut s.inp.params side
          (s.setGrp fun y => { y with hfMeta := some side.maps }) maps))) ∧
      (insideLfGroup s.inp.params r maps = false → exec (.sLfGroup sec g) s = .next (trapEntry .format s)) ∧
      (∀ pre b rest, maps.blocks = pre ++ b :: rest → Sys2Proof.Claims.ValuesFit s s.inp.params r side maps →
        Sys2Proof.Claims.BlocksFit s s.inp.params fh r side.maps pre →
        (insideGroup s.inp.params fh r b = false ∨
          ∃ at_ more, coveredPositions s.inp.params b.t b.bx b.byy = at_ :: more ∧
            (at_ ∈ (Sys2Proof.Claims.coveredCells s.inp.params pre).map Prod.fst ∨
              ∃ v, s.sample side.maps.first at_.1 at_.2 = some v ∧ v ≠ .nat 0)) →
        ∃ u, exec (.sLfGroup sec g) s = .next (trapEntry .format u)))) ∧
  (∀ (s s1 s2 s3 : State) (sec g pass : Nat) (x : Section) (fh : FrameHeader) (r : Rect),
    s.par.sect[sec]? = some x → s.par.frame = some fh → fh.encoding = .varDct → fh.groups[g]? = some r →
    scopeStart (.ac pass) (Sys2Proof.Claims.groupStarted (Sys2Proof.Claims.opened s x) g pass) = .ok () s1 →
    Sys2Proof.Claims.BlocksRun pass r (Sys2Proof.Claims.groupBlocks r) s1 s2 →
    scopeFinal (.ac pass) s2 = .ok () s3 →
    exec (.sHfGroup sec g pass) s = .next (Sys2Proof.Claims.groupEnded s3 pass)) ∧
  (∀ (s s1 s2 : State) (sec g pass : Nat) (x : Section) (fh : FrameHeader) (r : Rect) (hm : HfMeta) (b : Nat × Nat)
    (pre rest : List (Nat × Nat)),
    s.par.sect[sec]? = some x → s.par.frame = some fh → fh.encoding = .varDct → fh.groups[g]? = some r →
    scopeStart (.ac pass) (Sys2Proof.Claims.groupStarted (Sys2Proof.Claims.opened s x) g pass) = .ok () s1 →
    Sys2Proof.Claims.groupBlocks r = pre ++ b :: rest → Sys2Proof.Claims.BlocksRun pass r pre s1 s2 →
    groupRect s2 = .ok r s2 → s2.grp.hfMeta = some hm →
    s2.sample hm.first (framePos r b).1 (framePos r b).2 = some (.nat 0) →
    exec (.sHfGroup sec g pass) s = .next (trapEntry .format s2))

namespace Sys2Proof.Claims

/-- Pass `p` of S.HFGLOBAL at bit `pos` of its section: its scan orders take `a` bits, its AC scope, which comes with
preset tables, `b`. -/
structure PassRead (s : State) (x : Section) (p pos a b : Nat) (ord : List (OrderKey × List Nat)) (spec : ScopeSpec) :
    Prop where
  orders : ((opened s x).moved pos).answers (Cfg.scanOrders s.inp.params p) ord a
  permutations : ord.all orderOk = true
  scope : ((opened s x).moved (pos + a)).answers (Cfg.scopeSpec s.inp.params (.ac p)) spec b
  preset : spec.las = [] ∧ spec.alphabets = []

end Sys2Proof.Claims

/-- S.HFGLOBAL: dequant matrices, then for every pass its scan orders and the tables of its AC scope, here of scopes
that come with preset tables (43_group_decoder.md R244). In every pass a scan order that is no permutation is a Format
error; matrices and scan orders that their function rejects trap with its kind, Format or the Checksum of a nested
entropy-coded part. That a matrix of an id outside the catalog, or of another length, is a Transform error, that these two
functions carry a Checksum, and that the AC tables are kept with no ANS state, is notes/assumptions/30.md (DESIGN
CHOICE); the catalog is notes/assumptions/10.md. -/
def Obligations.HfGlobalSection : Prop :=
  (∀ (s : State) (sec : Nat) (x : Section) (fh : FrameHeader) (k : Kind),
    s.par.sect[sec]? = some x → s.par.frame = some fh →
    firstAnswer (Cfg.dequantMatrices s.inp.params) (Sys2Proof.Claims.opened s x).bitsHere = .malformed k →
    exec (.sHfGlobal sec) s = .next (trapEntry k s) ∧ (k = .format ∨ k = .checksum)) ∧
  (∀ (s : State) (sec : Nat) (x : Section) (fh : FrameHeader) (dq : List ((Nat × Nat) × List F32)) (n : Nat)
    (pos a b : Nat → Nat) (ord : Nat → List (OrderKey × List Nat)) (spec : Nat → ScopeSpec),
    s.par.sect[sec]? = some x → s.par.frame = some fh →
    (Sys2Proof.Claims.opened s x).answers (Cfg.dequantMatrices s.inp.params) dq n →
    (¬ (dq.all (matrixOk s.inp.params) = true) → exec (.sHfGlobal sec) s = .next (trapEntry .transform s)) ∧
    (dq.all (matrixOk s.inp.params) = true → pos 0 = n →
      (∀ p, p < fh.numPasses →
        Sys2Proof.Claims.PassRead s x p (pos p) (a p) (b p) (ord p) (spec p) ∧ pos (p + 1) = pos p + a p + b p) →
      ∃ ent : List (ScopeId × ScopeTables),
        exec (.sHfGlobal sec) s = .next
          { s with
            par := { s.par with reader := none }
            grp := { s.grp with hfGlobal := some { dequant := dq, order := (List.range fh.numPasses).map ord } }
            ent := ent, ret := .none } ∧
        (∀ p, p < fh.numPasses → assocGet ent (.ac p) = some
          { coder := (spec p).coder, codes := [], htabs := (spec p).preset, ansState := none }) ∧
        (∀ sc, (∀ p, p < fh.numPasses → sc ≠ .ac p) → assocGet ent sc = assocGet s.ent sc)) ∧
    (∀ q, dq.all (matrixOk s.inp.params) = true → pos 0 = n → q < fh.numPasses →
      (∀ p, p < q →
        Sys2Proof.Claims.PassRead s x p (pos p) (a p) (b p) (ord p) (spec p) ∧ pos (p + 1) = pos p + a p + b p) →
      (((Sys2Proof.Claims.opened s x).moved (pos q)).answers (Cfg.scanOrders s.inp.params q) (ord q) (a q) →
        ¬ ((ord q).all orderOk = true) → exec (.sHfGlobal sec) s = .next (trapEntry .format s)) ∧
      (∀ k, firstAnswer (Cfg.scanOrders s.inp.params q) ((Sys2Proof.Claims.opened s x).moved (pos q)).bitsHere =
          .malformed k →
        exec (.sHfGlobal sec) s = .next (trapEntry k s) ∧ (k = .format ∨ k = .checksum))))

/-- A section decode never waits for bytes: none of the four, nor P.DISPATCH, reports Incomplete (40_parser.md R164,
60_exceptions.md R414). -/
def Obligations.SectionsNeverWait : Prop :=
  ∀ (i : Instr) (s t : State),
    (i = .pDispatch ∨ (∃ sec, i = .sLfGlobal sec) ∨ (∃ sec g, i = .sLfGroup sec g) ∨ (∃ sec, i = .sHfGlobal sec) ∨
      ∃ sec g p, i = .sHfGroup sec g p) →
    exec i s = .next t → ∀ n, t.ret ≠ .result (.err .incompleteInput n)

/-! ### ANS -/

namespace Sys2Proof.Claims

/-- The operation of each histogram encoding. -/
def histOp (k : HistKind) (sc : ScopeId) (las : Nat) : Instr :=
  match k with
  | .single => .ansHistSingle sc las
  | .two => .ansHistTwo sc las
  | .flat => .ansHistFlat sc las
  | .complex => .ansHistComplex sc las

/-- A histogram of one of the four encodings follows: its table is `d` and it takes `n` bits. -/
def HistogramHere (s : State) (las : Nat) (k : HistKind) (d : List Nat) (n : Nat) : Prop :=
  match k with
  | .single => ∃ x, s.answers (Cfg.symbolIndex s.inp.params) x n ∧ x < 2 ^ las ∧
      d = (List.range (2 ^ las)).map fun i => if i = x then 4096 else 0
  | .two => ∃ a b m1 m2 q, s.answers (Cfg.symbolIndex s.inp.params) a m1 ∧
      (s.moved m1).answers (Cfg.symbolIndex s.inp.params) b m2 ∧ a < 2 ^ las ∧ b < 2 ^ las ∧ a ≠ b ∧
      (s.moved (m1 + m2)).canRead 12 ∧ q = natOfBits ((s.moved (m1 + m2)).bitsHere.take 12) ∧ n = m1 + m2 + 12 ∧
      d = (List.range (2 ^ las)).map fun i => if i = a then q else if i = b then 4096 - q else 0
  | .flat => ∃ m, s.answers (Cfg.alphabetSize s.inp.params) m n ∧ 1 ≤ m ∧ m ≤ 2 ^ las ∧
      d = (List.range (2 ^ las)).map fun i =>
        if i < 4096 % m then 4096 / m + 1 else if i < m then 4096 / m else 0
  | .complex => s.answers (Cfg.complexCounts s.inp.params las) d n ∧ d.length = 2 ^ las ∧ d.sum = 4096

/-- A configuration function rejects the bits that follow. -/
def Rejects {α : Type} (s : State) (f : Bits → Answer α) : Prop := ∃ k, firstAnswer f s.bitsHere = .malformed k

/-- Of one of the four encodings follow bits that are no histogram, which shows after `n` of them: its operands lie outside
the table, its table breaks the sum rule, or a field is malformed. -/
def NoHistogramHere (s : State) (las : Nat) (k : HistKind) (n : Nat) : Prop :=
  match k with
  | .single => (∃ x, s.answers (Cfg.symbolIndex s.inp.params) x n ∧ 2 ^ las ≤ x) ∨
      (n = 0 ∧ Rejects s (Cfg.symbolIndex s.inp.params))
  | .two => (∃ a b m1 m2, s.answers (Cfg.symbolIndex s.inp.params) a m1 ∧
        (s.moved m1).answers (Cfg.symbolIndex s.inp.params) b m2 ∧ n = m1 + m2 ∧ (2 ^ las ≤ a ∨ 2 ^ las ≤ b ∨ a = b)) ∨
      (n = 0 ∧ Rejects s (Cfg.symbolIndex s.inp.params)) ∨
      (∃ a, s.answers (Cfg.symbolIndex s.inp.params) a n ∧ Rejects (s.moved n) (Cfg.symbolIndex s.inp.params))
  | .flat => (∃ m, s.answers (Cfg.alphabetSize s.inp.params) m n ∧ (m = 0 ∨ 2 ^ las < m)) ∨
      (n = 0 ∧ Rejects s (Cfg.alphabetSize s.inp.params))
  | .complex => (∃ d, s.answers (Cfg.complexCounts s.inp.params las) d n ∧ ¬ (d.length = 2 ^ las ∧ d.sum = 4096)) ∨
      (n = 0 ∧ Rejects s (Cfg.complexCounts s.inp.params las))

/-- The state with a histogram appended to a scope, its table compiled or not. -/
def histStored (s : State) (sc : ScopeId) (las : Nat) (d : List Nat) (table : Option AliasTable) : State :=
  s.withScope sc { s.scope sc with codes := (s.scope sc).codes ++ [{ las := las, dist := d, table := table }] }

end Sys2Proof.Claims

/-- The histogram operations: each of the four encodings gives its table, ANS.HIST takes the encoding the selector names
and compiles the alias table; a malformed body of the complex encoding is a Format error (41_ans.md R191 to R195; the fields of the two-symbol encoding and where the remainder of
an even distribution goes are general knowledge the spec marks). That `log_alphabet_size` is at most 12 is
notes/assumptions/41.md (DESIGN CHOICE). -/
def Obligations.HistogramOperations : Prop :=
  (∀ (s : State) (sc : ScopeId) (las : Nat) (k : HistKind) (d : List Nat) (n : Nat), las ≤ 12 →
    Sys2Proof.Claims.HistogramHere s las k d n →
    exec (Sys2Proof.Claims.histOp k sc las) s =
      .next ((Sys2Proof.Claims.histStored (s.moved n) sc las d none).setRet (.nats d))) ∧
  (∀ (s : State) (sc : ScopeId) (las : Nat) (k : HistKind) (d : List Nat) (m n : Nat), las ≤ 12 →
    s.answers (Cfg.ansHistKind s.inp.params) k m → Sys2Proof.Claims.HistogramHere (s.moved m) las k d n →
    exec (.ansHist sc las) s =
      .next ((Sys2Proof.Claims.histStored (s.moved (m + n)) sc las d (some (aliasTable d las))).setRet (.nats d))) ∧
  (∀ (s : State) (sc : ScopeId) (las : Nat) (k : Kind),
    firstAnswer (Cfg.complexCounts s.inp.params las) s.bitsHere = .malformed k →
    exec (.ansHistComplex sc las) s = .next (trapEntry .format s))

/-- The sum rule: every histogram operation that completes has decoded a table of exactly `2^las` entries that sum to
4096; a histogram that cannot be made to satisfy it is a Format error, in each of the four encodings, by its own operation
and through ANS.HIST: a symbol outside the table, two equal symbols, an alphabet size that is 0 or larger than the table,
complex counts of another length or sum, or a field that its reader rejects (41_ans.md R196, with R191 to R195). -/
def Obligations.HistogramSumRule : Prop :=
  (∀ (s t : State) (sc : ScopeId) (las : Nat) (i : Instr) (d : List Nat),
    (i = .ansHist sc las ∨ ∃ k, i = Sys2Proof.Claims.histOp k sc las) → exec i s = .next t → t.ret = .nats d →
    d.length = 2 ^ las ∧ d.sum = 4096) ∧
  (∀ (s : State) (sc : ScopeId) (las : Nat) (k : HistKind) (n : Nat), Sys2Proof.Claims.NoHistogramHere s las k n →
    exec (Sys2Proof.Claims.histOp k sc las) s = .next (trapEntry .format (s.moved n))) ∧
  (∀ (s : State) (sc : ScopeId) (las : Nat) (k : HistKind) (m n : Nat), s.answers (Cfg.ansHistKind s.inp.params) k m →
    Sys2Proof.Claims.NoHistogramHere (s.moved m) las k n →
    exec (.ansHist sc las) s = .next (trapEntry .format (s.moved (m + n)))) ∧
  (∀ (s : State) (sc : ScopeId) (las : Nat), Sys2Proof.Claims.Rejects s (Cfg.ansHistKind s.inp.params) →
    exec (.ansHist sc las) s = .next (trapEntry .format s))

/-- ANS.ALIAS compiles a histogram that satisfies the sum rule in place; ANS.INIT loads the state with the next 32 bits;
ANS.FINAL passes exactly on ANS_FINAL_STATE, and any other state is a Checksum error (41_ans.md R198, R200, R203).
The alias construction and the 32-bit load are general knowledge the spec marks (notes/assumptions/9.md, PRESUMED). -/
def Obligations.AnsTablesAndState : Prop :=
  (∀ (s : State) (sc : ScopeId) (hist las : Nat) (c : Code), (s.scope sc).codes[hist]? = some c → las ≤ 12 →
    c.dist.length = 2 ^ las → c.dist.sum = 4096 →
    exec (.ansAlias sc hist las) s = .next ((s.withScope sc { s.scope sc with
      codes := (s.scope sc).codes.set hist
        { las := las, dist := c.dist, table := some (aliasTable c.dist las) } }).setRet .none)) ∧
  (∀ (s : State) (sc : ScopeId), s.canRead 32 →
    exec (.ansInit sc) s = .next (((s.moved 32).withScope sc { s.scope sc with
      ansState := some (BitVec.ofNat 32 (natOfBits (s.bitsHere.take 32))) }).setRet .none)) ∧
  (∀ (s : State) (sc : ScopeId) (w : Word), (s.scope sc).ansState = some w →
    exec (.ansFinal sc) s = .next
      (if w = Cfg.ansFinalState s.inp.params then s.setRet .none else trapEntry .checksum s))

/-- The alias map of every histogram that satisfies the sum rule is a bijection from the 4096 slots to the pairs of a
symbol and an offset below its probability (41_ans.md R199, 90_conflicts.md C1). -/
def Obligations.AliasMapIsBijection : Prop :=
  ∀ (las : Nat) (d : List Nat), las ≤ 12 → d.length = 2 ^ las → d.sum = 4096 →
    (∀ r, r < 4096 → (aliasLookup (aliasTable d las) las r).1 < 2 ^ las ∧
      (aliasLookup (aliasTable d las) las r).2 < (d[(aliasLookup (aliasTable d las) las r).1]?).getD 0) ∧
    (∀ r r', r < 4096 → r' < 4096 →
      aliasLookup (aliasTable d las) las r = aliasLookup (aliasTable d las) las r' → r = r') ∧
    (∀ x o, x < 2 ^ las → o < (d[x]?).getD 0 → ∃ r, r < 4096 ∧ aliasLookup (aliasTable d las) las r = (x, o))

/-- ANS.READ: the slot is the state's low 12 bits; the new state is `D[symbol] * (state shr 12) + offset`, refilled with
16 bits exactly when it is below 2^16 (41_ans.md R201, R202; the update formula is general knowledge the spec marks). -/
def Obligations.AnsReadSymbol : Prop :=
  ∀ (s : State) (sc : ScopeId) (ctx : Nat) (c : Code) (a : AliasTable) (w : Word) (sym off x : Nat),
    (s.scope sc).codes[Cfg.contextToHistogram s.inp.params sc ctx]? = some c → c.table = some a →
    (s.scope sc).ansState = some w → aliasLookup a c.las (w.toNat % 4096) = (sym, off) →
    x = (c.dist[sym]?).getD 0 * (w.toNat / 4096) + off →
    (2 ^ 16 ≤ x → exec (.ansRead sc ctx) s =
      .next ((s.withScope sc { s.scope sc with ansState := some (BitVec.ofNat 32 x) }).setRet (.nat sym))) ∧
    (x < 2 ^ 16 → s.canRead 16 → exec (.ansRead sc ctx) s =
      .next (((s.moved 16).withScope sc { s.scope sc with
        ansState := some (BitVec.ofNat 32 (x * 2 ^ 16 + natOfBits (s.bitsHere.take 16))) }).setRet (.nat sym)))

/-- No update of the ANS state wraps: below 2^32 before, it is below 2^32 after, with or without a refill (41_ans.md
R206). -/
def Obligations.AnsUpdateNeverWraps : Prop :=
  ∀ (d : List Nat) (sym off state b : Nat), d.sum = 4096 → off < (d[sym]?).getD 0 → state < 2 ^ 32 →
    ansUpdate (nth d sym) off state < 2 ^ 32 ∧
    (ansUpdate (nth d sym) off state < 2 ^ 16 → b < 2 ^ 16 → ansUpdate (nth d sym) off state * 2 ^ 16 + b < 2 ^ 32)

/-! ### Huffman -/

/-- HUFF.SIMPLE, HUFF.LENGTHS and HUFF.BUILD. The simple path takes one to four distinct symbols of the alphabet, for
four of them and after that check one bit more, and appends their table. The general path takes code lengths, and "validates that total available code space (sum of
2^(15-len)) reaches exactly zero, and only then builds the lookup table": any other lengths, and a malformed
small code, are a Format error (42_huffman.md R222 to R226). The lengths of the simple path (R223) are general knowledge
the spec marks (notes/assumptions/9.md, PRESUMED); that HUFF.BUILD checks its operand is notes/assumptions/37.md, and that
an answer of no symbol or more than four is a Format error notes/assumptions/42.md (DESIGN CHOICE). -/
def Obligations.HuffmanTables : Prop :=
  (∀ (s : State) (sc : ScopeId) (a n : Nat) (syms : List Nat),
    s.answers (Cfg.simpleSymbols s.inp.params a) syms n → 1 ≤ syms.length → syms.length ≤ 4 → syms.Nodup →
    (∀ x ∈ syms, x < a) →
    (syms.length ≠ 4 → exec (.huffSimple sc a) s = .next (((s.moved n).withScope sc { s.scope sc with
      htabs := (s.scope sc).htabs ++ [simpleTable (Cfg.huffTableBits s.inp.params) a syms false] }).setRet .none)) ∧
    (syms.length = 4 → (s.moved n).canRead 1 → ∀ sel, (s.moved n).bitsHere.head? = some sel →
      exec (.huffSimple sc a) s = .next ((((s.moved n).moved 1).withScope sc { s.scope sc with
        htabs := (s.scope sc).htabs ++ [simpleTable (Cfg.huffTableBits s.inp.params) a syms sel] }).setRet .none)) ∧
    (syms.length = 4 → s.par.reader ≠ none → (s.moved n).bitsHere = [] →
      exec (.huffSimple sc a) s = .next (trapEntry .format (s.moved n)))) ∧
  (∀ (s : State) (sc : ScopeId) (a n : Nat) (syms : List Nat),
    s.answers (Cfg.simpleSymbols s.inp.params a) syms n →
    (¬ syms.Nodup ∨ (∃ x ∈ syms, a ≤ x) ∨ syms = [] ∨ 4 < syms.length) →
    exec (.huffSimple sc a) s = .next (trapEntry .format (s.moved n))) ∧
  (∀ (s : State) (sc : ScopeId) (a skip n : Nat) (l : List Nat),
    s.answers (Cfg.codeLengths s.inp.params a skip) l n → l.length ≤ a → (∀ x ∈ l, x ≤ 15) →
    exec (.huffLengths sc a skip) s = .next
      (if (l.map fun x => if x = 0 then 0 else 2 ^ (15 - x)).sum = 2 ^ 15 then
        (s.moved n).setRet (.nats (l ++ List.replicate (a - l.length) 0))
      else trapEntry .format (s.moved n))) ∧
  (∀ (s : State) (sc : ScopeId) (a skip : Nat) (k : Kind),
    firstAnswer (Cfg.codeLengths s.inp.params a skip) s.bitsHere = .malformed k →
    exec (.huffLengths sc a skip) s = .next (trapEntry .format s)) ∧
  (∀ (s : State) (sc : ScopeId) (l : List Nat), (∀ x ∈ l, x ≤ 15) →
    exec (.huffBuild sc l) s = .next
      (if (l.map fun x => if x = 0 then 0 else 2 ^ (15 - x)).sum = 2 ^ 15 then
        (s.withScope sc { s.scope sc with
          htabs := (s.scope sc).htabs ++ [buildTable (Cfg.huffTableBits s.inp.params) l] }).setRet .none
      else trapEntry .format s))

/-- HUFF.READ: one root lookup; for an entry longer than the root's index, the root's bits are consumed and one
second-level lookup follows; only the codeword's bits are consumed (42_huffman.md R227, R228). The formula of
R228 is general knowledge the spec marks: the source fixes only the number of lookups (notes/assumptions/9.md, PRESUMED).
Inside a section bits past its end peek as 0 (decision D35). R228 looks up HUFF_TABLE_BITS bits; that a preset table, and
so every table here, carries its own root width is notes/assumptions/44.md (DESIGN CHOICE). -/
def Obligations.HuffmanRead : Prop :=
  ∀ (s : State) (sc : ScopeId) (ctx : Nat) (t : HuffTable) (e : HuffEntry),
    (s.scope sc).htabs[Cfg.contextToHistogram s.inp.params sc ctx]? = some t →
    (s.par.reader = none → t.tableBits ≤ s.bitsHere.length) →
    t.root[natOfBits (s.bitsHere.take t.tableBits)]? = some e →
    (e.bits ≤ t.tableBits → s.canRead e.bits →
      exec (.huffRead sc ctx) s = .next ((s.moved e.bits).setRet (.nat e.value))) ∧
    (∀ (sub : List HuffEntry) (e2 : HuffEntry), t.tableBits < e.bits → s.canRead t.tableBits →
      (s.par.reader = none → e.bits - t.tableBits ≤ (s.moved t.tableBits).bitsHere.length) →
      t.subs[e.value]? = some sub →
      sub[natOfBits ((s.moved t.tableBits).bitsHere.take (e.bits - t.tableBits))]? = some e2 →
      (s.moved t.tableBits).canRead e2.bits →
      exec (.huffRead sc ctx) s = .next ((s.moved (t.tableBits + e2.bits)).setRet (.nat e2.value)))

/-- "For any code-length sequence satisfying the Kraft equality, Huffman table construction succeeds and every codeword
decodes": every symbol of length 1 to 15 has a codeword of that length, and a stream that begins with it decodes to the
symbol and consumes exactly its bits, through one root lookup and at most one second-level lookup, which is all
HUFF.READ does (42_huffman.md R227). -/
def Obligations.HuffmanTableDecodesEveryCodeword : Prop :=
  ∀ (tb : Nat) (lens : List Nat), lengthsOk lens = true →
    (∀ i l, lens[i]? = some l → 0 < l → ∃ w ∈ codewords lens, w.symbol = i ∧ w.len = l) ∧
    (∀ (s : State) (sc : ScopeId) (ctx : Nat) (r : Reader) (w : Codeword) (rest : Bits), w ∈ codewords lens →
      s.par.reader = some r → s.bitsHere = (List.range w.len).map (fun j => w.key.testBit j) ++ rest →
      (s.scope sc).htabs[Cfg.contextToHistogram s.inp.params sc ctx]? = some (buildTable tb lens) →
      exec (.huffRead sc ctx) s = .next ((s.moved w.len).setRet (.nat w.symbol)))

/-- Reading a value of a scope changes nothing but the position, the scope's tables and, where bits had to be fetched,
STAGE, the source and the draws (00_scope.md R13, 20_memory.md R79). -/
def Obligations.ReadingAValueKeepsTheRest : Prop :=
  ∀ (s t : State) (sc : ScopeId) (ctx v : Nat), readValue sc ctx s = .ok v t →
    t =
      { s with
        ctl := { s.ctl with bitpos := t.ctl.bitpos }
        par := { s.par with reader := t.par.reader, stage := t.par.stage }
        ent := t.ent, host := { s.host with sources := t.host.sources }, inp := t.inp } ∧
    t.inp.params = s.inp.params ∧ ∀ sc', sc' ≠ sc → assocGet t.ent sc' = assocGet s.ent sc'

/-! ### Block steps -/

namespace Sys2Proof.Claims

/-- What a block step finds: the HF block state, the frame and the rectangle of the group, HFMETA and its quant index for
the block at `at_` of the group, LFGLOBAL, and the frame's side buffers. -/
structure BlockAt (s : State) (at_ : Nat × Nat) (hf : HfBlock) (fh : FrameHeader) (r : Rect) (m : HfMeta)
    (q : Nat) (g : LfGlobal) (side : Side) : Prop where
  hfHere : s.grp.hf = some hf
  frameHere : s.par.frame = some fh
  rectHere : fh.groups[hf.group]? = some r
  metaHere : s.grp.hfMeta = some m
  quantHere : s.sample m.quant (r.x0 / 8 + at_.1) (r.y0 / 8 + at_.2) = some (.nat q)
  lfHere : s.grp.lfGlobal = some g
  sideHere : s.grp.side = some side

/-- The state with the HF block state replaced and a value returned. -/
def withHf (s : State) (hf : HfBlock) (v : OpValue) : State :=
  { s with grp := { s.grp with hf := some hf }, ret := v }

end Sys2Proof.Claims

/-- B.PREDNZ: "default 32 at the top-left origin, otherwise the single available neighbor, otherwise the rounded average
of both", rounded half up (43_group_decoder.md R247, decision D19). -/
def Obligations.PredictedNonzeros : Prop :=
  ∀ (s : State) (hf : HfBlock) (c x y : Nat), s.grp.hf = some hf →
    exec (.bPredNz c 0 0) s = .next (Sys2Proof.Claims.withHf s { hf with blk := (0, 0) } (.nat 32)) ∧
    (∀ top, assocGet hf.nzMap (c, 0, y) = some top →
      exec (.bPredNz c 0 (y + 1)) s = .next (Sys2Proof.Claims.withHf s { hf with blk := (0, y + 1) } (.nat top))) ∧
    (∀ left, assocGet hf.nzMap (c, x, 0) = some left →
      exec (.bPredNz c (x + 1) 0) s = .next (Sys2Proof.Claims.withHf s { hf with blk := (x + 1, 0) } (.nat left))) ∧
    (∀ top left, assocGet hf.nzMap (c, x + 1, y) = some top → assocGet hf.nzMap (c, x, y + 1) = some left →
      exec (.bPredNz c (x + 1) (y + 1)) s =
        .next (Sys2Proof.Claims.withHf s { hf with blk := (x + 1, y + 1) } (.nat ((top + left + 1) / 2))))

/-- B.NZ: the count is read in the context of the predicted count and the block context; above the block's capacity,
which is at most `64 * cb`, it is a Format error; else NZ_LEFT and NZ_MAP at every covered position receive it
(43_group_decoder.md R248, R249, R257). How NZ_MAP's value is derived from the count of a transform of several blocks the
spec leaves open. -/
def Obligations.NonzeroCount : Prop :=
  (∀ (s u : State) (c pred t nz : Nat) (x : XType) (hf : HfBlock) (fh : FrameHeader) (r : Rect) (m : HfMeta)
    (q : Nat) (g : LfGlobal) (side : Side), xtype s.inp.params t = some x →
    Sys2Proof.Claims.BlockAt s hf.blk hf fh r m q g side →
    readValue (.ac hf.pass) (Cfg.nonZeroContext s.inp.params pred
      (Cfg.blockContext s.inp.params c t q g.blockCtx) g.blockCtx) s = .ok nz u →
    (Cfg.capacity s.inp.params t < nz → exec (.bNz c pred t) s = .next (trapEntry .format u)) ∧
    (nz ≤ Cfg.capacity s.inp.params t →
      ∃ map : List ((Nat × Nat × Nat) × Nat),
        exec (.bNz c pred t) s = .next (Sys2Proof.Claims.withHf u { hf with nzLeft := nz, nzMap := map } (.nat nz)) ∧
        (∀ i j, i < x.w / 8 → j < x.h / 8 → assocGet map (c, hf.blk.1 + i, hf.blk.2 + j) =
          some (if (x.w / 8) * (x.h / 8) = 1 then nz
            else Cfg.nzStored s.inp.params nz ((x.w / 8) * (x.h / 8)))) ∧
        (∀ key, (∀ i j, i < x.w / 8 → j < x.h / 8 → key ≠ (c, hf.blk.1 + i, hf.blk.2 + j)) →
          assocGet map key = assocGet hf.nzMap key))) ∧
  (∀ (p : Params) (t : Nat), Cfg.capacity p t ≤ 64 * coveredBlocks p t)

namespace Sys2Proof.Claims

/-- A tile of a block in one of the frame's buffers: the buffer of channel `c` of a list, and its samples at the block's
corner. -/
structure TileAt (s : State) (l : List Nat) (c : Nat) (x : XType) (r : Rect) (at_ : Nat × Nat) (h : Nat)
    (vs : List Sample) : Prop where
  buffer : l[c]? = some h
  values : s.tile h x.w x.h (8 * at_.1 + r.x0) (8 * at_.2 + r.y0) = some vs

/-- A tile of a block that may be written with samples of type `ty`. -/
structure TileRoom (s : State) (ty : SampleType) (l : List Nat) (c : Nat) (x : XType) (r : Rect) (at_ : Nat × Nat)
    (h : Nat) : Prop where
  buffer : l[c]? = some h
  room : s.holds ty h (8 * at_.1 + r.x0) (8 * at_.2 + r.y0) x.w x.h

/-- The state with a tile of a block written. -/
def tilePut (s : State) (x : XType) (r : Rect) (at_ : Nat × Nat) (h : Nat) (vs : List Sample) : State :=
  s.putTile h x.w (8 * at_.1 + r.x0) (8 * at_.2 + r.y0) 0 vs

/-- The coefficient scan over `n` positions: it ends when the budget is zero or the positions have run out; else one
symbol is read in its context; a zero symbol keeps the budget, another one lowers it by one; its value, shifted by the
pass's shift, joins the coefficient at the scan position by the accumulation across passes. -/
inductive ScanRuns (pass cb offset shift : Nat) (order : List Nat) :
    Nat → Scan → State → Scan → State → Prop
  | spent {n : Nat} {w : Scan} {s : State} : w.left = 0 → ScanRuns pass cb offset shift order n w s w s
  | out {w : Scan} {s : State} : ScanRuns pass cb offset shift order 0 w s w s
  | step {n u : Nat} {w v : Scan} {s a t : State} : w.left ≠ 0 →
      readValue (.ac pass) (Cfg.zeroDensityContext s.inp.params w.left w.k cb w.prev + offset) s = .ok u a →
      ScanRuns pass cb offset shift order n
        { k := w.k + 1
          left := if u = 0 then w.left else w.left - 1
          prev := decide (u ≠ 0)
          coeffs := w.coeffs.set ((order[w.k]?).getD w.k)
            (Cfg.accumulate s.inp.params pass ((w.coeffs[(order[w.k]?).getD w.k]?).getD 0)
              (Cfg.unpackSigned s.inp.params u * 2 ^ shift)) } a v t →
      ScanRuns pass cb offset shift order (n + 1) w s v t

/-- The state after B.COEFFS: the scan's end in the HF block state, the coefficients in the block's tile. -/
def scanned (s : State) (hf : HfBlock) (x : XType) (r : Rect) (h : Nat) (v : Scan) : State :=
  tilePut (s.setGrp fun g => { g with hf := some { hf with nzLeft := v.left, scanPos := v.k, prevNz := v.prev } }) x r
    hf.blk h (v.coeffs.map Sample.int)

end Sys2Proof.Claims

/-- B.COEFFS scans the block's coefficients from the first AC position on, with the budget it is given: a zero symbol
keeps the budget, another one lowers it; a budget left over when the scan positions have run out is a Format error; with a
budget of zero no coefficient is read; and whenever it completes the budget has reached exactly zero (43_group_decoder.md
R250, R251). What a value and what earlier passes left come to is the open accumulation across passes; in the first pass, and
with the usual body in every pass, it is their sum, as R250's pseudocode has it (notes/assumptions/55.md, DEDUCED). -/
def Obligations.Coefficients : Prop :=
  (∀ (s t' : State) (c t nz p : Nat) (x : XType) (hf : HfBlock) (fh : FrameHeader) (r : Rect) (m : HfMeta)
    (q h : Nat) (g : LfGlobal) (side : Side) (hg : HfGlobal) (l : List Int) (v : Scan) (cb first : Nat),
    xtype s.inp.params t = some x → Sys2Proof.Claims.BlockAt s hf.blk hf fh r m q g side →
    s.grp.hfGlobal = some hg →
    Sys2Proof.Claims.TileAt s side.coeff c x r hf.blk h (l.map Sample.int) →
    Sys2Proof.Claims.TileRoom s .int side.coeff c x r hf.blk h →
    cb = (x.w / 8) * (x.h / 8) → first = Cfg.firstAc s.inp.params t →
    (Sys2Proof.Claims.ScanRuns p cb
      (Cfg.contextOffset s.inp.params (Cfg.blockContext s.inp.params c t q g.blockCtx))
      (Cfg.passShift s.inp.params p fh.passShifts) (scanOrder s.inp.params hg p t c) (64 * cb - first)
      { k := first, left := nz, prev := Cfg.initialPrev s.inp.params nz (64 * cb), coeffs := l } s v t' →
      (v.left = 0 → exec (.bCoeffs c t nz p) s =
        .next ((Sys2Proof.Claims.scanned t' hf x r h v).setRet .none)) ∧
      (v.left ≠ 0 → exec (.bCoeffs c t nz p) s =
        .next (trapEntry .format (Sys2Proof.Claims.scanned t' hf x r h v)))) ∧
    (nz = 0 → exec (.bCoeffs c t nz p) s = .next ((Sys2Proof.Claims.scanned s hf x r h
      { k := first, left := 0, prev := Cfg.initialPrev s.inp.params 0 (64 * cb), coeffs := l }).setRet .none))) ∧
  (∀ (s u : State) (c t nz p : Nat), exec (.bCoeffs c t nz p) s = .next u → u.ret = .none →
    ∃ hf, u.grp.hf = some hf ∧ hf.nzLeft = 0) ∧
  (∀ (p : Params) (pass : Nat) (old d : Int), pass = 0 ∨ p.accumulate = .usual →
    Cfg.accumulate p pass old d = old + d)

/-- B.DEQUANT: the AC positions of the block's three channels become the values of `Dequant` of the block's coefficients,
quant step, position, quantizer, colour correlation and matrices; a quant step of zero is a Format error
(43_group_decoder.md R253, decision D22). That the LF positions become zero is notes/assumptions/48.md (DESIGN CHOICE),
and that a tile without a colour-correlation factor is a Format error notes/assumptions/29.md. -/
def Obligations.DequantizedBlock : Prop :=
  (∀ (s : State) (bx byy t : Nat) (x : XType) (hf : HfBlock) (fh : FrameHeader) (r : Rect) (m : HfMeta)
    (q tb : Nat) (g : LfGlobal) (side : Side) (hg : HfGlobal) (pc pd : Nat → Nat) (l : Nat → List Int) (fx fb : Int)
    (a : DequantInput),
    xtype s.inp.params t = some x → Sys2Proof.Claims.BlockAt s (bx, byy) hf fh r m q g side →
    s.grp.hfGlobal = some hg → 1 ≤ q → tb = Cfg.tileBlocks s.inp.params →
    s.intAt m.corrX ((r.x0 / 8 + bx) / tb) ((r.y0 / 8 + byy) / tb) = some fx →
    s.intAt m.corrB ((r.x0 / 8 + bx) / tb) ((r.y0 / 8 + byy) / tb) = some fb →
    (∀ c, c < 3 → Sys2Proof.Claims.TileAt s side.coeff c x r (bx, byy) (pc c) ((l c).map Sample.int) ∧
      Sys2Proof.Claims.TileRoom s .float side.deq c x r (bx, byy) (pd c)) →
    a = { t := t, q := q, bx := r.x0 / 8 + bx, byy := r.y0 / 8 + byy, coeffs := [0, 1, 2].map l
          quantizer := g.quantizer, colorCorr := g.colorCorr, tileX := fx, tileB := fb
          matrices := [0, 1, 2].map fun c => assocGet hg.dequant (t, c) } →
    exec (.bDequant bx byy t) s = .next (([0, 1, 2].foldl (fun u c => Sys2Proof.Claims.tilePut u x r (bx, byy) (pd c)
      ((List.range (x.w * x.h)).map fun k =>
        .flt (if k ∈ Cfg.lfPositions s.inp.params t then 0 else Cfg.dequant s.inp.params a c k))) s).setRet .none)) ∧
  (∀ (s : State) (bx byy t : Nat) (x : XType) (hf : HfBlock) (fh : FrameHeader) (r : Rect) (m : HfMeta)
    (q tb : Nat) (g : LfGlobal) (side : Side) (hg : HfGlobal),
    xtype s.inp.params t = some x → Sys2Proof.Claims.BlockAt s (bx, byy) hf fh r m q g side →
    (q = 0 → exec (.bDequant bx byy t) s = .next (trapEntry .format s)) ∧
    (1 ≤ q → s.grp.hfGlobal = some hg → tb = Cfg.tileBlocks s.inp.params →
      (s.cell m.corrX ((r.x0 / 8 + bx) / tb) ((r.y0 / 8 + byy) / tb) .read).isSome = true →
      s.sample m.corrX ((r.x0 / 8 + bx) / tb) ((r.y0 / 8 + byy) / tb) = none →
      exec (.bDequant bx byy t) s = .next (trapEntry .format s)))

namespace Sys2Proof.Claims

/-- The tile of one channel of a block: the dequantised coefficients with the LF values in their places, transformed. -/
def blockTile (s : State) (x : XType) (t c : Nat) (g : LfGlobal) (f : List F32) (lf : List Int) : List Sample :=
  (tileOf s.inp.params x (placeAt f ((Cfg.lfPositions s.inp.params t).zipIdx.map fun e =>
    (e.1, Cfg.lfValue s.inp.params t c e.2 lf g.quantizer)))).map Sample.flt

end Sys2Proof.Claims

/-- B.XFORM: for each of X, Y, B the tile of the block is written into the channel's plane at
`(8 * bx + group origin x, 8 * by + group origin y)`, and nothing else changes (43_group_decoder.md R256). That the LF
values, which R256 places in the coefficients, are placed in the block the transform works on and not written back to the
dequantised plane is notes/assumptions/48.md (DESIGN CHOICE), and that the open function which makes them sees the
channel's own LF values at the covered positions and the quantizer only is notes/assumptions/63.md (DESIGN CHOICE). -/
def Obligations.TransformedBlock : Prop :=
  ∀ (s : State) (bx byy t : Nat) (x : XType) (hf : HfBlock) (fh : FrameHeader) (r : Rect) (m : HfMeta)
    (q : Nat) (g : LfGlobal) (side : Side) (f : Nat → List F32) (lf : Nat → List Int) (pd hl pl : Nat → Nat),
    xtype s.inp.params t = some x → Sys2Proof.Claims.BlockAt s (bx, byy) hf fh r m q g side →
    (∀ c, c < 3 →
      Sys2Proof.Claims.TileAt s side.deq c x r (bx, byy) (pd c) ((f c).map Sample.flt) ∧
      side.lf[c]? = some (hl c) ∧
      allSome ((coveredPositions s.inp.params t (r.x0 / 8 + bx) (r.y0 / 8 + byy)).map fun b =>
        s.intAt (hl c) b.1 b.2) = some (lf c) ∧
      Sys2Proof.Claims.TileRoom s .float s.grp.planes c x r (bx, byy) (pl c) ∧
      Sys2Proof.Claims.Owned s (pd c) ∧ Sys2Proof.Claims.Owned s (hl c) ∧ Sys2Proof.Claims.Owned s (pl c)) →
    (∀ c d, c < 3 → d < 3 → pl c ≠ pd d ∧ pl c ≠ hl d) →
    exec (.bXform bx byy t) s = .next (([0, 1, 2].foldl (fun u c => Sys2Proof.Claims.tilePut u x r (bx, byy) (pl c)
      (Sys2Proof.Claims.blockTile s x t c g (f c) (lf c))) s).setRet .none)

/-! ### Modular -/

namespace Sys2Proof.Claims

/-- A node of the tree waiting to be read: the range of every property along its path, an absent bound being the full
range's, and its depth. -/
structure PendingNode where
  range : Nat → Option Int × Option Int
  depth : Nat

/-- `lo <= t and t < hi`: both children of a split at `t` have a non-empty range. -/
def SplitsRange (r : Option Int × Option Int) (t : Int) : Prop := (∀ lo ∈ r.1, lo ≤ t) ∧ ∀ hi ∈ r.2, t < hi

/-- The leaves among the nodes read so far. -/
def leavesIn (nodes : Tree) : Nat := nodes.countP fun n => match n with
  | .leaf _ => true
  | .split _ _ _ _ => false

/-- The tree scope gives the value `v` of a field. -/
def FieldRead (f : TreeField) (s : State) (v : Nat) (t : State) : Prop :=
  readValue .tree (Cfg.treeContext s.inp.params f) s = .ok v t

/-- M.TREE from `s` has come to state `t` with these nodes read, in slot order, and this queue: breadth-first, the next
node read takes the next slot, and a split's children the two after those of the nodes that wait. -/
inductive TreeRuns (s : State) : State → Tree → List PendingNode → Prop
  | start {t : State} : scopeOpen .tree s = .ok () t → TreeRuns s t [] [{ range := fun _ => (none, none), depth := 1 }]
  | leaf {a b c d e t : State} {nodes : Tree} {w : PendingNode} {rest : List PendingNode} {u k o lg bt : Nat}
      {pr : Predictor} : TreeRuns s a nodes (w :: rest) → nodes.length < Cfg.maxTreeNodes s.inp.params →
      w.depth ≤ Cfg.maxTreeHeight s.inp.params → FieldRead .property a u b → Cfg.treeTag s.inp.params u = none →
      FieldRead .predictor b k c → Cfg.predictorOf s.inp.params k = some pr → FieldRead .offset c o d →
      FieldRead .multLog d lg e → FieldRead .multBits e bt t → 1 ≤ Cfg.multiplierFrom s.inp.params lg bt →
      TreeRuns s t (nodes ++ [.leaf { predictor := pr, offset := Cfg.unpackSigned s.inp.params o
                                      multiplier := Cfg.multiplierFrom s.inp.params lg bt, ctx := leavesIn nodes }]) rest
  | split {a b t : State} {nodes : Tree} {w : PendingNode} {rest : List PendingNode} {u p z : Nat} {th : Int} :
      TreeRuns s a nodes (w :: rest) → nodes.length < Cfg.maxTreeNodes s.inp.params →
      w.depth ≤ Cfg.maxTreeHeight s.inp.params → FieldRead .property a u b → Cfg.treeTag s.inp.params u = some p →
      Cfg.propertyDefined s.inp.params p = true → FieldRead .threshold b z t → th = Cfg.unpackSigned s.inp.params z →
      SplitsRange (w.range p) th →
      TreeRuns s t
        (nodes ++ [.split p th (nodes.length + rest.length + 1) (nodes.length + rest.length + 2)])
        (rest ++ [{ range := Function.update w.range p (some (th + 1), (w.range p).2), depth := w.depth + 1 },
                  { range := Function.update w.range p ((w.range p).1, some th), depth := w.depth + 1 }])

end Sys2Proof.Claims

/-- M.TREE: a first tag that says Leaf gives a tree of one leaf with the decoded predictor, offset and multiplier and
context 0; read to the end of its queue it completes with the nodes read; and every tree it decodes has at most
MAX_TREE_NODES nodes and leads every property list to a leaf whose multiplier is at least 1. Wherever it has come to, one
node more than MAX_TREE_NODES is RESOURCE_LIMIT, and a depth above MAX_TREE_HEIGHT, a property that is not defined, a
split that leaves a child an empty range, a predictor that is none, and a multiplier of 0 are Format (44_modular.md R282,
R283, R284, R288).
The six contexts, the tag and the leaf's context number are general knowledge the spec marks (R282; notes/assumptions/9.md
and 20.md, PRESUMED; the kind for a multiplier of 0, which R282 does not name, is DEDUCED in 20.md,
and the order of a multiplier's two values is DESIGN CHOICE there); that the full range is unbounded is notes/assumptions/49.md (DESIGN CHOICE). -/
def Obligations.TreeDecoding : Prop :=
  (∀ (s s1 s2 s3 s4 s5 s6 s7 : State) (u k o lg bt : Nat) (pr : Predictor) (p : Params), p = s.inp.params →
    1 ≤ Cfg.maxTreeNodes p → 1 ≤ Cfg.maxTreeHeight p → scopeOpen .tree s = .ok () s1 →
    readValue .tree (Cfg.treeContext p .property) s1 = .ok u s2 → Cfg.treeTag p u = none →
    readValue .tree (Cfg.treeContext p .predictor) s2 = .ok k s3 → Cfg.predictorOf p k = some pr →
    readValue .tree (Cfg.treeContext p .offset) s3 = .ok o s4 →
    readValue .tree (Cfg.treeContext p .multLog) s4 = .ok lg s5 →
    readValue .tree (Cfg.treeContext p .multBits) s5 = .ok bt s6 → 1 ≤ Cfg.multiplierFrom p lg bt →
    scopeFinal .tree s6 = .ok () s7 →
    exec .mTree s = .next
      { s7 with
        ent := s7.ent.filter fun x => decide (x.1 ≠ .tree)
        mod := { s7.mod with tree := some [.leaf
          { predictor := pr, offset := Cfg.unpackSigned p o, multiplier := Cfg.multiplierFrom p lg bt, ctx := 0 }] }
        ret := .none }) ∧
  (∀ s t : State, exec .mTree s = .next t → t.ret = .none →
    ∃ tree : Tree, t.mod.tree = some tree ∧ tree.length ≤ Cfg.maxTreeNodes s.inp.params ∧
      ∀ props : List Int, ∃ l, walk tree props = some l ∧ 1 ≤ l.multiplier) ∧
  (∀ (s a b : State) (tree : Tree), Sys2Proof.Claims.TreeRuns s a tree [] → scopeFinal .tree a = .ok () b →
    exec .mTree s = .next
      { b with
        ent := b.ent.filter fun x => decide (x.1 ≠ .tree), mod := { b.mod with tree := some tree }, ret := .none }) ∧
  (∀ (s a : State) (p : Params) (nodes : Tree) (w : Sys2Proof.Claims.PendingNode)
    (rest : List Sys2Proof.Claims.PendingNode), p = s.inp.params → Sys2Proof.Claims.TreeRuns s a nodes (w :: rest) →
    (nodes.length = Cfg.maxTreeNodes p → exec .mTree s = .next (trapEntry .resourceLimit a)) ∧
    (nodes.length < Cfg.maxTreeNodes p → Cfg.maxTreeHeight p < w.depth →
      exec .mTree s = .next (trapEntry .format a)) ∧
    (nodes.length < Cfg.maxTreeNodes p → w.depth ≤ Cfg.maxTreeHeight p →
      (∀ (b : State) (u k : Nat), Sys2Proof.Claims.FieldRead .property a u b → Cfg.treeTag p u = some k →
        Cfg.propertyDefined p k = false → exec .mTree s = .next (trapEntry .format b)) ∧
      (∀ (b c : State) (u k z : Nat), Sys2Proof.Claims.FieldRead .property a u b → Cfg.treeTag p u = some k →
        Cfg.propertyDefined p k = true → Sys2Proof.Claims.FieldRead .threshold b z c →
        ¬ Sys2Proof.Claims.SplitsRange (w.range k) (Cfg.unpackSigned p z) →
        exec .mTree s = .next (trapEntry .format c)) ∧
      (∀ (b c : State) (u k : Nat), Sys2Proof.Claims.FieldRead .property a u b → Cfg.treeTag p u = none →
        Sys2Proof.Claims.FieldRead .predictor b k c →
        (Cfg.predictorOf p k = none → exec .mTree s = .next (trapEntry .format c)) ∧
        (∀ (d e t : State) (o lg bt : Nat), (Cfg.predictorOf p k).isSome = true →
          Sys2Proof.Claims.FieldRead .offset c o d → Sys2Proof.Claims.FieldRead .multLog d lg e →
          Sys2Proof.Claims.FieldRead .multBits e bt t → Cfg.multiplierFrom p lg bt = 0 →
          exec .mTree s = .next (trapEntry .format t)))))

namespace Sys2Proof.Claims

/-- The walk from node `n` leads to leaf `l`: to the left child when the property is above the threshold, to the right
child otherwise, so that equality goes right. -/
inductive Leads (tree : Tree) (props : List Int) : Nat → Leaf → Prop
  | leaf {n : Nat} {l : Leaf} : tree[n]? = some (.leaf l) → Leads tree props n l
  | left {n p a b : Nat} {t : Int} {l : Leaf} : tree[n]? = some (.split p t a b) → (∃ v, props[p]? = some v ∧ t < v) →
      Leads tree props a l → Leads tree props n l
  | right {n p a b : Nat} {t : Int} {l : Leaf} : tree[n]? = some (.split p t a b) → (∃ v, props[p]? = some v ∧ v ≤ t) →
      Leads tree props b l → Leads tree props n l

end Sys2Proof.Claims

/-- M.WALK: `n <- root; while nodes[n] is Split{p, t, l, r}: n <- (props[p] > t) ? l : r; return nodes[n]`
(44_modular.md R288). -/
def Obligations.WalkReachesLeaf : Prop :=
  ∀ (s : State) (tree : Tree) (props : List Int) (l : Leaf), s.mod.tree = some tree →
    Sys2Proof.Claims.Leads tree props 0 l → exec (.mWalk props) s = .next { s with ret := .leaf l }

namespace Sys2Proof.Claims

/-- A pixel: the channel with its buffer and the neighbours of (x, y) in it. -/
structure PixelAt (s : State) (img : ModImage) (ch x y : Nat) (c : Channel) (b : Buffer) (r : RawNeighbours) : Prop where
  image : s.mod.image = some img
  channel : img.channels[ch]? = some c
  buffer : assocGet s.img.bufs c.buf = some b
  neighbours : s.neighboursAre c.buf b.width x y r

/-- The sample of a previous channel, given with its number, at (x, y) with its neighbours. -/
def PrevSample (s : State) (x y : Nat) (q : Channel × Nat) (e : Int × Neighbours) : Prop :=
  ∃ b r, assocGet s.img.bufs q.1.buf = some b ∧ s.intAt q.1.buf x y = some e.1 ∧
    s.neighboursAre q.1.buf b.width x y r ∧ e.2 = Cfg.neighbours s.inp.params (q.2, x, y) r

end Sys2Proof.Claims

/-- M.PROPS: the properties of a position from its neighbours, the weighted predictor's outputs and the previous channels
(44_modular.md R287). That the weighted predictor's outputs are computed first is notes/assumptions/19.md, that they are
free values where it is not tracked notes/assumptions/40.md, which previous channels count and in which order
notes/assumptions/20.md (PRESUMED), and what number the stream id is notes/assumptions/51.md. -/
def Obligations.PixelProperties : Prop :=
  ∀ (s : State) (img : ModImage) (ch x y : Nat) (c : Channel) (b : Buffer) (r rl : RawNeighbours) (nb nl : Neighbours)
    (prev : List (Int × Neighbours)) (wp : Option Wp),
    Sys2Proof.Claims.PixelAt s img ch x y c b r → nb = Cfg.neighbours s.inp.params (ch, x, y) r →
    (0 < x → s.neighboursAre c.buf b.width (x - 1) y rl) → nl = Cfg.neighbours s.inp.params (ch, x - 1, y) rl →
    List.Forall₂ (Sys2Proof.Claims.PrevSample s x y) (prevChannels b.width b.height s (img.channels.take ch)) prev →
    wp = s.mod.wp.map (fun v => v.predict s.inp.params nb x y) →
    exec (.mProps ch x y) s = .next
      { s with
        mod := { s.mod with cur := (ch, x, y), wp := wp }
        ret := .props (Cfg.propertyTable s.inp.params
          { channel := ch, stream := img.stream, x := x, y := y, nb := nb
            leftGrad := if x = 0 then 0 else nl.w + nl.n - nl.nw
            wpPred := (wp.map Wp.pred).getD (Config.untrackedWp (ch, x, y)).1
            wpError := (wp.map Wp.prop).getD (Config.untrackedWp (ch, x, y)).2, prev := prev }) }

/-- M.PREDICT: "final predicted value = predict_one(properties) * multiplier + offset, and the actually decoded value is
this prediction plus the entropy-decoded residual"; the value is stored at the pixel; one that does not fit
MOD_SAMPLE_BITS is a Format error (44_modular.md R290, R312). The Weighted predictor needs WP present (10_state.md
R61). That the pixel is the one M.PROPS named last is notes/assumptions/19.md (DEDUCED), and that the estimate is a free
value where WP is absent notes/assumptions/40.md (DESIGN CHOICE). -/
def Obligations.PixelPrediction : Prop :=
  ∀ (s s' : State) (img : ModImage) (ch x y u : Nat) (c : Channel) (b : Buffer) (r : RawNeighbours) (leaf : Leaf)
    (props : List Int) (guess value : Int),
    s.mod.cur = (ch, x, y) → Sys2Proof.Claims.PixelAt s img ch x y c b r →
    readValue .modular leaf.ctx s = .ok u s' →
    guess = Cfg.predictOne s.inp.params leaf.predictor (Cfg.neighbours s.inp.params (ch, x, y) r)
      (match s.mod.wp with
       | some wp => Cfg.wpUnscale s.inp.params wp.pred
       | none => Cfg.wpUnscale s.inp.params (Config.untrackedWp (ch, x, y)).1) →
    (leaf.predictor = .weighted → s.mod.wp ≠ none) →
    value = (match s.inp.params.mulAppliesTo with
      | .prediction => guess * leaf.multiplier + leaf.offset + Cfg.unpackSigned s.inp.params u
      | .residual => guess + Cfg.unpackSigned s.inp.params u * leaf.multiplier + leaf.offset) →
    (fitsSample s.inp.params value = true → s.canWrite .int c.buf x y = true →
      exec (.mPredict leaf props) s = .next ((s'.putSample c.buf x y (.int value)).setRet (.int value))) ∧
    (fitsSample s.inp.params value = false → exec (.mPredict leaf props) s = .next (trapEntry .format s'))

namespace Sys2Proof.Claims

/-- The true errors recorded at the neighbours W, N, NW, NE of (x, y); 0 where there is no neighbour. -/
def neighbourErrors (wp : Wp) (x y : Nat) : List Int :=
  [if 0 < x then (wp.errCur[x - 1]?).getD 0 else 0,
   if 0 < y then (wp.errPrev[x]?).getD 0 else 0,
   if 0 < x ∧ 0 < y then (wp.errPrev[x - 1]?).getD 0 else 0,
   if 0 < y ∧ x + 1 < wp.width then (wp.errPrev[x + 1]?).getD 0 else 0]

end Sys2Proof.Claims

/-- M.WP and M.WP.UPDATE: estimator 0 is `W + NE - N`; the property is, sign kept, one of the neighbouring true errors, of
the largest magnitude, where an error outside the channel counts as 0, so that it is 0 at (0, 0) (the model's choice,
notes/assumptions/20.md, DESIGN CHOICE: R292 does not say); after the pixel the absolute errors of the four estimators, scaled, and the true error are recorded in the current
row, and the errors are added at the next column of the previous row; after the last pixel of a row the two rows of the
ring are swapped and the new current row is zero; and a larger accumulated error of an estimator gives it no larger weight,
whatever the weight function (44_modular.md R292, R293, R294, R296; that R294's "smaller" allows an equal weight, and how
an open weight function is kept to the rule, is notes/assumptions/46.md, DEDUCED and DESIGN CHOICE). That the channel is the one
M.PROPS named last is notes/assumptions/19.md; that the new current row is zero is notes/assumptions/64.md (DESIGN
CHOICE); the form of the update is general knowledge the spec marks (notes/assumptions/9.md, PRESUMED). -/
def Obligations.WeightedPredictor : Prop :=
  (∀ (s : State) (wp v : Wp) (img : ModImage) (x y : Nat) (c : Channel) (b : Buffer) (r : RawNeighbours)
    (nb : Neighbours), s.mod.wp = some wp → Sys2Proof.Claims.PixelAt s img s.mod.cur.1 x y c b r →
    nb = Cfg.neighbours s.inp.params (s.mod.cur.1, x, y) r → v = wp.predict s.inp.params nb x y →
    exec (.mWp x y) s = .next { s with mod := { s.mod with wp := some v }, ret := .pair v.pred v.prop } ∧
    v.est[0]? = some (Cfg.wpScale s.inp.params nb.w + Cfg.wpScale s.inp.params nb.ne - Cfg.wpScale s.inp.params nb.n) ∧
    v.prop ∈ Sys2Proof.Claims.neighbourErrors wp x y ∧
    ∀ e ∈ Sys2Proof.Claims.neighbourErrors wp x y, e.natAbs ≤ v.prop.natAbs) ∧
  (∀ (s : State) (wp v : Wp) (x y : Nat) (value : Int), s.mod.wp = some wp →
    v = wp.update s.inp.params x value →
    exec (.mWpUpdate x y value) s = .next { s with mod := { s.mod with wp := some v }, ret := .none } ∧
    (x + 1 ≠ wp.width →
      v.errCur = wp.errCur.set x (wp.pred - Cfg.wpScale s.inp.params value) ∧ v.errPrev = wp.errPrev ∧
      ∀ (i : Nat) (e : Int) (now before : List Nat), wp.est[i]? = some e → wp.accCur[i]? = some now →
        wp.accPrev[i]? = some before →
        v.accCur[i]? = some (now.set x (Cfg.wpErr s.inp.params (e - Cfg.wpScale s.inp.params value).natAbs)) ∧
        v.accPrev[i]? = some (before.set (x + 1) ((before[x + 1]?).getD 0 +
          Cfg.wpErr s.inp.params (e - Cfg.wpScale s.inp.params value).natAbs))) ∧
    (x + 1 = wp.width →
      v.errPrev = wp.errCur.set x (wp.pred - Cfg.wpScale s.inp.params value) ∧
      v.errCur = List.replicate wp.width 0 ∧ v.accCur = List.replicate 4 (List.replicate wp.width 0) ∧
      ∀ (i : Nat) (e : Int) (now : List Nat), wp.est[i]? = some e → wp.accCur[i]? = some now →
        v.accPrev[i]? = some (now.set x (Cfg.wpErr s.inp.params (e - Cfg.wpScale s.inp.params value).natAbs)))) ∧
  (∀ (p : Params) (wp v : Wp) (x i : Nat) (row more : List Nat), v.header = wp.header → v.width = wp.width →
    wp.accPrev[i]? = some row → v.accPrev[i]? = some more → List.Forall₂ (fun a b => a ≤ b) row more →
    v.weight p x i ≤ wp.weight p x i)

namespace Sys2Proof.Claims

/-- An operand channel of a transform: an owned buffer with a handle that has been given out. -/
structure ChannelIs (s : State) (img : ModImage) (i : Nat) (c : Channel) (b : Buffer) : Prop where
  here : img.channels[i]? = some c
  buffer : assocGet s.img.bufs c.buf = some b
  owned : b.ownership = .owned
  old : c.buf < s.img.next

/-- The state with the image buffers replaced. -/
def withImg (s : State) (b : Buffers) : State := { s with img := b }

/-- The two operand buffers are gone and every other buffer is as it was; `n` handles have been given out. -/
def OnlyReplaced (s : State) (b : Buffers) (u v n : Nat) : Prop :=
  assocGet b.bufs u = none ∧ assocGet b.bufs v = none ∧ b.next = s.img.next + n ∧ b.refs = s.img.refs ∧
    ∀ h, h < s.img.next → h ≠ u → h ≠ v → assocGet b.bufs h = assocGet s.img.bufs h

end Sys2Proof.Claims

namespace Sys2Proof.Claims

/-- The neighbours of (x, y) inside a channel of width `w` with samples `f`. -/
def around (f : Nat → Nat → Int) (w x y : Nat) : RawNeighbours :=
  { w := if 1 ≤ x then some (f (x - 1) y) else none
    n := if 1 ≤ y then some (f x (y - 1)) else none
    nw := if 1 ≤ x ∧ 1 ≤ y then some (f (x - 1) (y - 1)) else none
    ne := if 1 ≤ y ∧ x + 1 < w then some (f (x + 1) (y - 1)) else none
    ww := if 2 ≤ x then some (f (x - 2) y) else none
    nn := if 2 ≤ y then some (f x (y - 2)) else none
    nee := if 1 ≤ y ∧ x + 2 < w then some (f (x + 2) (y - 1)) else none }

/-- The weighted predictor's estimate for a channel and position; a free value where it is not tracked. -/
def estimateOf (p : Params) (wp : Option Wp) (at_ : Nat × Nat × Nat) : Int :=
  Cfg.wpUnscale p (match wp with
    | some v => v.pred
    | none => (Config.untrackedWp at_).1)

/-- Output channel `c` of M.PALETTE, of `w` columns and `h` rows: at every position the palette's value, added to the
prediction from the channel's own samples where the index is below `nd`. `wp k` is the weighted predictor before the k-th
sample in raster order. -/
structure PaletteChannel (p : Params) (pr : Predictor) (nd w h c : Nat) (idx value out : Nat → Nat → Int)
    (wp : Nat → Option Wp) : Prop where
  fits : ∀ x y, x < w → y < h → fitsSample p (out x y) = true
  sample : ∀ x y, x < w → y < h → out x y =
    if idx x y < nd then
      Cfg.predictOne p pr (Cfg.neighbours p (c, x, y) (around out w x y))
        (estimateOf p ((wp (y * w + x)).map fun v => v.predict p (Cfg.neighbours p (c, x, y) (around out w x y)) x y)
          (c, x, y)) + value x y
    else value x y
  next : ∀ x y, x < w → y < h → wp (y * w + x + 1) = (wp (y * w + x)).map fun v =>
    (v.predict p (Cfg.neighbours p (c, x, y) (around out w x y)) x y).update p x (out x y)

end Sys2Proof.Claims

/-- M.PALETTE: every output channel has at every position the palette's value for the index, which is the sample where
the index is not below `num_deltas`; for a delta, every negative index among them, it is added to the prediction of the
palette's predictor from the samples of the output channel already there; the output channels take the place of the index
channel, and the palette goes (44_modular.md R300 to R305). The ranges of indices are those of R301. Where the output
channels go is notes/assumptions/18.md; that with the Weighted predictor each output channel starts a new one with the
scope's header, which every sample updates, is notes/assumptions/57.md (DESIGN CHOICE), and that its estimate is a free
value for an open function of another predictor notes/assumptions/40.md. The channel a missing neighbour depends on is
the number of the output channel (DESIGN CHOICE, notes/assumptions/45.md); no allocation is refused
(notes/assumptions/61.md). -/
def Obligations.PaletteValues : Prop :=
  (∀ (s : State) (img : ModImage) (index pal nc nd depth : Nat) (pr : Predictor) (ci cp : Channel) (bi bp : Buffer)
    (idx : Nat → Nat → Int) (out : Nat → Nat → Nat → Int) (header : WpHeader) (wp : Nat → Nat → Option Wp),
    s.mod.image = some img → s.img.handlesOk = true → index ≠ pal →
    (pr = .weighted → ∃ v, s.mod.wp = some v ∧ v.header = header) →
    Sys2Proof.Claims.ChannelIs s img index ci bi → Sys2Proof.Claims.ChannelIs s img pal cp bp → ci.buf ≠ cp.buf →
    nc ≤ bp.width → (∀ c, c < bp.height → s.grants (s.img.next + c) (bi.width, bi.height, .int) = true) →
    (∀ k c, k < bp.width → c < bp.height → (s.intAt cp.buf k c).isSome = true) →
    (∀ x y, x < bi.width → y < bi.height → s.intAt ci.buf x y = some (idx x y)) →
    (∀ c, c < bp.height → wp c 0 = (if pr = .weighted then some (wpInit header bi.width) else none) ∧
      Sys2Proof.Claims.PaletteChannel s.inp.params pr nd bi.width bi.height c idx
        (fun x y => paletteValue s.inp.params nc depth (fun k => (s.intAt cp.buf k c).getD 0) (idx x y) c)
        (out c) (wp c)) →
    ∃ b : Buffers,
      exec (.mPalette index pal nc nd pr depth) s = .next
        { s with
          img := b
          mod := { s.mod with image := some { img with channels :=
            (splice index pal ((List.range bp.height).map fun c => { ci with buf := s.img.next + c }) 0 img.channels) } }
          ret := .none } ∧
      Sys2Proof.Claims.OnlyReplaced s b ci.buf cp.buf bp.height ∧
      ∀ x y c, x < bi.width → y < bi.height → c < bp.height →
        (Sys2Proof.Claims.withImg s b).intAt (s.img.next + c) x y = some (out c x y)) ∧
  (∀ (p : Params) (nc depth c : Nat) (f : Nat → Int) (k : Nat),
    (k < nc → paletteValue p nc depth f k c = f k) ∧
    (k < 64 → paletteValue p nc depth f (nc + k : Nat) c = Cfg.smallCube p k c depth) ∧
    paletteValue p nc depth f (nc + 64 + k : Nat) c = Cfg.largeCube p k c depth ∧
    paletteValue p nc depth f (-(k + 1 : Nat)) c = Cfg.deltaPalette p (-(k + 1 : Nat)) c depth)

/-- M.HSQUEEZE and M.VSQUEEZE: every row, or column, of the output is rebuilt from its averages and residuals; the output
takes the averages' place and the residuals go; channels that do not fit are a Transform error (44_modular.md R306,
R307, R310; the bodies of the tendency and the pair are general knowledge the spec marks). That the output takes the
averages' place, the residual channel goes and the shift drops by one, or stays 0, is
notes/assumptions/18.md (DESIGN CHOICE). The
allocation is granted (notes/assumptions/61.md). -/
def Obligations.SqueezeChannels : Prop :=
  (∀ (s : State) (img : ModImage) (a r w : Nat) (ca cr : Channel) (ba br : Buffer) (la lr : Nat → List Int),
    s.mod.image = some img → s.img.handlesOk = true → a ≠ r → Sys2Proof.Claims.ChannelIs s img a ca ba →
    Sys2Proof.Claims.ChannelIs s img r cr br → ca.buf ≠ cr.buf → ba.width = (w + 1) / 2 → br.width = w / 2 →
    ba.height = br.height → s.grants s.img.next (w, ba.height, .int) = true →
    (∀ y, y < ba.height → s.intRow ca.buf ba.width y = some (la y) ∧ s.intRow cr.buf br.width y = some (lr y) ∧
      ∀ v ∈ unsqueeze none (la y) (lr y), fitsSample s.inp.params v = true) →
    ∃ b : Buffers,
      exec (.mHsqueeze a r w) s = .next
        { s with
          img := b
          mod := { s.mod with image := some { img with channels :=
            (splice a r [{ ca with buf := s.img.next, hshift := ca.hshift - 1 }] 0 img.channels) } }
          ret := .none } ∧
      Sys2Proof.Claims.OnlyReplaced s b ca.buf cr.buf 1 ∧
      ∀ y, y < ba.height →
        (Sys2Proof.Claims.withImg s b).intRow s.img.next w y = some (unsqueeze none (la y) (lr y))) ∧
  (∀ (s : State) (img : ModImage) (a r h : Nat) (ca cr : Channel) (ba br : Buffer) (la lr : Nat → List Int),
    s.mod.image = some img → s.img.handlesOk = true → a ≠ r → Sys2Proof.Claims.ChannelIs s img a ca ba →
    Sys2Proof.Claims.ChannelIs s img r cr br → ca.buf ≠ cr.buf → ba.height = (h + 1) / 2 → br.height = h / 2 →
    ba.width = br.width → s.grants s.img.next (ba.width, h, .int) = true →
    (∀ x, x < ba.width → s.intColumn ca.buf ba.height x = some (la x) ∧
      s.intColumn cr.buf br.height x = some (lr x) ∧
      ∀ v ∈ unsqueeze none (la x) (lr x), fitsSample s.inp.params v = true) →
    ∃ b : Buffers,
      exec (.mVsqueeze a r h) s = .next
        { s with
          img := b
          mod := { s.mod with image := some { img with channels :=
            (splice a r [{ ca with buf := s.img.next, vshift := ca.vshift - 1 }] 0 img.channels) } }
          ret := .none } ∧
      Sys2Proof.Claims.OnlyReplaced s b ca.buf cr.buf 1 ∧
      ∀ x, x < ba.width →
        (Sys2Proof.Claims.withImg s b).intColumn s.img.next h x = some (unsqueeze none (la x) (lr x))) ∧
  (∀ (s : State) (img : ModImage) (a r n : Nat) (ca cr : Channel) (ba br : Buffer), s.mod.image = some img →
    Sys2Proof.Claims.ChannelIs s img a ca ba → Sys2Proof.Claims.ChannelIs s img r cr br →
    (ba.width ≠ (n + 1) / 2 ∨ br.width ≠ n / 2 → exec (.mHsqueeze a r n) s = .next (trapEntry .transform s)) ∧
    (ba.height ≠ (n + 1) / 2 ∨ br.height ≠ n / 2 → exec (.mVsqueeze a r n) s = .next (trapEntry .transform s)))

namespace Sys2Proof.Claims

/-- The forward rule of a pair's average: `(first + second + (first > second ? 1 : 0)) sar 1` (44_modular.md R309). -/
def pairAverage (f g : Int) : Int := sar (f + g + (if f > g then 1 else 0)) 1

/-- The forward transform's averages of a row; an odd tail is copied. -/
def averages (l : List Int) : List Int :=
  match l with
  | f :: g :: rest => pairAverage f g :: averages rest
  | [x] => [x]
  | [] => []

/-- The forward transform's residuals, with the neighbours the inverse will see; `before` is the sample before the row's
rest. -/
def residuals (before : Option Int) (l : List Int) : List Int :=
  match l with
  | f :: g :: rest =>
    (f - g - tendency (before.getD (pairAverage f g)) (pairAverage f g)
      (((averages rest).head?).getD (pairAverage f g))) :: residuals (some g) rest
  | [_] => []
  | [] => []

end Sys2Proof.Claims

/-- "`vsqueeze(hsqueeze(x))` composed with the corresponding forward transform reconstructs integer test images exactly":
for every integer image whose samples fit, M.HSQUEEZE of the forward transform of its rows rebuilds its rows, and
M.VSQUEEZE of the forward transform of its columns its columns, where the output's allocation is granted (44_modular.md
R311). -/
def Obligations.SqueezeRoundTrip : Prop :=
  (∀ (s : State) (img : ModImage) (a r w : Nat) (ca cr : Channel) (ba br : Buffer) (x : Nat → List Int),
    s.mod.image = some img → s.img.handlesOk = true → a ≠ r → Sys2Proof.Claims.ChannelIs s img a ca ba →
    Sys2Proof.Claims.ChannelIs s img r cr br → ca.buf ≠ cr.buf → ba.width = (w + 1) / 2 → br.width = w / 2 →
    ba.height = br.height → s.grants s.img.next (w, ba.height, .int) = true →
    (∀ y, y < ba.height → (x y).length = w ∧ (∀ v ∈ x y, fitsSample s.inp.params v = true) ∧
      s.intRow ca.buf ba.width y = some (Sys2Proof.Claims.averages (x y)) ∧
      s.intRow cr.buf br.width y = some (Sys2Proof.Claims.residuals none (x y))) →
    ∃ t, exec (.mHsqueeze a r w) s = .next t ∧ t.ret = .none ∧
      ∀ y, y < ba.height → t.intRow s.img.next w y = some (x y)) ∧
  (∀ (s : State) (img : ModImage) (a r h : Nat) (ca cr : Channel) (ba br : Buffer) (x : Nat → List Int),
    s.mod.image = some img → s.img.handlesOk = true → a ≠ r → Sys2Proof.Claims.ChannelIs s img a ca ba →
    Sys2Proof.Claims.ChannelIs s img r cr br → ca.buf ≠ cr.buf → ba.height = (h + 1) / 2 → br.height = h / 2 →
    ba.width = br.width → s.grants s.img.next (ba.width, h, .int) = true →
    (∀ j, j < ba.width → (x j).length = h ∧ (∀ v ∈ x j, fitsSample s.inp.params v = true) ∧
      s.intColumn ca.buf ba.height j = some (Sys2Proof.Claims.averages (x j)) ∧
      s.intColumn cr.buf br.height j = some (Sys2Proof.Claims.residuals none (x j))) →
    ∃ t, exec (.mVsqueeze a r h) s = .next t ∧ t.ret = .none ∧
      ∀ j, j < ba.width → t.intColumn s.img.next h j = some (x j))

/-! ### Transforms -/

namespace Sys2Proof.Claims

/-- A coefficient view of `h` rows and `w` columns that holds `l`, and a sample view of the same shape. -/
structure Views (s : State) (coeff out h w : Nat) (l : List F32) : Prop where
  coeffIs : s.hasBuffer coeff w h .float
  outIs : s.hasBuffer out w h .float
  values : s.raster coeff w h = some (l.map Sample.flt)
  room : s.holds .float out 0 0 w h

/-- The block by frequency of a coefficient view that holds `l`: in raster order of the frequencies, the coefficient at
each one's place in the layout. -/
def byFrequency (s : State) (kind : XKind) (h w : Nat) (l : List F32) : List F32 :=
  (Cfg.coeffLayout s.inp.params kind h w).map fun k => (l[k]?).getD 0

/-- The state with a tile in the sample view. -/
def tiled (s : State) (out w : Nat) (tile : List F32) : State :=
  (s.putTile out w 0 0 0 (tile.map Sample.flt)).setRet .none

end Sys2Proof.Claims

/-- The transforms: each reads its coefficient view, in the layout of the transform, and writes the tile its
configuration function gives into its sample view, sample by sample in raster order, and changes nothing else
(45_transforms.md R331, R334, R340 to R345). The layout is open; it gives every frequency a place of its own, under the
usual body the buffer has its longer side horizontal (notes/assumptions/10.md, DEDUCED, PRESUMED). -/
def Obligations.TransformTiles : Prop :=
  (∀ (s : State) (coeff out : Nat) (l : List F32),
    (∀ h w, isIdctPair h w = true → Sys2Proof.Claims.Views s coeff out h w l →
      exec (.xIdct h w coeff out) s = .next (Sys2Proof.Claims.tiled s out w
        (Cfg.idct h w (Sys2Proof.Claims.byFrequency s .idct h w l)))) ∧
    (Sys2Proof.Claims.Views s coeff out 8 8 l →
      (∀ k, exec (.xAfv k coeff out) s = .next (Sys2Proof.Claims.tiled s out 8
        (Cfg.afv s.inp.params k (Sys2Proof.Claims.byFrequency s (.afv k) 8 8 l)))) ∧
      exec (.xIdentity coeff out) s = .next (Sys2Proof.Claims.tiled s out 8
        (Cfg.identity8 s.inp.params (Sys2Proof.Claims.byFrequency s .identity 8 8 l))) ∧
      exec (.xDct2x2 coeff out) s = .next (Sys2Proof.Claims.tiled s out 8
        (Cfg.dct2x2 (Sys2Proof.Claims.byFrequency s .dct2x2 8 8 l))) ∧
      exec (.xDct4x4 coeff out) s = .next (Sys2Proof.Claims.tiled s out 8
        (Cfg.dct4x4 (Sys2Proof.Claims.byFrequency s .dct4x4 8 8 l))) ∧
      exec (.xDct8x4 coeff out) s = .next (Sys2Proof.Claims.tiled s out 8
        (Cfg.dct8x4 (Sys2Proof.Claims.byFrequency s .dct8x4 8 8 l))) ∧
      exec (.xDct4x8 coeff out) s = .next (Sys2Proof.Claims.tiled s out 8
        (Cfg.dct4x8 (Sys2Proof.Claims.byFrequency s .dct4x8 8 8 l))))) ∧
  (∀ (p : Params) (kind : XKind) (h w : Nat),
    (Cfg.coeffLayout p kind h w).Perm (List.range (h * w)) ∧
    (p.coeffLayout = .usual → ∀ u v, u < w → v < h →
      (Cfg.coeffLayout p kind h w)[v * w + u]? = some (if w < h then u * h + v else v * w + u)))

/-- Transform ids outside the catalog, sizes that are no pair of R336's list and views of another shape are Transform
errors (45_transforms.md R333, R336, 60_exceptions.md R416). The suggested catalog of 27 entries is general knowledge the
spec marks (R332; notes/assumptions/10.md, PRESUMED); that R336's list, which counts 19, names 18 pairs is DEDUCED
there. R416 speaks of the shape; that a view of another sample type is a Transform error too is notes/assumptions/39.md
(DEDUCED). -/
def Obligations.TransformErrors : Prop :=
  (∀ (s : State) (t : Nat), xtype s.inp.params t = none →
    (∀ c pred, exec (.bNz c pred t) s = .next (trapEntry .transform s)) ∧
    (∀ c nz p, exec (.bCoeffs c t nz p) s = .next (trapEntry .transform s)) ∧
    (∀ bx byy, exec (.bDequant bx byy t) s = .next (trapEntry .transform s)) ∧
    (∀ bx byy, exec (.bXform bx byy t) s = .next (trapEntry .transform s))) ∧
  (∀ (p : Params) (t : Nat), p.catalog = some usualCatalog → ((xtype p t).isSome = true ↔ t < 27)) ∧
  (∀ h w : Nat, isIdctPair h w = true ↔
    (h, w) ∈ [(8, 8), (16, 16), (32, 32), (64, 64), (128, 128), (256, 256), (16, 8), (32, 8), (32, 16), (64, 32),
      (128, 64), (256, 128), (8, 16), (8, 32), (16, 32), (32, 64), (64, 128), (128, 256)] ) ∧
  (∀ (s : State) (h w coeff out : Nat), isIdctPair h w = false →
    exec (.xIdct h w coeff out) s = .next (trapEntry .transform s)) ∧
  (∀ (s : State) (coeff out h w : Nat) (a b : Buffer), assocGet s.img.bufs coeff = some a →
    assocGet s.img.bufs out = some b →
    ¬ (a.width = w ∧ a.height = h ∧ a.ty = .float ∧ b.width = w ∧ b.height = h ∧ b.ty = .float) →
    exec (.xIdct h w coeff out) s = .next (trapEntry .transform s) ∧
    (h = 8 → w = 8 →
      (∀ k, exec (.xAfv k coeff out) s = .next (trapEntry .transform s)) ∧
      exec (.xIdentity coeff out) s = .next (trapEntry .transform s) ∧
      exec (.xDct2x2 coeff out) s = .next (trapEntry .transform s) ∧
      exec (.xDct4x4 coeff out) s = .next (trapEntry .transform s) ∧
      exec (.xDct8x4 coeff out) s = .next (trapEntry .transform s) ∧
      exec (.xDct4x8 coeff out) s = .next (trapEntry .transform s)))

namespace Sys2Proof.Claims

/-- An 8×8 block whose only coefficients that may be nonzero are the four of its low-frequency corner. -/
def corner (a b c d : F32) : List F32 :=
  tile8 fun v u =>
    if v = 0 ∧ u = 0 then a else if v = 0 ∧ u = 1 then b else if v = 1 ∧ u = 0 then c else if v = 1 ∧ u = 1 then d else 0

/-- A float that is a zero of either sign. -/
def isZero (f : F32) : Bool := decide (f = 0#32) || decide (f = 0x80000000#32)

end Sys2Proof.Claims

/-- On blocks by frequency, `C[v][u]` in raster order: a block whose only coefficient is the first gives the constant tile, for every transform and size; and with all
residual coefficients zero each sub-block is constant and equal to its reconstructed mean, each of AFV's three parts
constant (45_transforms.md R334, R340, R346). Which butterfly output is which sub-block (PRESUMED), and that it adds
in pairs (DESIGN CHOICE), are the model's choice, notes/assumptions/27.md; what an operation on a NaN gives is notes/assumptions/26.md
(DESIGN CHOICE). -/
def Obligations.DcLaws : Prop :=
  (∀ (h w : Nat) (d : F32), Cfg.idct h w (d :: List.replicate (h * w - 1) 0) = List.replicate (h * w) d) ∧
  (∀ (p : Params) (d : F32) (k : Nat),
    Cfg.afv p k (d :: List.replicate 63 0) = List.replicate 64 d ∧
    Cfg.identity8 p (d :: List.replicate 63 0) = List.replicate 64 d ∧
    Cfg.dct2x2 (d :: List.replicate 63 0) = List.replicate 64 d ∧
    Cfg.dct4x4 (d :: List.replicate 63 0) = List.replicate 64 d ∧
    Cfg.dct8x4 (d :: List.replicate 63 0) = List.replicate 64 d ∧
    Cfg.dct4x8 (d :: List.replicate 63 0) = List.replicate 64 d) ∧
  (∀ (p : Params) (a b c d : F32) (f : List F32 → List F32),
    (f = Cfg.identity8 p ∨ f = Cfg.dct2x2 ∨ f = Cfg.dct4x4) →
    ¬ ((Sys2Proof.Claims.isZero b && Sys2Proof.Claims.isZero c && Sys2Proof.Claims.isZero d) = true) →
    f (Sys2Proof.Claims.corner a b c d) = tile8 fun y x =>
      if y < 4 then
        if x < 4 then F32.add (F32.add a b) (F32.add c d) else F32.sub (F32.add a b) (F32.add c d)
      else
        if x < 4 then F32.add (F32.sub a b) (F32.sub c d) else F32.sub (F32.sub a b) (F32.sub c d)) ∧
  (∀ (a b : F32), Sys2Proof.Claims.isZero b = false →
    Cfg.dct8x4 (Sys2Proof.Claims.corner a b 0 0) =
      tile8 (fun _ x => if x < 4 then F32.add a b else F32.sub a b) ∧
    Cfg.dct4x8 (Sys2Proof.Claims.corner a 0 b 0) =
      tile8 (fun y _ => if y < 4 then F32.add a b else F32.sub a b)) ∧
  (∀ (p : Params) (k : Nat) (a b c : F32), ∃ d0 d1 d2 : F32,
    Cfg.afv p k (Sys2Proof.Claims.corner a b c 0) =
      tile8 fun y x => if y / 4 = k / 2 then (if x / 4 = k % 2 then d0 else d1) else d2)

/-! ### Render pipeline -/

namespace Sys2Proof.Claims

/-- The state with row segments written one after the other, each to its buffer. -/
def putRows (s : State) (y x0 : Nat) (l : List (Nat × List Sample)) : State :=
  match l with
  | [] => s
  | e :: rest => putRows (s.putRow e.1 y x0 e.2) y x0 rest

/-- The type of a buffer's samples. -/
def typeOf (s : State) (h : Nat) : SampleType :=
  match assocGet s.img.bufs h with
  | some b => b.ty
  | none => .float

/-- The buffers of the channels `set` of a pipeline. -/
def channelsOf (r : Render) (set : List Nat) : Option (List Nat) := allSome (set.map fun c => r.chans[c]?)

/-- The rows of a buffer. -/
def rowsIn (s : State) (h : Nat) : Option (List (List Sample)) :=
  match assocGet s.img.bufs h with
  | none => none
  | some b => allSome ((List.range b.height).map fun y => s.row h y 0 b.width)

/-- What a stage sees of the reference slot it names: the slot's planes, row by row; nothing where it names none. -/
def RefsAre (s : State) (f : StageFn) (ref : List (List (List Sample))) : Prop :=
  match f with
  | .withRef _ slot => ∃ planes, assocGet s.img.refs slot = some planes ∧ allSome (planes.map (rowsIn s)) = some ref
  | .named _ | .cms | .cmsInplace | .spot _ | .premultiply => ref = []

/-- The segments of columns x0 to x0 + n - 1 of row `y` of buffers, which may be written. -/
structure Segments (s : State) (hs : List Nat) (y x0 n : Nat) (segs : List (List Sample)) : Prop where
  values : allSome (hs.map fun h => s.row h y x0 n) = some segs
  room : ∀ h ∈ hs, s.holds (typeOf s h) h x0 y n 1
  there : ∀ h ∈ hs, (assocGet s.img.bufs h).isSome = true

/-- Every sample has the type of its buffer. -/
def Typed (s : State) (hs : List Nat) (segs : List (List Sample)) : Prop :=
  ∀ e ∈ hs.zip segs, ∀ v ∈ e.2, v.type = typeOf s e.1

/-- The row segments of a stage's channels after an InPlace stage with an open function. -/
def inplaceRows (s : State) (set hs : List Nat) (f : StageFn) (y x0 n : Nat) (segs : List (List Sample))
    (ref : List (List (List Sample))) : List (Nat × List Sample) :=
  (set.zip hs).map fun e => (e.2, (List.range n).map fun i => Cfg.inplaceFn s.inp.params (typeOf s e.2)
    { f := f, channel := e.1, x := x0 + i, y := y, x0 := x0, segs := segs, ref := ref })

/-- The row segments of buffers after HOST's colour transform of their interleaved samples, as floats. -/
def cmsRows (s : State) (hs : List Nat) (handle n : Nat) (segs : List (List Sample)) : List (Nat × List Sample) :=
  hs.zipIdx.map fun e => (e.1, (List.range n).map fun i =>
    Cfg.fromFloat s.inp.params (typeOf s e.1) (Cfg.cms s.inp.params handle (n * hs.length) (i * hs.length + e.2)
      (interleave n (segs.map fun l => l.map (Cfg.toFloat s.inp.params)))))

/-- The numbers of a stage's channels that are colour channels: those before the image's extra channels. -/
def colours (r : Render) (ih : ImageHeader) (set : List Nat) : List Nat :=
  set.filter fun c => decide (c < r.chans.length - ih.extra.length)

/-- The buffers have one size. -/
def Sized (s : State) (hs : List Nat) (w ht : Nat) : Prop :=
  ∀ h ∈ hs, ∃ b, assocGet s.img.bufs h = some b ∧ b.width = w ∧ b.height = ht

/-- A stage that writes to buffers of its own is under way: on channels `set` with buffers `ins`, with outputs `outs`,
whose part of ow × oh may be written, each an owned buffer, none both. -/
structure Staged (s : State) (r : Render) (set ins outs : List Nat) (ow oh : Nat) : Prop where
  render : s.rnd = some r
  some_ : set ≠ []
  channels : channelsOf r set = some ins
  next : r.next = set.zip outs
  same : outs.length = set.length
  owned : ∀ h ∈ ins, Owned s h
  room : ∀ h ∈ outs, Owned s h ∧ s.holds (typeOf s h) h 0 0 ow oh
  apart : ∀ h ∈ outs, h ∉ ins

/-- The outputs are the channels now, and the buffers they replace go to POOL. -/
def advanced (t : State) (r : Render) (ins : List Nat) : State :=
  (t.released ins).setRnd (some { r with chans := swapChannels r.chans r.next, next := [] })

/-- The output position `out` of a stage sees the input position `pos`, of `size` ones: those from `border` before its
own position, or the `2 ^ shift` ones a downsampling output has, to `border` after; and all of them where these reach
past the edge. -/
def sees (border shift : Nat) (up : Bool) (size out pos : Nat) : Bool :=
  let first : Int := (if up then out / 2 ^ shift else out * 2 ^ shift : Nat) - (border : Int)
  let past : Int := (if up then out / 2 ^ shift + 1 else (out + 1) * 2 ^ shift : Nat) + (border : Int)
  decide (first < 0 ∨ (size : Int) < past ∨ (first ≤ (pos : Int) ∧ (pos : Int) < past))

/-- The whole input image as the output position (ox, oy) sees it. -/
def seenImage (s : State) (ins : List Nat) (w ht bx byy sx sy : Nat) (up : Bool) (ox oy : Nat) :
    List (List (List (Option Sample))) :=
  ins.map fun h => (List.range ht).map fun y => (List.range w).map fun x =>
    if sees bx sx up w ox x = true ∧ sees byy sy up ht oy y = true then s.sample h x y else none

/-- Every sample of the inputs that one of these output positions sees has a value. -/
def Seen (s : State) (ins : List Nat) (w ht bx byy sx sy : Nat) (up : Bool) (rows columns : List Nat) : Prop :=
  ∀ h ∈ ins, ∀ oy ∈ rows, ∀ ox ∈ columns, ∀ x y, x < w → y < ht → sees bx sx up w ox x = true →
    sees byy sy up ht oy y = true → (s.sample h x y).isSome = true

/-- The state with the output positions of an InOut stage written, in every output. -/
def inoutPut (s : State) (set ins outs : List Nat) (w ht : Nat) (f : StageFn) (bx byy sx sy : Nat) (up : Bool)
    (ref : List (List (List Sample))) (rows columns : List Nat) : State :=
  rows.foldl (fun u y => columns.foldl (fun v x => (set.zip outs).foldl (fun t e =>
    t.putSample e.2 x y (Cfg.inoutFn s.inp.params (typeOf s e.2)
      { f := f, channel := e.1, x := x, y := y
        image := seenImage s ins w ht bx byy sx sy up x y, ref := ref })) v) u) s

/-- Row `y` of a frame of `fw` columns in a channel's buffer; no samples where the channel has no such row. -/
def frameSamples (s : State) (h y fw : Nat) : Option (List Sample) :=
  match assocGet s.img.bufs h with
  | none => none
  | some b => if y < b.height then s.row h y 0 (min b.width fw) else some []

/-- A canvas row of channel `c`: the frame's row from column x0 on, padding elsewhere. -/
def canvasLine (p : Params) (ty : SampleType) (pad : StageFn) (ref : List (List (List Sample))) (c cw y : Nat)
    (x0 : Int) (row : List Sample) : List Sample :=
  (List.range cw).map fun (x : Nat) =>
    match (if x0 ≤ (x : Int) then row[((x : Int) - x0).toNat]? else none) with
    | some v => v
    | none => Cfg.padding p ty { f := pad, channel := c, y := y, x := x, ref := ref }

/-- The state in which the outputs of a stage on channels `set`, of size ow × oh and the types `tys`, have been
allocated. -/
def outputsAllocated (s : State) (r : Render) (set : List Nat) (ow oh : Nat) (tys : List SampleType) : State :=
  (s.allocatedAll (tys.map fun ty => (ow, oh, ty))).setRnd
    (some { r with next := set.zip ((List.range tys.length).map fun j => s.img.next + j) })

end Sys2Proof.Claims

/-- R.INPLACE, R.INOUT and R.EXTEND on a stage's channels. An InPlace stage replaces the row segments by its function of
them, with the planes of a reference slot where the stage names one; the colour-management stages by HOST's transform of
the interleaved colour channels, as floats; the alpha stage by the colour samples times alpha. An InOut stage writes the
output positions of its columns from the whole image, blank beyond a border that lies inside it; Extend writes the columns
of the rectangle's width of the frame's row into the canvas row with padding beside them, and drops a row outside the
canvas. The first part of a stage allocates its outputs, the last one
makes them the channels (46_render_pipeline.md R362, R363, R364, R367, R373, R375; 70_reset_and_hazards.md R464). The
operands of a downsampling stage, the blanks, and which part allocates and replaces are notes/assumptions/34.md (DESIGN
CHOICE); the colour channels, the conversion to floats and the refusal without OPT.CMS are notes/assumptions/39.md, the
alpha stage notes/assumptions/50.md (DESIGN CHOICE); that a stage's function and a padding read at most the one reference
slot they name is notes/assumptions/58.md (DESIGN CHOICE); that a channel with no sample there gets padding inside the
rectangle, that a row the rectangle does not have places nothing, and that the rectangle's last row ends the stage is
notes/assumptions/62.md (DESIGN CHOICE). An allocation's hypothesis is that it is granted (notes/assumptions/61.md). -/
def Obligations.PipelineStages : Prop :=
  (∀ (s : State) (f : StageFn) (set hs : List Nat) (y x0 x1 : Nat) (r : Render) (segs : List (List Sample))
    (ref : List (List (List Sample))), s.rnd = some r → Sys2Proof.Claims.channelsOf r set = some hs →
    Sys2Proof.Claims.Segments s hs y x0 (x1 + 1 - x0) segs → Sys2Proof.Claims.RefsAre s f ref →
    ((∃ id, f = .spot id) ∨ (∃ id, f = .named id) ∨ ∃ id slot, f = .withRef id slot) →
    exec (.rInplace ⟨f, set⟩ y x0 x1) s = .next ((Sys2Proof.Claims.putRows s y x0
      (Sys2Proof.Claims.inplaceRows s set hs f y x0 (x1 + 1 - x0) segs ref)).setRet .none)) ∧
  (∀ (s : State) (id slot : Nat) (set hs : List Nat) (y x0 x1 : Nat) (r : Render) (segs : List (List Sample)),
    s.rnd = some r → Sys2Proof.Claims.channelsOf r set = some hs →
    Sys2Proof.Claims.Segments s hs y x0 (x1 + 1 - x0) segs → assocGet s.img.refs slot = none →
    exec (.rInplace ⟨.withRef id slot, set⟩ y x0 x1) s = .next (trapEntry .format s)) ∧
  (∀ (s : State) (f : StageFn) (set hs : List Nat) (y x0 x1 : Nat) (r : Render) (ih : ImageHeader)
    (segs : List (List Sample)), s.rnd = some r → s.par.imageHeader = some ih → f = .cms ∨ f = .cmsInplace →
    Sys2Proof.Claims.channelsOf r (Sys2Proof.Claims.colours r ih set) = some hs →
    Sys2Proof.Claims.Segments s hs y x0 (x1 + 1 - x0) segs →
    (∀ handle, s.ctl.opt.cms = some handle →
      exec (.rInplace ⟨f, set⟩ y x0 x1) s = .next ((Sys2Proof.Claims.putRows s y x0
        (Sys2Proof.Claims.cmsRows s hs handle (x1 + 1 - x0) segs)).setRet .none)) ∧
    (s.ctl.opt.cms = none → exec (.rInplace ⟨f, set⟩ y x0 x1) s = .refused .noColorManagement)) ∧
  (∀ (s : State) (set hs : List Nat) (y x0 x1 : Nat) (r : Render) (ih : ImageHeader) (segs : List (List Sample)),
    s.rnd = some r → s.par.imageHeader = some ih →
    (ih.extra.findIdx? (Cfg.isAlpha s.inp.params) = none →
      exec (.rInplace ⟨.premultiply, set⟩ y x0 x1) s = .next (s.setRet .none)) ∧
    (∀ j ah alpha, ih.extra.findIdx? (Cfg.isAlpha s.inp.params) = some j →
      r.chans[r.chans.length - ih.extra.length + j]? = some ah → s.row ah y x0 (x1 + 1 - x0) = some alpha →
      Sys2Proof.Claims.channelsOf r (Sys2Proof.Claims.colours r ih set) = some hs → hs.Nodup →
      (∀ h ∈ hs, Sys2Proof.Claims.Owned s h) → Sys2Proof.Claims.Segments s hs y x0 (x1 + 1 - x0) segs →
      Sys2Proof.Claims.Typed s hs segs →
      exec (.rInplace ⟨.premultiply, set⟩ y x0 x1) s = .next ((Sys2Proof.Claims.putRows s y x0
        ((hs.zip segs).map fun e => (e.1, List.zipWith (Cfg.premultiplied s.inp.params) e.2 alpha))).setRet .none))) ∧
  (∀ (s : State) (r : Render) (f : StageFn) (set ins outs : List Nat) (bx byy sx sy w ht y x0 x1 : Nat) (up : Bool)
    (ref : List (List (List Sample))),
    Sys2Proof.Claims.Staged s r set ins outs (scaled sx up w) (scaled sy up ht) → Sys2Proof.Claims.Sized s ins w ht →
    y < (if up then ht else scaled sy up ht) → x0 + (x1 + 1 - x0) ≤ (if up then w else scaled sx up w) →
    Sys2Proof.Claims.Seen s ins w ht bx byy sx sy up (outputRange sy up y 1) (outputRange sx up x0 (x1 + 1 - x0)) →
    Sys2Proof.Claims.RefsAre s f ref →
    ∃ t, t = Sys2Proof.Claims.inoutPut s set ins outs w ht f bx byy sx sy up ref (outputRange sy up y 1)
        (outputRange sx up x0 (x1 + 1 - x0)) ∧
      exec (.rInout ⟨f, set⟩ bx byy sx sy up ⟨y, x0, x1⟩) s = .next
        ((if y + 1 = (if up then ht else scaled sy up ht) ∧
            x0 + (x1 + 1 - x0) = (if up then w else scaled sx up w) then
          Sys2Proof.Claims.advanced t r ins else t).setRet .none)) ∧
  (∀ (s : State) (r : Render) (pad : StageFn) (outs : List Nat) (rect : Place) (cw ch y : Nat)
    (ref : List (List (List Sample))),
    Sys2Proof.Claims.Staged s r (List.range r.chans.length) r.chans outs cw ch → Sys2Proof.Claims.RefsAre s pad ref →
    (∀ segs, y < rect.h → 0 ≤ rect.y0 + y → rect.y0 + y < ch →
      allSome (r.chans.map fun h => Sys2Proof.Claims.frameSamples s h y rect.w) = some segs →
      Sys2Proof.Claims.Typed s r.chans segs →
      (∀ e ∈ r.chans.zip outs, Sys2Proof.Claims.typeOf s e.2 = Sys2Proof.Claims.typeOf s e.1) →
      ∃ t, t = Sys2Proof.Claims.putRows s (rect.y0 + y).toNat 0 (((r.chans.zip outs).zip segs).zipIdx.map fun e =>
          (e.1.1.2, Sys2Proof.Claims.canvasLine s.inp.params (Sys2Proof.Claims.typeOf s e.1.1.1) pad ref e.2 cw
            (rect.y0 + y).toNat rect.x0 e.1.2)) ∧
        exec (.rExtend ⟨pad, rect⟩ cw ch y) s = .next
          ((if y + 1 = rect.h then Sys2Proof.Claims.advanced t r r.chans else t).setRet .none)) ∧
    (rect.h ≤ y ∨ rect.y0 + y < 0 ∨ (ch : Int) ≤ rect.y0 + y →
      exec (.rExtend ⟨pad, rect⟩ cw ch y) s = .next
        ((if y + 1 = rect.h then Sys2Proof.Claims.advanced s r r.chans else s).setRet .none))) ∧
  (∀ (s : State) (r : Render) (set ins : List Nat) (w ht : Nat), s.rnd = some r → set ≠ [] → r.next = [] →
    Sys2Proof.Claims.channelsOf r set = some ins →
    Sys2Proof.Claims.Sized s ins w ht → (∀ h ∈ ins, h < s.img.next) → ∀ f bx byy sx sy up y x0 x1,
    (∀ j h, ins[j]? = some h →
      s.grants (s.img.next + j) (scaled sx up w, scaled sy up ht, Sys2Proof.Claims.typeOf s h) = true) →
    exec (.rInout ⟨f, set⟩ bx byy sx sy up ⟨y, x0, x1⟩) s = exec (.rInout ⟨f, set⟩ bx byy sx sy up ⟨y, x0, x1⟩)
      (Sys2Proof.Claims.outputsAllocated s r set (scaled sx up w) (scaled sy up ht)
        (ins.map (Sys2Proof.Claims.typeOf s)))) ∧
  (∀ (s : State) (r : Render) (pad : StageFn) (rect : Place) (cw ch y : Nat), s.rnd = some r → r.chans ≠ [] →
    r.next = [] → (∀ h ∈ r.chans, h < s.img.next ∧ (assocGet s.img.bufs h).isSome = true) →
    (∀ j h, r.chans[j]? = some h → s.grants (s.img.next + j) (cw, ch, Sys2Proof.Claims.typeOf s h) = true) →
    exec (.rExtend ⟨pad, rect⟩ cw ch y) s = exec (.rExtend ⟨pad, rect⟩ cw ch y)
      (Sys2Proof.Claims.outputsAllocated s r (List.range r.chans.length) cw ch
        (r.chans.map (Sys2Proof.Claims.typeOf s))))

namespace Sys2Proof.Claims

/-- The supplied planes are as many as expected and each is large enough. -/
def PlanesOk (out : List Plane) (expected : List (Nat × Nat)) : Prop :=
  out.length = expected.length ∧ ∀ (i : Nat) (pl : Plane) (e : Nat × Nat), out[i]? = some pl → expected[i]? = some e →
    e.1 ≤ pl.rowBytes ∧ e.2 ≤ pl.rows ∧ pl.rowBytes ≤ pl.strideBytes

/-- Output bytes of a sample: `len` bytes at offset `off` of a row, the value `v`. -/
structure OutSample where
  off : Nat
  len : Nat
  value : Nat

/-- Where and what R.SAVE writes for the i-th sample of a row segment from column x0 on. -/
def outSample (s : State) (ih : ImageHeader) (channel x0 i : Nat) (v : Sample) : OutSample :=
  { off := Cfg.pixelOffset s.inp.params (x0 + i) channel (Cfg.outputFormat s.inp.params ih s.ctl.opt.pixelFormat).layout
    len := (Cfg.convert s.inp.params v (Cfg.outputFormat s.inp.params ih s.ctl.opt.pixelFormat).sampleType ih.bitDepth).1
    value :=
      (Cfg.convert s.inp.params v (Cfg.outputFormat s.inp.params ih s.ctl.opt.pixelFormat).sampleType ih.bitDepth).2 }

/-- Byte `k` of an output sample in a byte order: the least significant byte first, or last. -/
def OutSample.byte (o : OutSample) (e : Endian) (k : Nat) : Byte :=
  match e with
  | .little => BitVec.ofNat 8 (o.value / 256 ^ k)
  | .big => BitVec.ofNat 8 (o.value / 256 ^ (o.len - 1 - k))

/-- The sample is written to row `y` of the plane: "A sample is written only inside `[0, rows) × [0, row_bytes)` of its
plane". -/
def OutSample.inside (o : OutSample) (pl : Plane) (y : Nat) : Prop := y < pl.rows ∧ o.off + o.len ≤ pl.rowBytes

end Sys2Proof.Claims

/-- R.SAVE: every sample of the segment that lies inside its plane, and whose bytes no other sample of the segment has,
is written at its offset in the chosen byte order, and every byte of HOST's memory outside the samples is unchanged; "A
sample is written only inside `[0, rows) × [0, row_bytes)` of its plane"; with output buffers absent nothing happens
(46_render_pipeline.md R366). That planes which do not match are RESOURCE_LIMIT at the first save is the spec's decision
D18; that a preview's planes are those of the preview's size is not R365's, which names IMAGE_HEADER, but the spec's own
inference in 91_not_in_source.md N17. That a sample which straddles the end of the row is not
written in part, that Convert gives the width, and that column x1 is included are notes/assumptions/35.md (DESIGN
CHOICE). -/
def Obligations.SaveRow : Prop :=
  (∀ (s : State) (channel plane y x0 x1 : Nat), s.ctl.out = none →
    exec (.rSave channel plane y x0 x1) s = .next { s with ret := .none }) ∧
  (∀ (s : State) (channel plane y x0 x1 : Nat) (out : List Plane) (r : Render) (ih : ImageHeader),
    s.ctl.out = some out → s.rnd = some r → s.par.imageHeader = some ih → r.checked = false →
    ¬ Sys2Proof.Claims.PlanesOk out (Cfg.expectedPlanes s.inp.params (planesHeader s.ctl.fPreview ih)
      s.ctl.opt.pixelFormat) →
    exec (.rSave channel plane y x0 x1) s = .next (trapEntry .resourceLimit s)) ∧
  (∀ (s : State) (channel plane y x0 x1 h : Nat) (out : List Plane) (pl : Plane) (r : Render) (ih : ImageHeader)
    (vs : List Sample),
    s.ctl.out = some out → s.rnd = some r → s.par.imageHeader = some ih →
    (r.checked = true ∨ Sys2Proof.Claims.PlanesOk out (Cfg.expectedPlanes s.inp.params (planesHeader s.ctl.fPreview ih)
      s.ctl.opt.pixelFormat)) →
    r.chans[channel]? = some h → out[plane]? = some pl → s.row h y x0 (x1 + 1 - x0) = some vs →
    ∃ m : Memory,
      exec (.rSave channel plane y x0 x1) s = .next
        { s with rnd := some { r with checked := true }, host := { s.host with outMem := m }, ret := .none } ∧
      (∀ a, (∀ i v, vs[i]? = some v → (Sys2Proof.Claims.outSample s ih channel x0 i v).inside pl y →
          a < pl.base + y * pl.strideBytes + (Sys2Proof.Claims.outSample s ih channel x0 i v).off ∨
          pl.base + y * pl.strideBytes + (Sys2Proof.Claims.outSample s ih channel x0 i v).off +
            (Sys2Proof.Claims.outSample s ih channel x0 i v).len ≤ a) →
        m.read a = s.host.outMem.read a) ∧
      (∀ a, (pl.rows ≤ y ∨ a < pl.base + y * pl.strideBytes ∨ pl.base + y * pl.strideBytes + pl.rowBytes ≤ a) →
        m.read a = s.host.outMem.read a) ∧
      (∀ i v, vs[i]? = some v → (Sys2Proof.Claims.outSample s ih channel x0 i v).inside pl y →
        (∀ j w, vs[j]? = some w → j ≠ i →
          (Sys2Proof.Claims.outSample s ih channel x0 j w).off + (Sys2Proof.Claims.outSample s ih channel x0 j w).len ≤
            (Sys2Proof.Claims.outSample s ih channel x0 i v).off ∨
          (Sys2Proof.Claims.outSample s ih channel x0 i v).off + (Sys2Proof.Claims.outSample s ih channel x0 i v).len ≤
            (Sys2Proof.Claims.outSample s ih channel x0 j w).off) →
        ∀ k, k < (Sys2Proof.Claims.outSample s ih channel x0 i v).len →
          m.read (pl.base + y * pl.strideBytes + (Sys2Proof.Claims.outSample s ih channel x0 i v).off + k) =
            some ((Sys2Proof.Claims.outSample s ih channel x0 i v).byte
              (Cfg.outputFormat s.inp.params ih s.ctl.opt.pixelFormat).endian k)))

namespace Sys2Proof.Claims

/-- PASSES_READY after R.GROUP: for every channel of the group the number of its passes that are DECODED. -/
def readyAfter (s : State) (r : Render) (g : Nat) : List (List Nat) :=
  r.ready.set g (((r.ready[g]?).getD []).map fun _ => passesDecoded s g)

/-- The state with padding on the canvas rows in `rows`, in every channel. -/
def padded (s : State) (chans : List Nat) (pad : StageFn) (ref : List (List (List Sample))) (cw : Nat)
    (rows : List Nat) : State :=
  rows.foldl (fun t y => putRows t y 0 (chans.zipIdx.map fun e =>
    (e.1, (List.range cw).map fun x =>
      Cfg.padding s.inp.params (typeOf s e.1) { f := pad, channel := e.2, y := y, x := x, ref := ref }))) s

/-- The height of a buffer. -/
def heightOf (s : State) (h : Nat) : Nat :=
  match assocGet s.img.bufs h with
  | some b => b.height
  | none => 0

/-- Row `y` of channel `c` is listed. -/
def Lists (rows : List (List Nat)) (c y : Nat) : Prop := ∃ l, rows[c]? = some l ∧ y ∈ l

/-- The canvas rows of a canvas of `ch` rows that the rectangle does not meet. -/
def rowsOutside (ch : Nat) (rect : Place) : List Nat :=
  (List.range ch).filter fun (y : Nat) => decide ((y : Int) < rect.y0 ∨ rect.y0 + rect.h ≤ (y : Int))

end Sys2Proof.Claims

/-- R.GROUP sets PASSES_READY of the group, and nothing else until every group has one more pass and every sample of the
frame's planes is there; then it renders the frame, first in general, then a frame without planes. R.OUTSIDE pads the
canvas rows the frame's rectangle does not meet, all columns of them, and runs the stages after Extend on those rows:
each gives what becomes of them in it, the next one saves these and no others, and finds every row it reads among those
given; where the stages are saves without output buffers, nothing else happens (46_render_pipeline.md R364, R368, R369,
R371). That the whole frame is rendered at once, and R.OUTSIDE on whole rows only, is notes/assumptions/17.md (DESIGN
CHOICE). -/
def Obligations.GroupAndOutside : Prop :=
  (∀ (s : State) (g : Nat) (r : Render) (fh : FrameHeader), s.rnd = some r → s.par.frame = some fh →
    (∀ n, commonPasses (Sys2Proof.Claims.readyAfter s r g) = some n → n ≤ r.rendered ∨
      ∃ plane ∈ s.grp.planes, planeWritten s fh plane = false) →
    exec (.rGroup g) s = .next
      { s with rnd := some { r with ready := Sys2Proof.Claims.readyAfter s r g }, ret := .none }) ∧
  (∀ (s u : State) (g n : Nat) (r v : Render) (fh : FrameHeader), s.rnd = some r → s.par.frame = some fh →
    commonPasses (Sys2Proof.Claims.readyAfter s r g) = some n → r.rendered < n →
    (∀ plane ∈ s.grp.planes, planeWritten s fh plane = true) →
    renderFrame (s.setRnd (some { r with ready := Sys2Proof.Claims.readyAfter s r g })) = .ok () u → u.rnd = some v →
    exec (.rGroup g) s = .next { u with rnd := some { v with rendered := n }, ret := .none }) ∧
  (∀ (s : State) (g n : Nat) (r : Render) (fh : FrameHeader), s.rnd = some r → s.par.frame = some fh →
    commonPasses (Sys2Proof.Claims.readyAfter s r g) = some n → r.rendered < n → s.grp.planes = [] → r.stages = [] →
    exec (.rGroup g) s = .next
      { (s.released r.chans).released (r.next.map Prod.snd) with
        rnd := some { r with ready := Sys2Proof.Claims.readyAfter s r g, chans := [], next := [], rendered := n }
        ret := .none }) ∧
  (∀ (s : State) (pad : StageFn) (cw ch : Nat) (rect : Place) (r : Render) (ref : List (List (List Sample))),
    s.rnd = some r → Sys2Proof.Claims.RefsAre s pad ref →
    (∀ h ∈ r.chans, (assocGet s.img.bufs h).isSome = true ∧ ∀ y ∈ Sys2Proof.Claims.rowsOutside ch rect,
      s.holds (Sys2Proof.Claims.typeOf s h) h 0 y cw 1) →
    (∀ u, each (someRows (s.par.imageHeader.bind fun ih => firstAlpha s.inp.params ih r.chans.length)
          (r.chans.map (Sys2Proof.Claims.heightOf s))
          (List.replicate r.chans.length (Sys2Proof.Claims.rowsOutside ch rect)) (afterExtend r.stages)) runStage
        (Sys2Proof.Claims.padded s r.chans pad ref cw (Sys2Proof.Claims.rowsOutside ch rect)) = .ok () u →
      exec (.rOutside cw ch ⟨pad, rect⟩) s = .next (u.setRet .none)) ∧
    ((∀ st ∈ afterExtend r.stages, s.ctl.out = none ∧
        ∃ channel plane, st = .save channel plane ∧ channel < r.chans.length) →
      exec (.rOutside cw ch ⟨pad, rect⟩) s = .next ((Sys2Proof.Claims.padded s r.chans pad ref cw
        (Sys2Proof.Claims.rowsOutside ch rect)).setRet .none))) ∧
  (∀ (alpha : Option Nat) (heights : List Nat) (rows : List (List Nat)) (l : List RStage) (i : Nat) (a : StageRun),
    rows.length = heights.length → (someRows alpha heights rows l)[i]? = some a →
    l[i]? = some a.stage ∧ (i = 0 → a.heights = heights ∧ a.saves = rows) ∧
    (∀ c y, Sys2Proof.Claims.Lists (rowsAfter a.heights a.saves a.stage) c y → Sys2Proof.Claims.Lists a.gives c y) ∧
    ∀ b, (someRows alpha heights rows l)[i + 1]? = some b →
      b.heights = heightsAfter a.heights a.stage ∧ b.saves = rowsAfter a.heights a.saves a.stage ∧
      ∀ c y, Sys2Proof.Claims.Lists (rowsBefore alpha b.heights b.gives b.stage) c y →
        Sys2Proof.Claims.Lists a.gives c y)

/-! ### Image buffers -/

namespace Sys2Proof.Claims

/-- No live view forbids one of this rectangle of `h`, whose buffer is `b`. -/
def ViewFree (s : State) (h : Nat) (b : Buffer) (x0 y0 w ht : Nat) (mode : Access) : Prop :=
  ∀ e ∈ s.img.bufs, e.2.forbids (rootOf h b).1
    { x0 := (rootOf h b).2.1 + x0, y0 := (rootOf h b).2.2 + y0, w := w, h := ht } mode = false

/-- The state with a view of each of the rows. -/
def rowsViewed (s : State) (h : Nat) (b : Buffer) (rows : List Nat) (mode : Access) : State :=
  match rows with
  | [] => s
  | y :: rest => rowsViewed (s.viewed h b 0 y b.width 1 mode) h b rest mode

end Sys2Proof.Claims

/-- I.ALLOC gives an owned buffer whose samples hold no value, with rows padded to ROW_ALIGN, and rejects sizes that do not
fit ADDR_BITS; memory running out is the same rejection, an open answer that is counted (DESIGN CHOICE,
notes/assumptions/61.md). I.ROW, I.RECT and I.ROWS give views; "The view's length is `width`, never `stride / sizeof(T)`"; a view's
sample is the parent's. I.FREE gives an owned buffer to POOL and frees nothing of a view (47_image_buffer.md R392; R391,
R394, R395, R397). A failed check of I.ROW, I.RECT and I.ROWS ends in a model fault, decision D27. That I.FREE of an owned
buffer with a live borrower is the model fault liveView, which neither R397 nor D27 says, repeated rows in both modes, as
R394's assert has it, handles in rising order, and how long a view lives are notes/assumptions/14.md (DESIGN CHOICE). -/
def Obligations.ImageBuffers : Prop :=
  (∀ (s : State) (w h : Nat) (ty : SampleType),
    (sizesFit s.inp.params w h ty = true → s.outOfMemory s.img.next (w, h, ty) = false →
      exec (.iAlloc w h ty) s = .next ((s.allocated w h ty).setRet (.buf s.img.next))) ∧
    (sizesFit s.inp.params w h ty = false → exec (.iAlloc w h ty) s = .next (trapEntry .resourceLimit s)) ∧
    (sizesFit s.inp.params w h ty = true → s.outOfMemory s.img.next (w, h, ty) = true →
      exec (.iAlloc w h ty) s = .next (trapEntry .resourceLimit s.counted))) ∧
  (∀ (p : Params) (w : Nat) (ty : SampleType),
    2 ^ (p.rowAlignLog.getD Config.rowAlignLog) ∣ strideOf p w ty ∧ w * sampleBytes p ty ≤ strideOf p w ty ∧
    strideOf p w ty < w * sampleBytes p ty + 2 ^ (p.rowAlignLog.getD Config.rowAlignLog)) ∧
  (∀ (s : State) (b y : Nat) (mode : Access) (x : Buffer), assocGet s.img.bufs b = some x →
    (y < x.height → Sys2Proof.Claims.ViewFree s b x 0 y x.width 1 mode →
      exec (.iRow b y mode) s = .next ((s.viewed b x 0 y x.width 1 mode).setRet (.buf s.img.next))) ∧
    (x.height ≤ y → exec (.iRow b y mode) s = .fault .outOfBounds)) ∧
  (∀ (s : State) (b x0 y0 w h : Nat) (mode : Access) (x : Buffer), assocGet s.img.bufs b = some x →
    (x0 + w ≤ x.width → y0 + h ≤ x.height → Sys2Proof.Claims.ViewFree s b x x0 y0 w h mode →
      exec (.iRect b x0 y0 w h mode) s = .next ((s.viewed b x x0 y0 w h mode).setRet (.buf s.img.next))) ∧
    (x0 + w ≤ x.width → y0 + h ≤ x.height → ¬ Sys2Proof.Claims.ViewFree s b x x0 y0 w h mode →
      exec (.iRect b x0 y0 w h mode) s = .fault .viewOverlap) ∧
    (x.width < x0 + w ∨ x.height < y0 + h → exec (.iRect b x0 y0 w h mode) s = .fault .outOfBounds)) ∧
  (∀ (s : State) (b : Nat) (rows : List Nat) (mode : Access) (x : Buffer), assocGet s.img.bufs b = some x →
    s.img.handlesOk = true →
    ((∀ y ∈ rows, y < x.height) → rows.Nodup →
      (∀ y ∈ rows, Sys2Proof.Claims.ViewFree s b x 0 y x.width 1 mode) →
      exec (.iRows b rows mode) s = .next ((Sys2Proof.Claims.rowsViewed s b x rows mode).setRet
        (.bufs ((List.range rows.length).map fun k => s.img.next + k)))) ∧
    ((∃ y ∈ rows, x.height ≤ y) → exec (.iRows b rows mode) s = .fault .outOfBounds) ∧
    ((∀ y ∈ rows, y < x.height) → ¬ rows.Nodup → exec (.iRows b rows mode) s = .fault .viewOverlap)) ∧
  (∀ (s : State) (b : Nat) (x : Buffer), assocGet s.img.bufs b = some x →
    (x.ownership = .owned → (∀ e ∈ s.img.bufs, e.2.borrowsFrom b = false) →
      exec (.iFree b) s = .next ((s.released [b]).setRet .none)) ∧
    (x.ownership = .owned → (∃ e ∈ s.img.bufs, e.2.borrowsFrom b = true) → exec (.iFree b) s = .fault .liveView) ∧
    (x.ownership ≠ .owned → exec (.iFree b) s = .next (s.setRet .none))) ∧
  (∀ (s : State) (b x0 y0 w h : Nat) (mode : Access) (x : Buffer), assocGet s.img.bufs b = some x →
    s.img.handlesOk = true → x0 + w ≤ x.width → y0 + h ≤ x.height →
    Sys2Proof.Claims.ViewFree s b x x0 y0 w h mode →
    (∀ i j, i < w → j < h → (s.viewed b x x0 y0 w h mode).sample s.img.next i j = s.sample b (x0 + i) (y0 + j)) ∧
    (∀ i j, ¬ (i < w ∧ j < h) → (s.viewed b x x0 y0 w h mode).sample s.img.next i j = none)) ∧
  (∀ (s : State) (h x y : Nat) (v : Sample), (s.cell h x y .write).isSome = true →
    (s.putSample h x y v).sample h x y = some v ∧
    ∀ h' x' y', s.cell h' x' y' .read ≠ s.cell h x y .write →
      (s.putSample h x y v).sample h' x' y' = s.sample h' x' y')

/-- HOST's memory is written only where a Save can run: R.SAVE, R.OUTSIDE, R.GROUP, P.DISPATCH and P.FRAME_DONE; the
reference slots only by P.FRAME_DONE and RESET; and no operation changes the machine's configuration, HOST's script, the
words HOST has issued or the fetch port (46_render_pipeline.md R378, 20_memory.md R79). -/
def Obligations.OutAndReferencesChangeOnlyByNamedOperations : Prop :=
  ∀ (i : Instr) (s t : State), exec i s = .next t →
    (t.host.outMem ≠ s.host.outMem →
      (∃ channel plane y x0 x1, i = .rSave channel plane y x0 x1) ∨ (∃ cw ch rect, i = .rOutside cw ch rect) ∨
      (∃ g, i = .rGroup g) ∨ i = .pDispatch ∨ i = .pFrameDone) ∧
    (t.img.refs ≠ s.img.refs → i = .pFrameDone ∨ i = .reset) ∧
    t.inp.params = s.inp.params ∧ t.inp.fetch = s.inp.fetch ∧ t.host.script = s.host.script ∧ t.host.issue = s.host.issue
end

