-- ==== Sys2Proof/Laws/Op.lean ====
section
/-! SUPPORT. The operation type: what each primitive does to a state, how sequencing composes, and what a property of
states needs so that an operation keeps it. -/

namespace Sys2Proof.Machine

variable {α β : Type}

@[simp] theorem Op.pure_apply (a : α) (s : State) : (pure a : Op α) s = .ok a s := rfl
@[simp] theorem stop_apply (e : Stop) (s : State) : (stop e : Op α) s = .error e s := rfl
@[simp] theorem getState_apply (s : State) : getState s = .ok s s := rfl
@[simp] theorem getParams_apply (s : State) : getParams s = .ok s.inp.params s := rfl
@[simp] theorem upd_apply (f : State → State) (s : State) : upd f s = .ok () (f s) := rfl
@[simp] theorem raise_apply (k : Kind) (s : State) : (raise k : Op α) s = .error (.fatal k) s := rfl
@[simp] theorem check_true (k : Kind) (s : State) : check true k s = .ok () s := rfl
@[simp] theorem check_false (k : Kind) (s : State) : check false k s = .error (.fatal k) s := rfl
@[simp] theorem present_some (a : α) (e : Element) (s : State) : present (some a) e s = .ok a s := rfl
@[simp] theorem present_none (e : Element) (s : State) : (present none e : Op α) s = .error (.fault (.absent e)) s := rfl

/-- Sequencing runs the second operation where the first completed. -/
theorem Op.bind_apply (x : Op α) (f : α → Op β) (s : State) :
    (x >>= f) s = match x s with
      | .ok a t => f a t
      | .error e t => .error e t := by
  show EStateM.bind x f s = _
  unfold EStateM.bind
  cases x s <;> rfl

theorem Op.bind_ok {x : Op α} {s t : State} {a : α} (h : x s = .ok a t) (f : α → Op β) : (x >>= f) s = f a t := by
  rw [Op.bind_apply, h]

theorem Op.bind_error {x : Op α} {s t : State} {e : Stop} (h : x s = .error e t) (f : α → Op β) :
    (x >>= f) s = .error e t := by
  rw [Op.bind_apply, h]

/-- An operation that completes as an instruction answers the next state with the returned value. -/
theorem run_ok {op : Op OpValue} {s t : State} {v : OpValue} (h : op s = .ok v t) : run op s = .next (t.setRet v) := by
  simp only [run, finish, h]

theorem runUnit_ok {op : Op Unit} {s t : State} (h : op s = .ok () t) : runUnit op s = .next (t.setRet .none) := by
  unfold runUnit
  exact run_ok (Op.bind_ok h _)

theorem run_fatal {op : Op OpValue} {s t : State} {k : Kind} (h : op s = .error (.fatal k) t) :
    run op s = .next (trapEntry k t) := by
  simp only [run, finish, h]

theorem run_incomplete {op : Op OpValue} {s t : State} {n : Nat} (h : op s = .error (.incomplete n) t) :
    run op s = .next (takeIncomplete n t) := by
  simp only [run, finish, h]

/-- A step that completes commits whole. -/
theorem commitOrAbandon_ok {op : Op α} {s t : State} {a : α} (h : op s = .ok a t) :
    commitOrAbandon op s = .ok a t := by
  simp only [commitOrAbandon, h]

/-- What an abandoned step leaves: the state it began in, but for STAGE with every byte it saw, the input source and the
draws. -/
theorem commitOrAbandon_incomplete {op : Op α} {s t : State} {n : Nat} (h : op s = .error (.incomplete n) t) :
    commitOrAbandon op s = .error (.incomplete n)
      { s with
        par := { s.par with stage := stageAfter s t }, host := { s.host with sources := t.host.sources }, inp := t.inp } := by
  simp only [commitOrAbandon, h]

/-- STAGE after an abandoned step depends on the state it was abandoned in by the source's cursor alone. -/
theorem stageAfter_sources {s t u : State} (h : u.host.sources = t.host.sources) : stageAfter s u = stageAfter s t := by
  simp [stageAfter, State.source, State.setHost, h]

/-- A step that ends in a fatal error ends as it is. -/
theorem commitOrAbandon_fatal {op : Op α} {s t : State} {k : Kind} (h : op s = .error (.fatal k) t) :
    commitOrAbandon op s = .error (.fatal k) t := by
  simp only [commitOrAbandon, h]

/-! ### Properties an operation keeps, however it ends -/

/-- From a state with the property the operation ends in a state with it. -/
def Keeps (P : State → Prop) (op : Op α) : Prop :=
  ∀ s, P s → match op s with
    | .ok _ t => P t
    | .error _ t => P t

variable {P : State → Prop}

theorem Keeps.pure (a : α) : Keeps P (pure a : Op α) := fun _ h => h
theorem Keeps.stop (e : Stop) : Keeps P (stop e : Op α) := fun _ h => h
theorem Keeps.raise (k : Kind) : Keeps P (raise k : Op α) := fun _ h => h
theorem Keeps.getState : Keeps P getState := fun _ h => h
theorem Keeps.getParams : Keeps P getParams := fun _ h => h

theorem Keeps.upd {f : State → State} (h : ∀ s, P s → P (f s)) : Keeps P (upd f) := fun s hs => h s hs

theorem Keeps.check (c : Bool) (k : Kind) : Keeps P (check c k) := by
  intro s h
  cases c <;> exact h

theorem Keeps.present (x : Option α) (e : Element) : Keeps P (present x e) := by
  intro s h
  cases x <;> exact h

theorem Keeps.bind {x : Op α} {f : α → Op β} (hx : Keeps P x) (hf : ∀ a, Keeps P (f a)) : Keeps P (x >>= f) := by
  intro s h
  have h1 := hx s h
  rw [Op.bind_apply]
  cases hxs : x s with
  | ok a t =>
    rw [hxs] at h1
    exact hf a t h1
  | error e t =>
    rw [hxs] at h1
    exact h1

theorem Keeps.each {xs : List α} {f : α → Op Unit} (hf : ∀ a, Keeps P (f a)) : Keeps P (each xs f) := by
  induction xs with
  | nil => exact Keeps.pure ()
  | cons x rest ih => exact Keeps.bind (hf x) fun _ => ih

theorem Keeps.collect {xs : List α} {f : α → Op β} (hf : ∀ a, Keeps P (f a)) : Keeps P (collect xs f) := by
  induction xs with
  | nil => exact Keeps.pure []
  | cons x rest ih => exact Keeps.bind (hf x) fun _ => Keeps.bind ih fun _ => Keeps.pure _

/-- A draw touches the inputs of the step only. -/
theorem Keeps.draw (h : ∀ s i, P s → P (s.setInp fun _ => i)) : Keeps P draw := by
  intro s hs
  unfold Machine.draw
  cases ht : s.inp.tape with
  | nil => exact h s _ hs
  | cons v rest => exact h s _ hs

end Sys2Proof.Machine
end

