-- ==== Sys2Proof/Laws/State.lean ====
section
/-! SUPPORT. One lemma per field per update of State, true by unfolding, so that no proof unfolds a record update. -/

namespace Sys2Proof.Machine

variable (s : State)

@[simp] theorem State.setCtl_ctl (f : Control → Control) : (s.setCtl f).ctl = f s.ctl := rfl
@[simp] theorem State.setCtl_par (f : Control → Control) : (s.setCtl f).par = s.par := rfl
@[simp] theorem State.setCtl_grp (f : Control → Control) : (s.setCtl f).grp = s.grp := rfl
@[simp] theorem State.setCtl_ent (f : Control → Control) : (s.setCtl f).ent = s.ent := rfl
@[simp] theorem State.setCtl_mod (f : Control → Control) : (s.setCtl f).mod = s.mod := rfl
@[simp] theorem State.setCtl_img (f : Control → Control) : (s.setCtl f).img = s.img := rfl
@[simp] theorem State.setCtl_rnd (f : Control → Control) : (s.setCtl f).rnd = s.rnd := rfl
@[simp] theorem State.setCtl_ret (f : Control → Control) : (s.setCtl f).ret = s.ret := rfl
@[simp] theorem State.setCtl_host (f : Control → Control) : (s.setCtl f).host = s.host := rfl
@[simp] theorem State.setCtl_inp (f : Control → Control) : (s.setCtl f).inp = s.inp := rfl

@[simp] theorem State.setPar_ctl (f : Parsing → Parsing) : (s.setPar f).ctl = s.ctl := rfl
@[simp] theorem State.setPar_par (f : Parsing → Parsing) : (s.setPar f).par = f s.par := rfl
@[simp] theorem State.setPar_grp (f : Parsing → Parsing) : (s.setPar f).grp = s.grp := rfl
@[simp] theorem State.setPar_ent (f : Parsing → Parsing) : (s.setPar f).ent = s.ent := rfl
@[simp] theorem State.setPar_mod (f : Parsing → Parsing) : (s.setPar f).mod = s.mod := rfl
@[simp] theorem State.setPar_img (f : Parsing → Parsing) : (s.setPar f).img = s.img := rfl
@[simp] theorem State.setPar_rnd (f : Parsing → Parsing) : (s.setPar f).rnd = s.rnd := rfl
@[simp] theorem State.setPar_ret (f : Parsing → Parsing) : (s.setPar f).ret = s.ret := rfl
@[simp] theorem State.setPar_host (f : Parsing → Parsing) : (s.setPar f).host = s.host := rfl
@[simp] theorem State.setPar_inp (f : Parsing → Parsing) : (s.setPar f).inp = s.inp := rfl

@[simp] theorem State.setGrp_ctl (f : Groups → Groups) : (s.setGrp f).ctl = s.ctl := rfl
@[simp] theorem State.setGrp_par (f : Groups → Groups) : (s.setGrp f).par = s.par := rfl
@[simp] theorem State.setGrp_grp (f : Groups → Groups) : (s.setGrp f).grp = f s.grp := rfl
@[simp] theorem State.setGrp_ent (f : Groups → Groups) : (s.setGrp f).ent = s.ent := rfl
@[simp] theorem State.setGrp_mod (f : Groups → Groups) : (s.setGrp f).mod = s.mod := rfl
@[simp] theorem State.setGrp_img (f : Groups → Groups) : (s.setGrp f).img = s.img := rfl
@[simp] theorem State.setGrp_rnd (f : Groups → Groups) : (s.setGrp f).rnd = s.rnd := rfl
@[simp] theorem State.setGrp_ret (f : Groups → Groups) : (s.setGrp f).ret = s.ret := rfl
@[simp] theorem State.setGrp_host (f : Groups → Groups) : (s.setGrp f).host = s.host := rfl
@[simp] theorem State.setGrp_inp (f : Groups → Groups) : (s.setGrp f).inp = s.inp := rfl

@[simp] theorem State.setEnt_ctl (f : List (ScopeId × ScopeTables) → List (ScopeId × ScopeTables)) : (s.setEnt f).ctl = s.ctl := rfl
@[simp] theorem State.setEnt_par (f : List (ScopeId × ScopeTables) → List (ScopeId × ScopeTables)) : (s.setEnt f).par = s.par := rfl
@[simp] theorem State.setEnt_grp (f : List (ScopeId × ScopeTables) → List (ScopeId × ScopeTables)) : (s.setEnt f).grp = s.grp := rfl
@[simp] theorem State.setEnt_ent (f : List (ScopeId × ScopeTables) → List (ScopeId × ScopeTables)) : (s.setEnt f).ent = f s.ent := rfl
@[simp] theorem State.setEnt_mod (f : List (ScopeId × ScopeTables) → List (ScopeId × ScopeTables)) : (s.setEnt f).mod = s.mod := rfl
@[simp] theorem State.setEnt_img (f : List (ScopeId × ScopeTables) → List (ScopeId × ScopeTables)) : (s.setEnt f).img = s.img := rfl
@[simp] theorem State.setEnt_rnd (f : List (ScopeId × ScopeTables) → List (ScopeId × ScopeTables)) : (s.setEnt f).rnd = s.rnd := rfl
@[simp] theorem State.setEnt_ret (f : List (ScopeId × ScopeTables) → List (ScopeId × ScopeTables)) : (s.setEnt f).ret = s.ret := rfl
@[simp] theorem State.setEnt_host (f : List (ScopeId × ScopeTables) → List (ScopeId × ScopeTables)) : (s.setEnt f).host = s.host := rfl
@[simp] theorem State.setEnt_inp (f : List (ScopeId × ScopeTables) → List (ScopeId × ScopeTables)) : (s.setEnt f).inp = s.inp := rfl

@[simp] theorem State.setMod_ctl (f : Modular → Modular) : (s.setMod f).ctl = s.ctl := rfl
@[simp] theorem State.setMod_par (f : Modular → Modular) : (s.setMod f).par = s.par := rfl
@[simp] theorem State.setMod_grp (f : Modular → Modular) : (s.setMod f).grp = s.grp := rfl
@[simp] theorem State.setMod_ent (f : Modular → Modular) : (s.setMod f).ent = s.ent := rfl
@[simp] theorem State.setMod_mod (f : Modular → Modular) : (s.setMod f).mod = f s.mod := rfl
@[simp] theorem State.setMod_img (f : Modular → Modular) : (s.setMod f).img = s.img := rfl
@[simp] theorem State.setMod_rnd (f : Modular → Modular) : (s.setMod f).rnd = s.rnd := rfl
@[simp] theorem State.setMod_ret (f : Modular → Modular) : (s.setMod f).ret = s.ret := rfl
@[simp] theorem State.setMod_host (f : Modular → Modular) : (s.setMod f).host = s.host := rfl
@[simp] theorem State.setMod_inp (f : Modular → Modular) : (s.setMod f).inp = s.inp := rfl

@[simp] theorem State.setImg_ctl (f : Buffers → Buffers) : (s.setImg f).ctl = s.ctl := rfl
@[simp] theorem State.setImg_par (f : Buffers → Buffers) : (s.setImg f).par = s.par := rfl
@[simp] theorem State.setImg_grp (f : Buffers → Buffers) : (s.setImg f).grp = s.grp := rfl
@[simp] theorem State.setImg_ent (f : Buffers → Buffers) : (s.setImg f).ent = s.ent := rfl
@[simp] theorem State.setImg_mod (f : Buffers → Buffers) : (s.setImg f).mod = s.mod := rfl
@[simp] theorem State.setImg_img (f : Buffers → Buffers) : (s.setImg f).img = f s.img := rfl
@[simp] theorem State.setImg_rnd (f : Buffers → Buffers) : (s.setImg f).rnd = s.rnd := rfl
@[simp] theorem State.setImg_ret (f : Buffers → Buffers) : (s.setImg f).ret = s.ret := rfl
@[simp] theorem State.setImg_host (f : Buffers → Buffers) : (s.setImg f).host = s.host := rfl
@[simp] theorem State.setImg_inp (f : Buffers → Buffers) : (s.setImg f).inp = s.inp := rfl

@[simp] theorem State.setRnd_ctl (f : Option Render) : (s.setRnd f).ctl = s.ctl := rfl
@[simp] theorem State.setRnd_par (f : Option Render) : (s.setRnd f).par = s.par := rfl
@[simp] theorem State.setRnd_grp (f : Option Render) : (s.setRnd f).grp = s.grp := rfl
@[simp] theorem State.setRnd_ent (f : Option Render) : (s.setRnd f).ent = s.ent := rfl
@[simp] theorem State.setRnd_mod (f : Option Render) : (s.setRnd f).mod = s.mod := rfl
@[simp] theorem State.setRnd_img (f : Option Render) : (s.setRnd f).img = s.img := rfl
@[simp] theorem State.setRnd_rnd (f : Option Render) : (s.setRnd f).rnd = f := rfl
@[simp] theorem State.setRnd_ret (f : Option Render) : (s.setRnd f).ret = s.ret := rfl
@[simp] theorem State.setRnd_host (f : Option Render) : (s.setRnd f).host = s.host := rfl
@[simp] theorem State.setRnd_inp (f : Option Render) : (s.setRnd f).inp = s.inp := rfl

@[simp] theorem State.setHost_ctl (f : HostSide → HostSide) : (s.setHost f).ctl = s.ctl := rfl
@[simp] theorem State.setHost_par (f : HostSide → HostSide) : (s.setHost f).par = s.par := rfl
@[simp] theorem State.setHost_grp (f : HostSide → HostSide) : (s.setHost f).grp = s.grp := rfl
@[simp] theorem State.setHost_ent (f : HostSide → HostSide) : (s.setHost f).ent = s.ent := rfl
@[simp] theorem State.setHost_mod (f : HostSide → HostSide) : (s.setHost f).mod = s.mod := rfl
@[simp] theorem State.setHost_img (f : HostSide → HostSide) : (s.setHost f).img = s.img := rfl
@[simp] theorem State.setHost_rnd (f : HostSide → HostSide) : (s.setHost f).rnd = s.rnd := rfl
@[simp] theorem State.setHost_ret (f : HostSide → HostSide) : (s.setHost f).ret = s.ret := rfl
@[simp] theorem State.setHost_host (f : HostSide → HostSide) : (s.setHost f).host = f s.host := rfl
@[simp] theorem State.setHost_inp (f : HostSide → HostSide) : (s.setHost f).inp = s.inp := rfl

@[simp] theorem State.setInp_ctl (f : Inputs → Inputs) : (s.setInp f).ctl = s.ctl := rfl
@[simp] theorem State.setInp_par (f : Inputs → Inputs) : (s.setInp f).par = s.par := rfl
@[simp] theorem State.setInp_grp (f : Inputs → Inputs) : (s.setInp f).grp = s.grp := rfl
@[simp] theorem State.setInp_ent (f : Inputs → Inputs) : (s.setInp f).ent = s.ent := rfl
@[simp] theorem State.setInp_mod (f : Inputs → Inputs) : (s.setInp f).mod = s.mod := rfl
@[simp] theorem State.setInp_img (f : Inputs → Inputs) : (s.setInp f).img = s.img := rfl
@[simp] theorem State.setInp_rnd (f : Inputs → Inputs) : (s.setInp f).rnd = s.rnd := rfl
@[simp] theorem State.setInp_ret (f : Inputs → Inputs) : (s.setInp f).ret = s.ret := rfl
@[simp] theorem State.setInp_host (f : Inputs → Inputs) : (s.setInp f).host = s.host := rfl
@[simp] theorem State.setInp_inp (f : Inputs → Inputs) : (s.setInp f).inp = f s.inp := rfl

@[simp] theorem State.setRet_ctl (f : OpValue) : (s.setRet f).ctl = s.ctl := rfl
@[simp] theorem State.setRet_par (f : OpValue) : (s.setRet f).par = s.par := rfl
@[simp] theorem State.setRet_grp (f : OpValue) : (s.setRet f).grp = s.grp := rfl
@[simp] theorem State.setRet_ent (f : OpValue) : (s.setRet f).ent = s.ent := rfl
@[simp] theorem State.setRet_mod (f : OpValue) : (s.setRet f).mod = s.mod := rfl
@[simp] theorem State.setRet_img (f : OpValue) : (s.setRet f).img = s.img := rfl
@[simp] theorem State.setRet_rnd (f : OpValue) : (s.setRet f).rnd = s.rnd := rfl
@[simp] theorem State.setRet_ret (f : OpValue) : (s.setRet f).ret = f := rfl
@[simp] theorem State.setRet_host (f : OpValue) : (s.setRet f).host = s.host := rfl
@[simp] theorem State.setRet_inp (f : OpValue) : (s.setRet f).inp = s.inp := rfl

end Sys2Proof.Machine
end

