-- ==== Sys2Proof/Laws/Access.lean ====
section
/-! SUPPORT. One spec lemma per shared operation: reading bits and parsing, drawing, samples and rows, buffers. Each
says what the operation answers and the state it leaves, in the vocabulary of Safety.lean. -/

namespace Sys2Proof.Machine

set_option Elab.async false

variable {α : Type} {s : State}

/-! ### Bits -/

theorem needBits_ok {n : Nat} (h : n ≤ s.bitsHere.length) : needBits n s = .ok () s := by
  unfold needBits
  rw [Op.bind_ok (getState_apply s), if_pos h]
  rfl

theorem setBitpos_ok {p : Nat} (h : p < 2 ^ (s.inp.params.posBits.getD Config.posBits)) :
    setBitpos p s = .ok () (s.setCtl fun c => { c with bitpos := p }) := by
  unfold setBitpos
  rw [if_pos h]

theorem advance_ok {n : Nat} (h : s.fits n) : advance n s = .ok () (s.moved n) := by
  unfold advance State.moved
  rw [Op.bind_ok (getState_apply s)]
  cases hr : s.par.reader with
  | some r => rfl
  | none => exact setBitpos_ok (h hr)

theorem readBits_ok {n : Nat} (h : s.canRead n) :
    readBits n s = .ok (natOfBits (s.bitsHere.take n)) (s.moved n) := by
  unfold readBits
  rw [Op.bind_ok (needBits_ok h.1), Op.bind_ok (getState_apply s), Op.bind_ok (advance_ok h.2)]
  rfl

theorem ask_ok {f : Bits → Answer α} {v : α} {n : Nat} (h : firstAnswer f s.bitsHere = .parsed v n) :
    ask f s = .ok (v, n) s := by
  unfold ask
  rw [Op.bind_ok (getState_apply s)]
  unfold askLoop
  rw [Op.bind_ok (getState_apply s), h]
  rfl

theorem ask_malformed {f : Bits → Answer α} {k : Kind} (h : firstAnswer f s.bitsHere = .malformed k) :
    ask f s = .error (.fatal k) s := by
  unfold ask
  rw [Op.bind_ok (getState_apply s)]
  unfold askLoop
  rw [Op.bind_ok (getState_apply s), h]
  rfl

/-- What a machine hears of a parser function that rejects is what the function says of some prefix. -/
theorem firstAnswer_malformed {f : Bits → Answer α} {bits : Bits} {k : Kind} (h : firstAnswer f bits = .malformed k) :
    ∃ seen, f seen = .malformed k := by
  suffices ∀ seen, firstAnswerFrom f seen bits = .malformed k → ∃ seen, f seen = .malformed k from this [] h
  clear h
  induction bits with
  | nil =>
    intro seen h
    refine ⟨seen, ?_⟩
    unfold firstAnswerFrom at h
    cases hf : f seen with
    | parsed v n => rw [hf] at h; by_cases hn : n ≤ seen.length <;> simp [Answer.within, hn] at h
    | needMore => rw [hf] at h; simp [Answer.within] at h
    | malformed j => rw [hf] at h; simpa [Answer.within] using h
  | cons b rest ih =>
    intro seen h
    unfold firstAnswerFrom at h
    cases hf : f seen with
    | parsed v n =>
      rw [hf] at h
      by_cases hn : n ≤ seen.length
      · simp [Answer.within, hn] at h
      · simp only [Answer.within, if_neg hn] at h; exact ih _ h
    | needMore => rw [hf] at h; exact ih _ h
    | malformed j =>
      rw [hf] at h
      exact ⟨seen, hf.trans (by simpa [Answer.within] using h)⟩

theorem asFormat_malformed {a : Answer α} {k : Kind} (h : a.asFormat = .malformed k) : k = .format := by
  cases a with
  | malformed j => simpa [Answer.asFormat] using h.symm
  | parsed v n => simp [Answer.asFormat] at h
  | needMore => simp [Answer.asFormat] at h

theorem asCoded_malformed {a : Answer α} {k : Kind} (h : a.asCoded = .malformed k) : k = .format ∨ k = .checksum := by
  cases a with
  | malformed j => cases j <;> · simp [Answer.asCoded] at h; subst h; decide
  | parsed v n => simp [Answer.asCoded] at h
  | needMore => simp [Answer.asCoded] at h

theorem asNested_malformed {a : Answer α} {k : Kind} (h : a.asNested = .malformed k) : k ≠ .transform := by
  cases a with
  | malformed j => cases j <;> · simp [Answer.asNested] at h; subst h; decide
  | parsed v n => simp [Answer.asNested] at h
  | needMore => simp [Answer.asNested] at h

theorem parse_ok {f : Bits → Answer α} {v : α} {n : Nat} (h : s.answers f v n) : parse f s = .ok v (s.moved n) := by
  unfold parse
  rw [Op.bind_ok (ask_ok h.1), Op.bind_ok (advance_ok h.2)]
  rfl

/-- What a function rejects is raised where the bits begin. -/
theorem parse_malformed {f : Bits → Answer α} {k : Kind} (h : firstAnswer f s.bitsHere = .malformed k) :
    parse f s = .error (.fatal k) s := by
  have ha : ask f s = .error (.fatal k) s := by
    unfold ask
    rw [Op.bind_ok (getState_apply s)]
    unfold askLoop
    rw [Op.bind_ok (getState_apply s), h]
    rfl
  exact Op.bind_error ha _

@[simp] theorem moved_inp (s : State) (n : Nat) : (s.moved n).inp = s.inp := by unfold State.moved; split <;> rfl
@[simp] theorem moved_img (s : State) (n : Nat) : (s.moved n).img = s.img := by unfold State.moved; split <;> rfl
@[simp] theorem moved_grp (s : State) (n : Nat) : (s.moved n).grp = s.grp := by unfold State.moved; split <;> rfl
@[simp] theorem moved_ent (s : State) (n : Nat) : (s.moved n).ent = s.ent := by unfold State.moved; split <;> rfl
@[simp] theorem moved_mod (s : State) (n : Nat) : (s.moved n).mod = s.mod := by unfold State.moved; split <;> rfl
@[simp] theorem moved_rnd (s : State) (n : Nat) : (s.moved n).rnd = s.rnd := by unfold State.moved; split <;> rfl
@[simp] theorem moved_host (s : State) (n : Nat) : (s.moved n).host = s.host := by unfold State.moved; split <;> rfl
@[simp] theorem moved_frame (s : State) (n : Nat) : (s.moved n).par.frame = s.par.frame := by
  unfold State.moved; split <;> rfl
@[simp] theorem moved_imageHeader (s : State) (n : Nat) : (s.moved n).par.imageHeader = s.par.imageHeader := by
  unfold State.moved; split <;> rfl
@[simp] theorem moved_sect (s : State) (n : Nat) : (s.moved n).par.sect = s.par.sect := by
  unfold State.moved; split <;> rfl
@[simp] theorem moved_opt (s : State) (n : Nat) : (s.moved n).ctl.opt = s.ctl.opt := by
  unfold State.moved; split <;> rfl
@[simp] theorem moved_out (s : State) (n : Nat) : (s.moved n).ctl.out = s.ctl.out := by
  unfold State.moved; split <;> rfl
@[simp] theorem moved_scope (s : State) (n : Nat) (sc : ScopeId) : (s.moved n).scope sc = s.scope sc := by
  unfold State.scope; rw [moved_ent]

/-- Two moves are one. -/
theorem moved_moved (s : State) (m n : Nat) : (s.moved m).moved n = s.moved (m + n) := by
  cases s with
  | mk ctl par grp ent mod img rnd ret host inp =>
    cases par with
    | mk ih fr toc sect sl st reader =>
      cases reader with
      | some r => simp [State.moved, State.setPar, Nat.add_assoc]
      | none => simp [State.moved, State.setCtl, Nat.add_assoc]

/-! ### Draws -/

theorem draw_ok (s : State) :
    draw s = .ok (match s.inp.tape with
      | v :: _ => v
      | [] => Config.freeNat s.inp.drawCount) s.drawn := by
  unfold draw State.drawn
  cases h : s.inp.tape with
  | cons v rest => simp only [State.setInp, h, List.tail_cons]
  | nil => simp only [State.setInp, h, List.tail_nil]

/-! ### Samples -/

theorem getBuf_ok {h : Nat} {b : Buffer} (hb : assocGet s.img.bufs h = some b) : getBuf h s = .ok b s := by
  unfold getBuf
  rw [Op.bind_ok (getState_apply s), hb]
  rfl

/-- `locate` answers the cell, and changes nothing. -/
theorem locate_ok {h x y : Nat} {mode : Access} {c : Nat × Nat} (hc : s.cell h x y mode = some c) :
    ∃ r, assocGet s.img.bufs c.1 = some r ∧ locate h x y mode s = .ok (c.1, r, c.2) s := by
  unfold State.cell at hc
  cases hb : assocGet s.img.bufs h with
  | none => simp [hb] at hc
  | some b =>
    simp only [hb] at hc
    by_cases hin : x < b.width ∧ y < b.height
    · simp only [if_pos hin] at hc
      cases hr : assocGet s.img.bufs (rootOf h b).1 with
      | none => simp [hr] at hc
      | some r =>
        simp only [hr] at hc
        split at hc
        · simp at hc
        · next hcl =>
          split at hc
          · simp at hc
          · next hw =>
            simp only [Option.some.injEq] at hc
            subst hc
            refine ⟨r, hr, ?_⟩
            unfold locate
            rw [Op.bind_ok (getBuf_ok hb), if_pos hin]
            rw [Op.bind_ok (getBuf_ok hr), Op.bind_ok (getState_apply s), if_neg hcl, if_neg hw]
            rfl
    · simp [hin] at hc

theorem readSample_ok {h x y : Nat} {v : Sample} (hv : s.sample h x y = some v) : readSample h x y s = .ok v s := by
  unfold State.sample at hv
  cases hc : s.cell h x y .read with
  | none => simp [hc] at hv
  | some c =>
    obtain ⟨r, hr, hl⟩ := locate_ok hc
    simp only [hc, State.sampleIn, hr] at hv
    unfold readSample
    rw [Op.bind_ok hl, hv]
    rfl

theorem writeSample_ok {h x y : Nat} {v : Sample} (hw : s.canWrite v.type h x y = true) :
    writeSample h x y v s = .ok () (s.putSample h x y v) := by
  unfold State.canWrite at hw
  unfold State.putSample
  cases hc : s.cell h x y .write with
  | none => simp [hc] at hw
  | some c =>
    obtain ⟨r, hr, hl⟩ := locate_ok hc
    simp only [hc, hr, decide_eq_true_eq] at hw ⊢
    unfold writeSample
    rw [Op.bind_ok hl]
    simp only [hw, decide_true]
    rw [Op.bind_ok (check_true _ s)]
    rfl

/-! ### Association lists -/

theorem assocGet_assocSet {κ β : Type} [DecidableEq κ] (l : List (κ × β)) (a k : κ) (b : β) :
    assocGet (assocSet l a b) k = if k = a then some b else assocGet l k := by
  induction l with
  | nil =>
    simp only [assocSet, assocGet]
    by_cases h : k = a
    · subst h; simp
    · simp [h, Ne.symm h]
  | cons e rest ih =>
    cases e with
    | mk k' v =>
      simp only [assocSet]
      by_cases hk : k' = a
      · subst hk
        by_cases h : k' = k
        · subst h; simp [assocGet]
        · simp [assocGet, h, Ne.symm h]
      · simp only [if_neg hk, assocGet]
        by_cases h : k' = k
        · subst h; simp [hk]
        · simp only [if_neg h, ih]

/-- Replacing an entry by one of the same answer changes no test of the list. -/
theorem any_assocSet {κ β : Type} [DecidableEq κ] (f : κ × β → Bool) (l : List (κ × β)) {a : κ} {b b' : β}
    (hb : assocGet l a = some b) (hf : f (a, b') = f (a, b)) : (assocSet l a b').any f = l.any f := by
  induction l with
  | nil => simp [assocGet] at hb
  | cons e rest ih =>
    cases e with
    | mk k v =>
      by_cases hk : k = a
      · subst hk
        simp only [assocGet, if_true, Option.some.injEq] at hb
        subst hb
        simp [assocSet, hf]
      · simp only [assocGet, if_neg hk] at hb
        simp only [assocSet, if_neg hk, List.any_cons, ih hb]

/-- A written sample changes no buffer's size, type, stride or ownership. -/
theorem putSample_shape (s : State) (h x y : Nat) (v : Sample) (k : Nat) :
    (assocGet (s.putSample h x y v).img.bufs k).map (fun b => (b.width, b.height, b.ty, b.stride, b.ownership)) =
      (assocGet s.img.bufs k).map fun b => (b.width, b.height, b.ty, b.stride, b.ownership) := by
  unfold State.putSample
  split
  · rfl
  · split
    · rfl
    · next c hc _ b hb =>
      show Option.map _ (assocGet (assocSet s.img.bufs c.1 _) k) = _
      rw [assocGet_assocSet]
      by_cases hk : k = c.1
      · subst hk; simp [hb]
      · simp [hk]

/-- A written sample changes no check against the live views. -/
theorem putSample_clashes (s : State) (h x y : Nat) (v : Sample) (h' root x' y' : Nat) (mode : Access) :
    clashes (s.putSample h x y v).img.bufs h' root x' y' mode = clashes s.img.bufs h' root x' y' mode := by
  unfold State.putSample
  split
  · rfl
  · split
    · rfl
    · next c hc _ b hb =>
      show clashes (assocSet s.img.bufs c.1 _) h' root x' y' mode = _
      unfold clashes
      exact any_assocSet _ _ hb rfl

/-- A written sample moves no cell. -/
theorem putSample_cell (s : State) (h x y : Nat) (v : Sample) (h' x' y' : Nat) (mode : Access) :
    (s.putSample h x y v).cell h' x' y' mode = s.cell h' x' y' mode := by
  have key : ∀ k, (assocGet (s.putSample h x y v).img.bufs k).map
      (fun b => (b.width, b.height, b.ty, b.stride, b.ownership)) =
      (assocGet s.img.bufs k).map fun b => (b.width, b.height, b.ty, b.stride, b.ownership) :=
    putSample_shape s h x y v
  unfold State.cell
  have h1 := key h'
  cases ha : assocGet (s.putSample h x y v).img.bufs h' with
  | none =>
    rw [ha] at h1
    cases hb : assocGet s.img.bufs h' with
    | none => rfl
    | some b => simp [hb] at h1
  | some a =>
    rw [ha] at h1
    cases hb : assocGet s.img.bufs h' with
    | none => simp [hb] at h1
    | some b =>
      rw [hb] at h1
      simp only [Option.map_some, Option.some.injEq, Prod.mk.injEq] at h1
      obtain ⟨hw, hh, -, -, ho⟩ := h1
      have hroot : rootOf h' a = rootOf h' b := by unfold rootOf; rw [ho]
      have hwr : a.writable = b.writable := by unfold Buffer.writable; rw [ho]
      simp only [hw, hh, hroot, hwr, putSample_clashes]
      split
      · have h2 := key (rootOf h' b).1
        cases hc : assocGet (s.putSample h x y v).img.bufs (rootOf h' b).1 with
        | none =>
          rw [hc] at h2
          cases hd : assocGet s.img.bufs (rootOf h' b).1 with
          | none => rfl
          | some d => simp [hd] at h2
        | some c =>
          rw [hc] at h2
          cases hd : assocGet s.img.bufs (rootOf h' b).1 with
          | none => simp [hd] at h2
          | some d =>
            rw [hd] at h2
            simp only [Option.map_some, Option.some.injEq, Prod.mk.injEq] at h2
            simp only [h2.1]
      · rfl

/-- A written sample leaves what may be written. -/
theorem putSample_canWrite (s : State) (h x y : Nat) (v : Sample) (ty : SampleType) (h' x' y' : Nat) :
    (s.putSample h x y v).canWrite ty h' x' y' = s.canWrite ty h' x' y' := by
  unfold State.canWrite
  rw [putSample_cell]
  cases hc : s.cell h' x' y' .write with
  | none => rfl
  | some c =>
    have h1 := putSample_shape s h x y v c.1
    cases ha : assocGet (s.putSample h x y v).img.bufs c.1 with
    | none =>
      cases hb : assocGet s.img.bufs c.1 with
      | none => simp only [ha, hb]
      | some b => rw [ha, hb] at h1; simp at h1
    | some a =>
      cases hb : assocGet s.img.bufs c.1 with
      | none => rw [ha, hb] at h1; simp at h1
      | some b =>
        rw [ha, hb] at h1
        simp only [Option.map_some, Option.some.injEq, Prod.mk.injEq] at h1
        simp only [ha, hb, h1.2.2.1]

/-! ### Collecting present samples -/

theorem collect_ok {β γ : Type} {f : β → Op γ} {g : β → Option γ} (l : List β) {vs : List γ}
    (hf : ∀ a ∈ l, ∀ v, g a = some v → f a s = .ok v s) (h : allSome (l.map g) = some vs) :
    collect l f s = .ok vs s := by
  induction l generalizing vs with
  | nil =>
    simp only [List.map_nil, allSome, Option.some.injEq] at h
    subst h
    rfl
  | cons a rest ih =>
    simp only [List.map_cons] at h
    cases hg : g a with
    | none => simp [hg, allSome] at h
    | some v =>
      cases ht : allSome (rest.map g) with
      | none => simp [hg, ht, allSome] at h
      | some ws =>
        simp only [hg, ht, allSome, Option.some.injEq] at h
        subst h
        unfold collect
        rw [Op.bind_ok (hf a (by simp) v hg), Op.bind_ok (ih (fun b hb => hf b (by simp [hb])) ht)]
        rfl

theorem readRow_ok {h y x0 n : Nat} {vs : List Sample} (hv : s.row h y x0 n = some vs) :
    readRow h y x0 n s = .ok vs s :=
  collect_ok (g := fun k => s.sample h (x0 + k) y) (List.range n) (fun _ _ _ hk => readSample_ok hk) hv

theorem readAll_ok {h : Nat} {b : Buffer} {vs : List Sample} (hb : assocGet s.img.bufs h = some b)
    (hv : s.raster h b.width b.height = some vs) : readAll h s = .ok vs s := by
  unfold readAll
  rw [Op.bind_ok (getBuf_ok hb)]
  exact collect_ok (g := fun k => s.sample h (k % b.width) (k / b.width)) _ (fun _ _ _ hk => readSample_ok hk) hv

theorem readTile_ok {h w ht x0 y0 : Nat} {vs : List Sample} (hv : s.tile h w ht x0 y0 = some vs) :
    readTile h w ht x0 y0 s = .ok vs s :=
  collect_ok (g := fun k => s.sample h (x0 + k % w) (y0 + k / w)) _ (fun _ _ _ hk => readSample_ok hk) hv

theorem writeRow_ok {ty : SampleType} {h y x0 : Nat} (vs : List Sample) (ht : ∀ v ∈ vs, v.type = ty)
    (hc : ∀ x, x < vs.length → s.canWrite ty h (x0 + x) y = true) :
    writeRow h y x0 vs s = .ok () (s.putRow h y x0 vs) := by
  induction vs generalizing s x0 with
  | nil => rfl
  | cons v rest ih =>
    unfold writeRow State.putRow
    rw [Op.bind_ok (writeSample_ok (by rw [ht v (by simp)]; simpa using hc 0 (by simp)))]
    apply ih (fun u hu => ht u (by simp [hu]))
    intro x hx
    rw [putSample_canWrite]
    have := hc (x + 1) (by simpa using hx)
    rwa [show x0 + 1 + x = x0 + (x + 1) by omega]

/-- Writing samples one by one in raster order of a tile of width `w`. -/
theorem each_writeTile_ok {ty : SampleType} {h w x0 y0 : Nat} (vs : List Sample) (k : Nat)
    (ht : ∀ v ∈ vs, v.type = ty)
    (hc : ∀ j, j < vs.length → s.canWrite ty h (x0 + (k + j) % w) (y0 + (k + j) / w) = true) :
    each (vs.zipIdx k) (fun e => writeSample h (x0 + e.2 % w) (y0 + e.2 / w) e.1) s =
      .ok () (s.putTile h w x0 y0 k vs) := by
  induction vs generalizing s k with
  | nil => rfl
  | cons v rest ih =>
    simp only [List.zipIdx_cons, each, State.putTile]
    rw [Op.bind_ok (writeSample_ok (by rw [ht v (by simp)]; simpa using hc 0 (by simp)))]
    apply ih _ (fun u hu => ht u (by simp [hu]))
    intro j hj
    rw [putSample_canWrite]
    have := hc (j + 1) (by simpa using hj)
    rwa [show k + 1 + j = k + (j + 1) by omega]

theorem writeTile_ok {ty : SampleType} {h w x0 y0 : Nat} (vs : List Sample) (ht : ∀ v ∈ vs, v.type = ty)
    (hc : ∀ j, j < vs.length → s.canWrite ty h (x0 + j % w) (y0 + j / w) = true) :
    writeTile h w x0 y0 vs s = .ok () (s.putTile h w x0 y0 0 vs) :=
  each_writeTile_ok vs 0 ht (by intro j hj; simpa using hc j hj)

theorem writeAll_ok {ty : SampleType} {h : Nat} {b : Buffer} (vs : List Sample) (hb : assocGet s.img.bufs h = some b)
    (ht : ∀ v ∈ vs, v.type = ty)
    (hc : ∀ j, j < vs.length → s.canWrite ty h (j % b.width) (j / b.width) = true) :
    writeAll h vs s = .ok () (s.putTile h b.width 0 0 0 vs) := by
  unfold writeAll
  rw [Op.bind_ok (getBuf_ok hb)]
  have := each_writeTile_ok (s := s) (h := h) (w := b.width) (x0 := 0) (y0 := 0) vs 0 ht
    (by intro j hj; simpa using hc j hj)
  simpa using this

/-! ### Integers and neighbours -/

theorem asInt_ok {v : Sample} {z : Int} (h : v.int? = some z) : asInt v s = .ok z s := by
  cases v <;> simp_all [Sample.int?, asInt]

theorem getInt_ok {h x y : Nat} {z : Int} (hz : s.intAt h x y = some z) : getInt h x y s = .ok z s := by
  unfold State.intAt at hz
  cases hs : s.sample h x y with
  | none => simp [hs] at hz
  | some v =>
    simp only [hs] at hz
    unfold getInt
    rw [Op.bind_ok (readSample_ok hs)]
    exact asInt_ok hz

theorem getIntIf_ok {c : Bool} {h x y : Nat} {v : Option Int} (hv : s.neighbourIs h c x y v) :
    getIntIf c h x y s = .ok v s := by
  unfold State.neighbourIs at hv
  unfold getIntIf
  cases c with
  | true =>
    simp only [if_true] at hv ⊢
    obtain ⟨h1, h2⟩ := hv
    cases hz : s.intAt h x y with
    | none => simp [hz] at h1
    | some z =>
      rw [Op.bind_ok (getInt_ok hz), h2, hz]
      rfl
  | false =>
    simp only [Bool.false_eq_true, if_false] at hv ⊢
    subst hv
    rfl

theorem rawNeighbours_ok {h w x y : Nat} {r : RawNeighbours} (hr : s.neighboursAre h w x y r) :
    rawNeighbours h w x y s = .ok r s := by
  unfold rawNeighbours
  rw [Op.bind_ok (getIntIf_ok hr.west), Op.bind_ok (getIntIf_ok hr.north), Op.bind_ok (getIntIf_ok hr.northWest),
    Op.bind_ok (getIntIf_ok hr.northEast), Op.bind_ok (getIntIf_ok hr.westWest), Op.bind_ok (getIntIf_ok hr.northNorth),
    Op.bind_ok (getIntIf_ok hr.northEastEast)]
  rfl

theorem neighboursAt_ok {ch h x y : Nat} {b : Buffer} {r : RawNeighbours} (hb : assocGet s.img.bufs h = some b)
    (hr : s.neighboursAre h b.width x y r) :
    neighboursAt ch h x y s = .ok (Cfg.neighbours s.inp.params (ch, x, y) r) s := by
  unfold neighboursAt
  rw [Op.bind_ok (getBuf_ok hb), Op.bind_ok (getParams_apply s), Op.bind_ok (rawNeighbours_ok hr)]
  rfl

/-- A neighbour inside the channel is its sample, whatever the edge convention (44_modular.md R291). -/
@[simp] theorem neighbours_present (p : Params) (at_ : Nat × Nat × Nat) (a b c d e f g : Int) :
    Cfg.neighbours p at_ ⟨some a, some b, some c, some d, some e, some f, some g⟩ = ⟨a, b, c, d, e, f, g⟩ := rfl

/-! ### Weights (44_modular.md R294) -/

theorem mem_noLarger {l acc : List (Option Nat)} :
    l ∈ Cfg.noLarger acc ↔ List.Forall₂ (Option.Rel fun a b => a ≤ b) l acc := by
  induction acc generalizing l with
  | nil => simp [Cfg.noLarger]
  | cons x rest ih =>
    cases x with
    | none =>
      simp only [Cfg.noLarger, List.mem_map, ih]
      constructor
      · rintro ⟨t, ht, rfl⟩; exact .cons .none ht
      · rintro (_ | ⟨h, ht⟩); cases h; exact ⟨_, ht, rfl⟩
    | some n =>
      simp only [Cfg.noLarger, List.mem_flatMap, List.mem_range, List.mem_map, ih]
      constructor
      · rintro ⟨k, hk, t, ht, rfl⟩; exact .cons (.some (by omega)) ht
      · rintro (_ | ⟨h, ht⟩)
        cases h with
        | some h => exact ⟨_, by omega, _, ht, rfl⟩

/-- The weight of an open weight function is its least value on accumulators none of which is larger. -/
theorem le_wpWeight_iff {p : Params} (hp : p.wpWeight ≠ .usual) {maxw v : Nat} {acc : List (Option Nat)} :
    v ≤ Cfg.wpWeight p maxw acc ↔
      ∀ l ∈ Cfg.noLarger acc, v ≤ Fn.get p.wpWeight Config.wpWeight Usual.wpWeight (maxw, l) := by
  have fold : ∀ (f : List (Option Nat) → Nat) (ls : List (List (Option Nat))) (b : Nat),
      v ≤ ls.foldl (fun v a => min v (f a)) b ↔ v ≤ b ∧ ∀ l ∈ ls, v ≤ f l := by
    intro f ls
    induction ls with
    | nil => simp
    | cons x rest ih => intro b; simp [ih, and_assoc]
  have self : acc ∈ Cfg.noLarger acc := mem_noLarger.2 (List.forall₂_same.2 fun x _ => by
    cases x with
    | none => exact .none
    | some n => exact .some (Nat.le_refl n))
  rw [Cfg.wpWeight, if_neg hp, fold]
  exact ⟨fun h => h.2, fun h => ⟨h _ self, h⟩⟩

/-! ### Buffers and scopes -/

/-- The configuration and the count of refusals and RESETs decide which allocations succeed. -/
theorem grants_congr {s t : State} (hp : t.inp.params = s.inp.params) (hm : t.inp.memCount = s.inp.memCount) :
    t.grants = s.grants := by
  funext k e; simp [State.grants, State.outOfMemory, hp, hm]

/-- No draw, hence no chunking of the stream, changes which allocations succeed (40_parser.md R132). -/
@[simp] theorem grants_drawn (s : State) : s.drawn.grants = s.grants := grants_congr rfl rfl

theorem grants_iff {k : Nat} {e : Nat × Nat × SampleType} : s.grants k e = true ↔
    sizesFit s.inp.params e.1 e.2.1 e.2.2 = true ∧ s.outOfMemory k e = false := by
  simp [State.grants]

theorem checkMemory_ok {w h : Nat} {ty : SampleType} (hm : s.outOfMemory s.img.next (w, h, ty) = false) :
    checkMemory w h ty s = .ok () s := by
  unfold checkMemory
  rw [Op.bind_ok (getState_apply s), hm]
  rfl

/-- Everything an allocation can do: give the next handle; stop where its sizes do not fit; stop where memory has run
out. -/
theorem alloc_cases (w h : Nat) (ty : SampleType) (s : State) :
    (s.grants s.img.next (w, h, ty) = true ∧ alloc w h ty s = .ok s.img.next (s.allocated w h ty)) ∨
    (sizesFit s.inp.params w h ty = false ∧ alloc w h ty s = .error (.fatal .resourceLimit) s) ∨
    (sizesFit s.inp.params w h ty = true ∧ s.outOfMemory s.img.next (w, h, ty) = true ∧
      alloc w h ty s = .error (.fatal .resourceLimit) s.counted) := by
  unfold alloc
  rw [Op.bind_ok (getParams_apply s)]
  cases hf : sizesFit s.inp.params w h ty
  · exact .inr (.inl ⟨rfl, rfl⟩)
  · rw [Op.bind_ok (check_true _ s)]
    cases hm : s.outOfMemory s.img.next (w, h, ty)
    · rw [Op.bind_ok (checkMemory_ok hm), Op.bind_ok (getState_apply s)]
      exact .inl ⟨grants_iff.2 ⟨hf, hm⟩, rfl⟩
    · refine .inr (.inr ⟨rfl, rfl, ?_⟩)
      have : checkMemory w h ty s = .error (.fatal .resourceLimit) s.counted := by
        unfold checkMemory
        rw [Op.bind_ok (getState_apply s), hm]
        rfl
      exact Op.bind_error this _

theorem alloc_ok {w h : Nat} {ty : SampleType} (hg : s.grants s.img.next (w, h, ty) = true) :
    alloc w h ty s = .ok s.img.next (s.allocated w h ty) := by
  obtain ⟨hf, hm⟩ := grants_iff.1 hg
  rcases alloc_cases w h ty s with ⟨-, ha⟩ | ⟨hn, -⟩ | ⟨-, hn, -⟩
  · exact ha
  · exact absurd hn (by simp [hf])
  · exact absurd hn (by simp [hm])

theorem setScope_ok (sc : ScopeId) (f : ScopeTables → ScopeTables) (s : State) :
    setScope sc f s = .ok () (s.withScope sc (f (s.scope sc))) := rfl

theorem release_ok (h : Nat) (s : State) : release h s = .ok () (s.released [h]) := rfl

theorem each_release_ok (l : List Nat) (s : State) : each l release s = .ok () (s.released l) := by
  induction l generalizing s with
  | nil => rfl
  | cons h rest ih =>
    unfold each
    rw [Op.bind_ok (release_ok h s)]
    exact ih _

end Sys2Proof.Machine
end

