-- ==== Sys2Proof/Laws/Codec.lean ====
section
/-! SUPPORT. Each operand's decoder reads back what its encoder wrote, and leaves the rest. -/

namespace Sys2Proof

open Machine (DecodeError)

variable {α β : Type}

/-- Sequencing of decoders. -/
theorem Dec.bind_ok {x : Dec α} {f : α → Dec β} {bs t : List Byte} {a : α} (h : x bs = .ok (a, t)) :
    (x >>= f) bs = f a t := by
  show (StateT.bind x f) bs = _
  unfold StateT.bind
  rw [h]
  rfl

@[simp] theorem Dec.pure_apply (a : α) (bs : List Byte) : (pure a : Dec α) bs = .ok (a, bs) := rfl

/-- Decoder `d` reads back encoder `e` on the values that satisfy `ok`. -/
def Reads (d : Dec α) (e : α → List Byte) (ok : α → Bool) : Prop :=
  ∀ a rest, ok a = true → d (e a ++ rest) = .ok (a, rest)

theorem decByte_cons (b : Byte) (rest : List Byte) : decByte (b :: rest) = .ok (b, rest) := rfl

theorem decBytes_encBytes (n v : Nat) (rest : List Byte) (h : v < 256 ^ n) :
    decBytes n (encBytes n v ++ rest) = .ok (v, rest) := by
  induction n generalizing v with
  | zero =>
    have : v = 0 := by simpa using h
    subst this
    rfl
  | succ n ih =>
    have hd : v / 256 < 256 ^ n := by
      apply Nat.div_lt_of_lt_mul
      rw [Nat.pow_succ, Nat.mul_comm] at h
      exact h
    unfold decBytes encBytes
    rw [List.cons_append, Dec.bind_ok (decByte_cons _ _), Dec.bind_ok (ih _ hd), Dec.pure_apply]
    have : (BitVec.ofNat 8 v).toNat + 256 * (v / 256) = v := by
      simp only [BitVec.toNat_ofNat]
      omega
    rw [this]

theorem reads_nat : Reads decNat encNat natFits := by
  intro n rest h
  apply decBytes_encBytes
  simp only [natFits, decide_eq_true_eq] at h
  omega

theorem reads_pos : Reads decPos encPos posFits := by
  intro n rest h
  simp only [posFits, Bool.and_eq_true, decide_eq_true_eq] at h
  unfold decPos encPos decNat
  rw [Dec.bind_ok (decBytes_encBytes 8 (n - 1) rest (by omega)), Dec.pure_apply]
  have : n - 1 + 1 = n := by omega
  rw [this]

theorem reads_int : Reads decInt encInt intFits := by
  intro z rest h
  simp only [intFits, Bool.and_eq_true, decide_eq_true_eq] at h
  unfold decInt encInt decNat
  have hm : (z % 2 ^ 64).toNat < 256 ^ 8 := by
    have h1 : 0 ≤ z % 2 ^ 64 := Int.emod_nonneg _ (by decide)
    have h2 : z % 2 ^ 64 < 2 ^ 64 := Int.emod_lt_of_pos _ (by decide)
    omega
  rw [Dec.bind_ok (decBytes_encBytes 8 _ rest hm), Dec.pure_apply]
  have : (if (z % 2 ^ 64).toNat < 2 ^ 63 then (((z % 2 ^ 64).toNat : Nat) : Int)
      else ((z % 2 ^ 64).toNat : Int) - 2 ^ 64) = z := by
    split <;> omega
  rw [this]

/-- A tag below the number of names reads its name. -/
theorem decTag_encTag (names : List α) (k : Nat) (a : α) (rest : List Byte) (hk : k < 256)
    (h : names[k]? = some a) : decTag names (encTag k ++ rest) = .ok (a, rest) := by
  unfold decTag encTag
  have hb : (BitVec.ofNat 8 k).toNat = k := by
    simp only [BitVec.toNat_ofNat]
    omega
  rw [List.singleton_append, Dec.bind_ok (decByte_cons _ _)]
  simp only [hb, h, Dec.pure_apply]

theorem reads_bool : Reads decBool encBool fun _ => true := by
  intro b rest _
  cases b
  · exact decTag_encTag _ 0 _ rest (by decide) rfl
  · exact decTag_encTag _ 1 _ rest (by decide) rfl

theorem reads_endian : Reads decEndian encEndian fun _ => true := by
  intro b rest _
  cases b
  · exact decTag_encTag _ 0 _ rest (by decide) rfl
  · exact decTag_encTag _ 1 _ rest (by decide) rfl

theorem reads_type : Reads decType encType fun _ => true := by
  intro b rest _
  cases b
  · exact decTag_encTag _ 0 _ rest (by decide) rfl
  · exact decTag_encTag _ 1 _ rest (by decide) rfl
  · exact decTag_encTag _ 2 _ rest (by decide) rfl

theorem reads_access : Reads decAccess encAccess fun _ => true := by
  intro b rest _
  cases b
  · exact decTag_encTag _ 0 _ rest (by decide) rfl
  · exact decTag_encTag _ 1 _ rest (by decide) rfl

theorem reads_predictor : Reads decPredictor encPredictor fun _ => true := by
  intro b rest _
  cases b
  · exact decTag_encTag _ 0 _ rest (by decide) rfl
  · exact decTag_encTag _ 1 _ rest (by decide) rfl
  · exact decTag_encTag _ 2 _ rest (by decide) rfl
  · exact decTag_encTag _ 3 _ rest (by decide) rfl
  · exact decTag_encTag _ 4 _ rest (by decide) rfl
  · exact decTag_encTag _ 5 _ rest (by decide) rfl
  · exact decTag_encTag _ 6 _ rest (by decide) rfl
  · exact decTag_encTag _ 7 _ rest (by decide) rfl
  · exact decTag_encTag _ 8 _ rest (by decide) rfl
  · exact decTag_encTag _ 9 _ rest (by decide) rfl
  · exact decTag_encTag _ 10 _ rest (by decide) rfl
  · exact decTag_encTag _ 11 _ rest (by decide) rfl
  · exact decTag_encTag _ 12 _ rest (by decide) rfl
  · exact decTag_encTag _ 13 _ rest (by decide) rfl

theorem reads_side : Reads decSide encSide sideOk := by
  intro n rest h
  simp only [sideOk, List.contains_cons, List.contains_nil, Bool.or_false, Bool.or_eq_true, beq_iff_eq] at h
  rcases h with rfl | rfl | rfl | rfl | rfl | rfl
  · exact decTag_encTag _ 0 _ rest (by decide) rfl
  · exact decTag_encTag _ 1 _ rest (by decide) rfl
  · exact decTag_encTag _ 2 _ rest (by decide) rfl
  · exact decTag_encTag _ 3 _ rest (by decide) rfl
  · exact decTag_encTag _ 4 _ rest (by decide) rfl
  · exact decTag_encTag _ 5 _ rest (by decide) rfl

theorem reads_variant : Reads decVariant encVariant fun k => decide (k < 4) := by
  intro k rest h
  have hk : k < 4 := by simpa using h
  have : k = 0 ∨ k = 1 ∨ k = 2 ∨ k = 3 := by omega
  rcases this with rfl | rfl | rfl | rfl
  · exact decTag_encTag _ 0 _ rest (by decide) rfl
  · exact decTag_encTag _ 1 _ rest (by decide) rfl
  · exact decTag_encTag _ 2 _ rest (by decide) rfl
  · exact decTag_encTag _ 3 _ rest (by decide) rfl

theorem decMany_flatMap {d : Dec α} {e : α → List Byte} {ok : α → Bool} (h : Reads d e ok) (l : List α)
    (rest : List Byte) (hl : l.all ok = true) : decMany d l.length (l.flatMap e ++ rest) = .ok (l, rest) := by
  induction l with
  | nil => rfl
  | cons a l ih =>
    simp only [List.all_cons, Bool.and_eq_true] at hl
    simp only [List.length_cons, List.flatMap_cons, List.append_assoc, decMany]
    rw [Dec.bind_ok (h a _ hl.1), Dec.bind_ok (ih hl.2), Dec.pure_apply]

theorem reads_list {d : Dec α} {e : α → List Byte} {ok : α → Bool} (h : Reads d e ok) :
    Reads (decList d) (encList e) fun l => natFits l.length && l.all ok := by
  intro l rest hl
  simp only [Bool.and_eq_true] at hl
  unfold decList encList
  rw [List.append_assoc, Dec.bind_ok (reads_nat _ _ hl.1)]
  exact decMany_flatMap h l rest hl.2

theorem reads_option {d : Dec α} {e : α → List Byte} {ok : α → Bool} (h : Reads d e ok) :
    Reads (decOption d) (encOption e) fun o => match o with
      | none => true
      | some a => ok a := by
  intro o rest ho
  unfold decOption encOption
  cases o with
  | none =>
    rw [Dec.bind_ok (decTag_encTag [false, true] 0 false rest (by decide) rfl)]
    rfl
  | some a =>
    rw [List.append_assoc, Dec.bind_ok (decTag_encTag [false, true] 1 true _ (by decide) rfl), if_pos rfl,
      Dec.bind_ok (h a rest ho)]
    rfl

theorem reads_scope : Reads decScope encScope ScopeId.wf := by
  intro sc rest h
  unfold decScope
  cases sc with
  | tree => rw [encScope, Dec.bind_ok (decTag_encTag _ 0 _ rest (by decide) rfl)]; rfl
  | toc => rw [encScope, Dec.bind_ok (decTag_encTag _ 1 _ rest (by decide) rfl)]; rfl
  | icc => rw [encScope, Dec.bind_ok (decTag_encTag _ 2 _ rest (by decide) rfl)]; rfl
  | modular => rw [encScope, Dec.bind_ok (decTag_encTag _ 3 _ rest (by decide) rfl)]; rfl
  | ac p =>
    rw [encScope, List.append_assoc, Dec.bind_ok (decTag_encTag _ 4 _ _ (by decide) rfl)]
    show (decNat >>= fun p => pure (ScopeId.ac p) : Dec ScopeId) _ = _
    rw [Dec.bind_ok (reads_nat p rest h), Dec.pure_apply]

theorem reads_stage : Reads decStage encStage StageFn.wf := by
  intro f rest h
  unfold decStage
  cases f with
  | named id =>
    rw [encStage, List.append_assoc, Dec.bind_ok (decTag_encTag _ 0 _ _ (by decide) rfl)]
    show (decNat >>= fun id => pure (StageFn.named id) : Dec StageFn) _ = _
    rw [Dec.bind_ok (reads_nat id rest h), Dec.pure_apply]
  | withRef id slot =>
    simp only [StageFn.wf, Bool.and_eq_true] at h
    rw [encStage, List.append_assoc, List.append_assoc, Dec.bind_ok (decTag_encTag _ 1 _ _ (by decide) rfl)]
    show (decNat >>= fun id => decNat >>= fun slot => pure (StageFn.withRef id slot) : Dec StageFn) _ = _
    rw [Dec.bind_ok (reads_nat id _ h.1), Dec.bind_ok (reads_nat slot rest h.2), Dec.pure_apply]
  | cms => rw [encStage, Dec.bind_ok (decTag_encTag _ 2 _ rest (by decide) rfl)]; rfl
  | cmsInplace => rw [encStage, Dec.bind_ok (decTag_encTag _ 3 _ rest (by decide) rfl)]; rfl
  | spot id =>
    rw [encStage, List.append_assoc, Dec.bind_ok (decTag_encTag _ 4 _ _ (by decide) rfl)]
    show (decNat >>= fun id => pure (StageFn.spot id) : Dec StageFn) _ = _
    rw [Dec.bind_ok (reads_nat id rest h), Dec.pure_apply]
  | premultiply => rw [encStage, Dec.bind_ok (decTag_encTag _ 5 _ rest (by decide) rfl)]; rfl

theorem reads_format : Reads decFormat encFormat PixelFormat.wf := by
  intro f rest h
  simp only [PixelFormat.wf, Bool.and_eq_true] at h
  unfold decFormat encFormat
  simp only [List.append_assoc]
  rw [Dec.bind_ok (reads_nat _ _ h.1), Dec.bind_ok (reads_nat _ _ h.2), Dec.bind_ok (reads_endian _ _ rfl)]
  rfl

theorem reads_optNat : Reads (decOption decNat) (encOption encNat) optNatFits := by
  intro o rest h
  refine reads_option reads_nat o rest ?_
  cases o <;> exact h

theorem reads_options : Reads decOptions encOptions Options.wf := by
  intro o rest h
  simp only [Options.wf, Bool.and_eq_true] at h
  have h3 : decOption decFormat (encOption encFormat o.pixelFormat ++ rest) = .ok (o.pixelFormat, rest) := by
    refine reads_option reads_format _ _ ?_
    have h4 := h.2
    cases ho : o.pixelFormat with
    | none => rfl
    | some f =>
      rw [ho] at h4
      exact h4
  unfold decOptions encOptions
  simp only [List.append_assoc]
  rw [Dec.bind_ok (reads_nat _ _ h.1.1), Dec.bind_ok (reads_bool _ _ rfl), Dec.bind_ok (reads_bool _ _ rfl),
    Dec.bind_ok (reads_bool _ _ rfl), Dec.bind_ok (reads_bool _ _ rfl), Dec.bind_ok (reads_optNat _ _ h.1.2),
    Dec.bind_ok h3]
  rfl

theorem reads_plane : Reads decPlane encPlane Plane.wf := by
  intro p rest h
  simp only [Plane.wf, Bool.and_eq_true] at h
  unfold decPlane encPlane
  simp only [List.append_assoc]
  rw [Dec.bind_ok (reads_nat _ _ h.1.1.1), Dec.bind_ok (reads_nat _ _ h.1.1.2), Dec.bind_ok (reads_nat _ _ h.1.2),
    Dec.bind_ok (reads_nat _ _ h.2)]
  rfl

theorem reads_planes :
    Reads (decOption (decList decPlane)) (encOption (encList encPlane)) planesFit := by
  intro o rest h
  refine reads_option (reads_list reads_plane) o rest ?_
  cases o <;> exact h

theorem reads_leaf : Reads decLeaf encLeaf Leaf.wf := by
  intro l rest h
  simp only [Leaf.wf, Bool.and_eq_true] at h
  unfold decLeaf encLeaf
  simp only [List.append_assoc]
  rw [Dec.bind_ok (reads_predictor _ _ rfl), Dec.bind_ok (reads_int _ _ h.1.1), Dec.bind_ok (reads_pos _ _ h.1.2),
    Dec.bind_ok (reads_nat _ _ h.2)]
  rfl

theorem reads_place : Reads decPlace encPlace Place.wf := by
  intro p rest h
  simp only [Place.wf, Bool.and_eq_true] at h
  unfold decPlace encPlace
  simp only [List.append_assoc]
  rw [Dec.bind_ok (reads_int _ _ h.1.1.1), Dec.bind_ok (reads_int _ _ h.1.1.2), Dec.bind_ok (reads_nat _ _ h.1.2),
    Dec.bind_ok (reads_nat _ _ h.2)]
  rfl

theorem reads_nats : Reads (decList decNat) (encList encNat) natsFit := reads_list reads_nat
theorem reads_ints : Reads (decList decInt) (encList encInt) intsFit := reads_list reads_int

end Sys2Proof
end

