-- ==== Sys2Proof/Laws/PerInstr.lean ====
section
/-! SUPPORT. Per constructor: the operands the encoder writes after the operation code are the ones the decoder reads
back for that code, whatever bytes follow. -/

namespace Sys2Proof.Laws.Operands

set_option Elab.async false

/-- The first word of the operation is its code, and decoding the operands that follow gives the operation and leaves
the rest. -/
def Statement (i : Instr) : Prop :=
  i.wellFormed = true → ∀ rest, ∃ opc body,
    encode i = opc :: body ∧ decodeOperands opc.toNat (body ++ rest) = .ok (i, rest)

/-- An operand that is small enough fits its word. -/
theorem natFits_of_las (n : Nat) (h : lasOk n = true) : natFits n = true := by
  simp only [lasOk, natFits, decide_eq_true_eq] at *
  omega

theorem natFits_of_channel (n : Nat) (h : channelOk n = true) : natFits n = true := by
  simp only [channelOk, natFits, decide_eq_true_eq] at *
  omega

theorem process (src : Nat) (opts : Options) (out : Option (List Plane)) : Statement (.process src opts out) := by
  intro h rest
  simp only [Instr.wellFormed, Bool.and_eq_true] at h
  refine ⟨_, _, rfl, ?_⟩
  simp only [List.append_assoc]
  show (do
    let src ← decNat
    let opts ← decOptions
    let out ← decOption (decList decPlane)
    pure (Instr.process src opts out) : Dec Instr) _ = _
  rw [Dec.bind_ok (reads_nat _ _ h.1.1), Dec.bind_ok (reads_options _ _ h.1.2), Dec.bind_ok (reads_planes _ _ h.2)]
  rfl

theorem reset : Statement (.reset) := by
  intro _ rest
  exact ⟨_, _, rfl, rfl⟩

theorem outQuery : Statement (.outQuery) := by
  intro _ rest
  exact ⟨_, _, rfl, rfl⟩

theorem srcAvail : Statement (.srcAvail) := by
  intro _ rest
  exact ⟨_, _, rfl, rfl⟩

theorem srcRead (caps : List Nat) : Statement (.srcRead caps) := by
  intro h rest
  simp only [Instr.wellFormed] at h
  refine ⟨_, _, rfl, ?_⟩
  show (do
    let caps ← decList decNat
    pure (Instr.srcRead caps) : Dec Instr) _ = _
  rw [Dec.bind_ok (reads_nats _ _ h)]
  rfl

theorem srcSkip (n : Nat) : Statement (.srcSkip n) := by
  intro h rest
  simp only [Instr.wellFormed] at h
  refine ⟨_, _, rfl, ?_⟩
  show (do
    let n ← decNat
    pure (Instr.srcSkip n) : Dec Instr) _ = _
  rw [Dec.bind_ok (reads_nat _ _ h)]
  rfl

theorem cmsXform (input : Nat) (output : Nat) : Statement (.cmsXform input output) := by
  intro h rest
  simp only [Instr.wellFormed, Bool.and_eq_true] at h
  refine ⟨_, _, rfl, ?_⟩
  simp only [List.append_assoc]
  show (do
    let input ← decNat
    let output ← decNat
    pure (Instr.cmsXform input output) : Dec Instr) _ = _
  rw [Dec.bind_ok (reads_nat _ _ h.1), Dec.bind_ok (reads_nat _ _ h.2)]
  rfl

theorem cmsXformInplace (buffer : Nat) : Statement (.cmsXformInplace buffer) := by
  intro h rest
  simp only [Instr.wellFormed] at h
  refine ⟨_, _, rfl, ?_⟩
  show (do
    let buffer ← decNat
    pure (Instr.cmsXformInplace buffer) : Dec Instr) _ = _
  rw [Dec.bind_ok (reads_nat _ _ h)]
  rfl

theorem pFileHeader : Statement (.pFileHeader) := by
  intro _ rest
  exact ⟨_, _, rfl, rfl⟩

theorem pColorProfile : Statement (.pColorProfile) := by
  intro _ rest
  exact ⟨_, _, rfl, rfl⟩

theorem pFrameHeader : Statement (.pFrameHeader) := by
  intro _ rest
  exact ⟨_, _, rfl, rfl⟩

theorem pToc : Statement (.pToc) := by
  intro _ rest
  exact ⟨_, _, rfl, rfl⟩

theorem pBuffer : Statement (.pBuffer) := by
  intro _ rest
  exact ⟨_, _, rfl, rfl⟩

theorem pDispatch : Statement (.pDispatch) := by
  intro _ rest
  exact ⟨_, _, rfl, rfl⟩

theorem pSkip : Statement (.pSkip) := by
  intro _ rest
  exact ⟨_, _, rfl, rfl⟩

theorem pFrameDone : Statement (.pFrameDone) := by
  intro _ rest
  exact ⟨_, _, rfl, rfl⟩

theorem pFinish : Statement (.pFinish) := by
  intro _ rest
  exact ⟨_, _, rfl, rfl⟩

theorem pFill (want : Nat) : Statement (.pFill want) := by
  intro h rest
  simp only [Instr.wellFormed] at h
  refine ⟨_, _, rfl, ?_⟩
  show (do
    let want ← decPos
    pure (Instr.pFill want) : Dec Instr) _ = _
  rw [Dec.bind_ok (reads_pos _ _ h)]
  rfl

theorem sLfGlobal (sec : Nat) : Statement (.sLfGlobal sec) := by
  intro h rest
  simp only [Instr.wellFormed] at h
  refine ⟨_, _, rfl, ?_⟩
  show (do
    let sec ← decNat
    pure (Instr.sLfGlobal sec) : Dec Instr) _ = _
  rw [Dec.bind_ok (reads_nat _ _ h)]
  rfl

theorem sLfGroup (sec : Nat) (g : Nat) : Statement (.sLfGroup sec g) := by
  intro h rest
  simp only [Instr.wellFormed, Bool.and_eq_true] at h
  refine ⟨_, _, rfl, ?_⟩
  simp only [List.append_assoc]
  show (do
    let sec ← decNat
    let g ← decNat
    pure (Instr.sLfGroup sec g) : Dec Instr) _ = _
  rw [Dec.bind_ok (reads_nat _ _ h.1), Dec.bind_ok (reads_nat _ _ h.2)]
  rfl

theorem sHfGlobal (sec : Nat) : Statement (.sHfGlobal sec) := by
  intro h rest
  simp only [Instr.wellFormed] at h
  refine ⟨_, _, rfl, ?_⟩
  show (do
    let sec ← decNat
    pure (Instr.sHfGlobal sec) : Dec Instr) _ = _
  rw [Dec.bind_ok (reads_nat _ _ h)]
  rfl

theorem sHfGroup (sec : Nat) (g : Nat) (p : Nat) : Statement (.sHfGroup sec g p) := by
  intro h rest
  simp only [Instr.wellFormed, Bool.and_eq_true] at h
  refine ⟨_, _, rfl, ?_⟩
  simp only [List.append_assoc]
  show (do
    let sec ← decNat
    let g ← decNat
    let p ← decNat
    pure (Instr.sHfGroup sec g p) : Dec Instr) _ = _
  rw [Dec.bind_ok (reads_nat _ _ h.1.1), Dec.bind_ok (reads_nat _ _ h.1.2), Dec.bind_ok (reads_nat _ _ h.2)]
  rfl

theorem ansHist (sc : ScopeId) (las : Nat) : Statement (.ansHist sc las) := by
  intro h rest
  simp only [Instr.wellFormed, Bool.and_eq_true] at h
  refine ⟨_, _, rfl, ?_⟩
  simp only [List.append_assoc]
  show (do
    let sc ← decScope
    let las ← decNat
    pure (Instr.ansHist sc las) : Dec Instr) _ = _
  rw [Dec.bind_ok (reads_scope _ _ h.1), Dec.bind_ok (reads_nat _ _ (natFits_of_las _ h.2))]
  rfl

theorem ansHistSingle (sc : ScopeId) (las : Nat) : Statement (.ansHistSingle sc las) := by
  intro h rest
  simp only [Instr.wellFormed, Bool.and_eq_true] at h
  refine ⟨_, _, rfl, ?_⟩
  simp only [List.append_assoc]
  show (do
    let sc ← decScope
    let las ← decNat
    pure (Instr.ansHistSingle sc las) : Dec Instr) _ = _
  rw [Dec.bind_ok (reads_scope _ _ h.1), Dec.bind_ok (reads_nat _ _ (natFits_of_las _ h.2))]
  rfl

theorem ansHistTwo (sc : ScopeId) (las : Nat) : Statement (.ansHistTwo sc las) := by
  intro h rest
  simp only [Instr.wellFormed, Bool.and_eq_true] at h
  refine ⟨_, _, rfl, ?_⟩
  simp only [List.append_assoc]
  show (do
    let sc ← decScope
    let las ← decNat
    pure (Instr.ansHistTwo sc las) : Dec Instr) _ = _
  rw [Dec.bind_ok (reads_scope _ _ h.1), Dec.bind_ok (reads_nat _ _ (natFits_of_las _ h.2))]
  rfl

theorem ansHistFlat (sc : ScopeId) (las : Nat) : Statement (.ansHistFlat sc las) := by
  intro h rest
  simp only [Instr.wellFormed, Bool.and_eq_true] at h
  refine ⟨_, _, rfl, ?_⟩
  simp only [List.append_assoc]
  show (do
    let sc ← decScope
    let las ← decNat
    pure (Instr.ansHistFlat sc las) : Dec Instr) _ = _
  rw [Dec.bind_ok (reads_scope _ _ h.1), Dec.bind_ok (reads_nat _ _ (natFits_of_las _ h.2))]
  rfl

theorem ansHistComplex (sc : ScopeId) (las : Nat) : Statement (.ansHistComplex sc las) := by
  intro h rest
  simp only [Instr.wellFormed, Bool.and_eq_true] at h
  refine ⟨_, _, rfl, ?_⟩
  simp only [List.append_assoc]
  show (do
    let sc ← decScope
    let las ← decNat
    pure (Instr.ansHistComplex sc las) : Dec Instr) _ = _
  rw [Dec.bind_ok (reads_scope _ _ h.1), Dec.bind_ok (reads_nat _ _ (natFits_of_las _ h.2))]
  rfl

theorem ansAlias (sc : ScopeId) (hist : Nat) (las : Nat) : Statement (.ansAlias sc hist las) := by
  intro h rest
  simp only [Instr.wellFormed, Bool.and_eq_true] at h
  refine ⟨_, _, rfl, ?_⟩
  simp only [List.append_assoc]
  show (do
    let sc ← decScope
    let hist ← decNat
    let las ← decNat
    pure (Instr.ansAlias sc hist las) : Dec Instr) _ = _
  rw [Dec.bind_ok (reads_scope _ _ h.1.1), Dec.bind_ok (reads_nat _ _ h.1.2), Dec.bind_ok (reads_nat _ _ (natFits_of_las _ h.2))]
  rfl

theorem ansInit (sc : ScopeId) : Statement (.ansInit sc) := by
  intro h rest
  simp only [Instr.wellFormed] at h
  refine ⟨_, _, rfl, ?_⟩
  show (do
    let sc ← decScope
    pure (Instr.ansInit sc) : Dec Instr) _ = _
  rw [Dec.bind_ok (reads_scope _ _ h)]
  rfl

theorem ansRead (sc : ScopeId) (ctx : Nat) : Statement (.ansRead sc ctx) := by
  intro h rest
  simp only [Instr.wellFormed, Bool.and_eq_true] at h
  refine ⟨_, _, rfl, ?_⟩
  simp only [List.append_assoc]
  show (do
    let sc ← decScope
    let ctx ← decNat
    pure (Instr.ansRead sc ctx) : Dec Instr) _ = _
  rw [Dec.bind_ok (reads_scope _ _ h.1), Dec.bind_ok (reads_nat _ _ h.2)]
  rfl

theorem ansFinal (sc : ScopeId) : Statement (.ansFinal sc) := by
  intro h rest
  simp only [Instr.wellFormed] at h
  refine ⟨_, _, rfl, ?_⟩
  show (do
    let sc ← decScope
    pure (Instr.ansFinal sc) : Dec Instr) _ = _
  rw [Dec.bind_ok (reads_scope _ _ h)]
  rfl

theorem huffSimple (sc : ScopeId) (a : Nat) : Statement (.huffSimple sc a) := by
  intro h rest
  simp only [Instr.wellFormed, Bool.and_eq_true] at h
  refine ⟨_, _, rfl, ?_⟩
  simp only [List.append_assoc]
  show (do
    let sc ← decScope
    let a ← decNat
    pure (Instr.huffSimple sc a) : Dec Instr) _ = _
  rw [Dec.bind_ok (reads_scope _ _ h.1), Dec.bind_ok (reads_nat _ _ h.2)]
  rfl

theorem huffLengths (sc : ScopeId) (a : Nat) (skip : Nat) : Statement (.huffLengths sc a skip) := by
  intro h rest
  simp only [Instr.wellFormed, Bool.and_eq_true] at h
  refine ⟨_, _, rfl, ?_⟩
  simp only [List.append_assoc]
  show (do
    let sc ← decScope
    let a ← decNat
    let skip ← decNat
    pure (Instr.huffLengths sc a skip) : Dec Instr) _ = _
  rw [Dec.bind_ok (reads_scope _ _ h.1.1), Dec.bind_ok (reads_nat _ _ h.1.2), Dec.bind_ok (reads_nat _ _ h.2)]
  rfl

theorem huffBuild (sc : ScopeId) (lens : List Nat) : Statement (.huffBuild sc lens) := by
  intro h rest
  simp only [Instr.wellFormed, Bool.and_eq_true] at h
  refine ⟨_, _, rfl, ?_⟩
  simp only [List.append_assoc]
  show (do
    let sc ← decScope
    let lens ← decList decNat
    pure (Instr.huffBuild sc lens) : Dec Instr) _ = _
  rw [Dec.bind_ok (reads_scope _ _ h.1), Dec.bind_ok (reads_nats _ _ h.2)]
  rfl

theorem huffRead (sc : ScopeId) (ctx : Nat) : Statement (.huffRead sc ctx) := by
  intro h rest
  simp only [Instr.wellFormed, Bool.and_eq_true] at h
  refine ⟨_, _, rfl, ?_⟩
  simp only [List.append_assoc]
  show (do
    let sc ← decScope
    let ctx ← decNat
    pure (Instr.huffRead sc ctx) : Dec Instr) _ = _
  rw [Dec.bind_ok (reads_scope _ _ h.1), Dec.bind_ok (reads_nat _ _ h.2)]
  rfl

theorem bPredNz (c : Nat) (bx : Nat) (byy : Nat) : Statement (.bPredNz c bx byy) := by
  intro h rest
  simp only [Instr.wellFormed, Bool.and_eq_true] at h
  refine ⟨_, _, rfl, ?_⟩
  simp only [List.append_assoc]
  show (do
    let c ← decNat
    let bx ← decNat
    let byy ← decNat
    pure (Instr.bPredNz c bx byy) : Dec Instr) _ = _
  rw [Dec.bind_ok (reads_nat _ _ (natFits_of_channel _ h.1.1)), Dec.bind_ok (reads_nat _ _ h.1.2), Dec.bind_ok (reads_nat _ _ h.2)]
  rfl

theorem bNz (c : Nat) (pred : Nat) (t : Nat) : Statement (.bNz c pred t) := by
  intro h rest
  simp only [Instr.wellFormed, Bool.and_eq_true] at h
  refine ⟨_, _, rfl, ?_⟩
  simp only [List.append_assoc]
  show (do
    let c ← decNat
    let pred ← decNat
    let t ← decNat
    pure (Instr.bNz c pred t) : Dec Instr) _ = _
  rw [Dec.bind_ok (reads_nat _ _ (natFits_of_channel _ h.1.1)), Dec.bind_ok (reads_nat _ _ h.1.2), Dec.bind_ok (reads_nat _ _ h.2)]
  rfl

theorem bCoeffs (c : Nat) (t : Nat) (nz : Nat) (p : Nat) : Statement (.bCoeffs c t nz p) := by
  intro h rest
  simp only [Instr.wellFormed, Bool.and_eq_true] at h
  refine ⟨_, _, rfl, ?_⟩
  simp only [List.append_assoc]
  show (do
    let c ← decNat
    let t ← decNat
    let nz ← decNat
    let p ← decNat
    pure (Instr.bCoeffs c t nz p) : Dec Instr) _ = _
  rw [Dec.bind_ok (reads_nat _ _ (natFits_of_channel _ h.1.1.1)), Dec.bind_ok (reads_nat _ _ h.1.1.2), Dec.bind_ok (reads_nat _ _ h.1.2), Dec.bind_ok (reads_nat _ _ h.2)]
  rfl

theorem bDequant (bx : Nat) (byy : Nat) (t : Nat) : Statement (.bDequant bx byy t) := by
  intro h rest
  simp only [Instr.wellFormed, Bool.and_eq_true] at h
  refine ⟨_, _, rfl, ?_⟩
  simp only [List.append_assoc]
  show (do
    let bx ← decNat
    let byy ← decNat
    let t ← decNat
    pure (Instr.bDequant bx byy t) : Dec Instr) _ = _
  rw [Dec.bind_ok (reads_nat _ _ h.1.1), Dec.bind_ok (reads_nat _ _ h.1.2), Dec.bind_ok (reads_nat _ _ h.2)]
  rfl

theorem bXform (bx : Nat) (byy : Nat) (t : Nat) : Statement (.bXform bx byy t) := by
  intro h rest
  simp only [Instr.wellFormed, Bool.and_eq_true] at h
  refine ⟨_, _, rfl, ?_⟩
  simp only [List.append_assoc]
  show (do
    let bx ← decNat
    let byy ← decNat
    let t ← decNat
    pure (Instr.bXform bx byy t) : Dec Instr) _ = _
  rw [Dec.bind_ok (reads_nat _ _ h.1.1), Dec.bind_ok (reads_nat _ _ h.1.2), Dec.bind_ok (reads_nat _ _ h.2)]
  rfl

theorem mTree : Statement (.mTree) := by
  intro _ rest
  exact ⟨_, _, rfl, rfl⟩

theorem mProps (ch : Nat) (x : Nat) (y : Nat) : Statement (.mProps ch x y) := by
  intro h rest
  simp only [Instr.wellFormed, Bool.and_eq_true] at h
  refine ⟨_, _, rfl, ?_⟩
  simp only [List.append_assoc]
  show (do
    let ch ← decNat
    let x ← decNat
    let y ← decNat
    pure (Instr.mProps ch x y) : Dec Instr) _ = _
  rw [Dec.bind_ok (reads_nat _ _ h.1.1), Dec.bind_ok (reads_nat _ _ h.1.2), Dec.bind_ok (reads_nat _ _ h.2)]
  rfl

theorem mWalk (props : List Int) : Statement (.mWalk props) := by
  intro h rest
  simp only [Instr.wellFormed] at h
  refine ⟨_, _, rfl, ?_⟩
  show (do
    let props ← decList decInt
    pure (Instr.mWalk props) : Dec Instr) _ = _
  rw [Dec.bind_ok (reads_ints _ _ h)]
  rfl

theorem mPredict (leaf : Leaf) (props : List Int) : Statement (.mPredict leaf props) := by
  intro h rest
  simp only [Instr.wellFormed, Bool.and_eq_true] at h
  refine ⟨_, _, rfl, ?_⟩
  simp only [List.append_assoc]
  show (do
    let leaf ← decLeaf
    let props ← decList decInt
    pure (Instr.mPredict leaf props) : Dec Instr) _ = _
  rw [Dec.bind_ok (reads_leaf _ _ h.1), Dec.bind_ok (reads_ints _ _ h.2)]
  rfl

theorem mWp (x : Nat) (y : Nat) : Statement (.mWp x y) := by
  intro h rest
  simp only [Instr.wellFormed, Bool.and_eq_true] at h
  refine ⟨_, _, rfl, ?_⟩
  simp only [List.append_assoc]
  show (do
    let x ← decNat
    let y ← decNat
    pure (Instr.mWp x y) : Dec Instr) _ = _
  rw [Dec.bind_ok (reads_nat _ _ h.1), Dec.bind_ok (reads_nat _ _ h.2)]
  rfl

theorem mWpUpdate (x : Nat) (y : Nat) (value : Int) : Statement (.mWpUpdate x y value) := by
  intro h rest
  simp only [Instr.wellFormed, Bool.and_eq_true] at h
  refine ⟨_, _, rfl, ?_⟩
  simp only [List.append_assoc]
  show (do
    let x ← decNat
    let y ← decNat
    let value ← decInt
    pure (Instr.mWpUpdate x y value) : Dec Instr) _ = _
  rw [Dec.bind_ok (reads_nat _ _ h.1.1), Dec.bind_ok (reads_nat _ _ h.1.2), Dec.bind_ok (reads_int _ _ h.2)]
  rfl

theorem mPalette (index : Nat) (pal : Nat) (numColors : Nat) (numDeltas : Nat) (predictor : Predictor) (bitDepth : Nat) : Statement (.mPalette index pal numColors numDeltas predictor bitDepth) := by
  intro h rest
  simp only [Instr.wellFormed, Bool.and_eq_true] at h
  refine ⟨_, _, rfl, ?_⟩
  simp only [List.append_assoc]
  show (do
    let index ← decNat
    let pal ← decNat
    let numColors ← decNat
    let numDeltas ← decNat
    let predictor ← decPredictor
    let bitDepth ← decNat
    pure (Instr.mPalette index pal numColors numDeltas predictor bitDepth) : Dec Instr) _ = _
  rw [Dec.bind_ok (reads_nat _ _ h.1.1.1.1), Dec.bind_ok (reads_nat _ _ h.1.1.1.2), Dec.bind_ok (reads_nat _ _ h.1.1.2), Dec.bind_ok (reads_nat _ _ h.1.2), Dec.bind_ok (reads_predictor _ _ rfl), Dec.bind_ok (reads_nat _ _ h.2)]
  rfl

theorem mHsqueeze (avg : Nat) (res : Nat) (w : Nat) : Statement (.mHsqueeze avg res w) := by
  intro h rest
  simp only [Instr.wellFormed, Bool.and_eq_true] at h
  refine ⟨_, _, rfl, ?_⟩
  simp only [List.append_assoc]
  show (do
    let avg ← decNat
    let res ← decNat
    let w ← decNat
    pure (Instr.mHsqueeze avg res w) : Dec Instr) _ = _
  rw [Dec.bind_ok (reads_nat _ _ h.1.1), Dec.bind_ok (reads_nat _ _ h.1.2), Dec.bind_ok (reads_nat _ _ h.2)]
  rfl

theorem mVsqueeze (avg : Nat) (res : Nat) (h : Nat) : Statement (.mVsqueeze avg res h) := by
  intro h rest
  simp only [Instr.wellFormed, Bool.and_eq_true] at h
  refine ⟨_, _, rfl, ?_⟩
  simp only [List.append_assoc]
  show (do
    let avg ← decNat
    let res ← decNat
    let h ← decNat
    pure (Instr.mVsqueeze avg res h) : Dec Instr) _ = _
  rw [Dec.bind_ok (reads_nat _ _ h.1.1), Dec.bind_ok (reads_nat _ _ h.1.2), Dec.bind_ok (reads_nat _ _ h.2)]
  rfl

theorem xIdct (h : Nat) (w : Nat) (coeff : Nat) (out : Nat) : Statement (.xIdct h w coeff out) := by
  intro h rest
  simp only [Instr.wellFormed, Bool.and_eq_true] at h
  refine ⟨_, _, rfl, ?_⟩
  simp only [List.append_assoc]
  show (do
    let h ← decSide
    let w ← decSide
    let coeff ← decNat
    let out ← decNat
    pure (Instr.xIdct h w coeff out) : Dec Instr) _ = _
  rw [Dec.bind_ok (reads_side _ _ h.1.1.1), Dec.bind_ok (reads_side _ _ h.1.1.2), Dec.bind_ok (reads_nat _ _ h.1.2), Dec.bind_ok (reads_nat _ _ h.2)]
  rfl

theorem xAfv (k : Nat) (coeff : Nat) (out : Nat) : Statement (.xAfv k coeff out) := by
  intro h rest
  simp only [Instr.wellFormed, Bool.and_eq_true] at h
  refine ⟨_, _, rfl, ?_⟩
  simp only [List.append_assoc]
  show (do
    let k ← decVariant
    let coeff ← decNat
    let out ← decNat
    pure (Instr.xAfv k coeff out) : Dec Instr) _ = _
  rw [Dec.bind_ok (reads_variant _ _ h.1.1), Dec.bind_ok (reads_nat _ _ h.1.2), Dec.bind_ok (reads_nat _ _ h.2)]
  rfl

theorem xIdentity (coeff : Nat) (out : Nat) : Statement (.xIdentity coeff out) := by
  intro h rest
  simp only [Instr.wellFormed, Bool.and_eq_true] at h
  refine ⟨_, _, rfl, ?_⟩
  simp only [List.append_assoc]
  show (do
    let coeff ← decNat
    let out ← decNat
    pure (Instr.xIdentity coeff out) : Dec Instr) _ = _
  rw [Dec.bind_ok (reads_nat _ _ h.1), Dec.bind_ok (reads_nat _ _ h.2)]
  rfl

theorem xDct2x2 (coeff : Nat) (out : Nat) : Statement (.xDct2x2 coeff out) := by
  intro h rest
  simp only [Instr.wellFormed, Bool.and_eq_true] at h
  refine ⟨_, _, rfl, ?_⟩
  simp only [List.append_assoc]
  show (do
    let coeff ← decNat
    let out ← decNat
    pure (Instr.xDct2x2 coeff out) : Dec Instr) _ = _
  rw [Dec.bind_ok (reads_nat _ _ h.1), Dec.bind_ok (reads_nat _ _ h.2)]
  rfl

theorem xDct4x4 (coeff : Nat) (out : Nat) : Statement (.xDct4x4 coeff out) := by
  intro h rest
  simp only [Instr.wellFormed, Bool.and_eq_true] at h
  refine ⟨_, _, rfl, ?_⟩
  simp only [List.append_assoc]
  show (do
    let coeff ← decNat
    let out ← decNat
    pure (Instr.xDct4x4 coeff out) : Dec Instr) _ = _
  rw [Dec.bind_ok (reads_nat _ _ h.1), Dec.bind_ok (reads_nat _ _ h.2)]
  rfl

theorem xDct8x4 (coeff : Nat) (out : Nat) : Statement (.xDct8x4 coeff out) := by
  intro h rest
  simp only [Instr.wellFormed, Bool.and_eq_true] at h
  refine ⟨_, _, rfl, ?_⟩
  simp only [List.append_assoc]
  show (do
    let coeff ← decNat
    let out ← decNat
    pure (Instr.xDct8x4 coeff out) : Dec Instr) _ = _
  rw [Dec.bind_ok (reads_nat _ _ h.1), Dec.bind_ok (reads_nat _ _ h.2)]
  rfl

theorem xDct4x8 (coeff : Nat) (out : Nat) : Statement (.xDct4x8 coeff out) := by
  intro h rest
  simp only [Instr.wellFormed, Bool.and_eq_true] at h
  refine ⟨_, _, rfl, ?_⟩
  simp only [List.append_assoc]
  show (do
    let coeff ← decNat
    let out ← decNat
    pure (Instr.xDct4x8 coeff out) : Dec Instr) _ = _
  rw [Dec.bind_ok (reads_nat _ _ h.1), Dec.bind_ok (reads_nat _ _ h.2)]
  rfl

theorem rInplace (f : StageOn) (y : Nat) (x0 : Nat) (x1 : Nat) : Statement (.rInplace f y x0 x1) := by
  intro h rest
  simp only [Instr.wellFormed, Bool.and_eq_true] at h
  refine ⟨_, _, rfl, ?_⟩
  simp only [List.append_assoc]
  show (do
    let f ← decStage
    let set ← decList decNat
    let y ← decNat
    let x0 ← decNat
    let x1 ← decNat
    pure (Instr.rInplace { fn := f, channels := set } y x0 x1) : Dec Instr) _ = _
  rw [Dec.bind_ok (reads_stage _ _ h.1.1.1.1.1), Dec.bind_ok (reads_nats _ _ h.1.1.1.1.2),
    Dec.bind_ok (reads_nat _ _ h.1.1.1.2), Dec.bind_ok (reads_nat _ _ h.1.1.2),
    Dec.bind_ok (reads_nat _ _ h.1.2)]
  rfl

theorem rInout (f : StageOn) (bx : Nat) (byy : Nat) (sx : Nat) (sy : Nat) (up : Bool) (part : RowPart) :
    Statement (.rInout f bx byy sx sy up part) := by
  intro h rest
  simp only [Instr.wellFormed, Bool.and_eq_true] at h
  refine ⟨_, _, rfl, ?_⟩
  simp only [List.append_assoc]
  show (do
    let f ← decStage
    let set ← decList decNat
    let bx ← decNat
    let byy ← decNat
    let sx ← decNat
    let sy ← decNat
    let up ← decBool
    let y ← decNat
    let x0 ← decNat
    let x1 ← decNat
    pure (Instr.rInout { fn := f, channels := set } bx byy sx sy up { y := y, x0 := x0, x1 := x1 }) :
      Dec Instr) _ = _
  rw [Dec.bind_ok (reads_stage _ _ h.1.1.1.1.1.1.1.1.1), Dec.bind_ok (reads_nats _ _ h.1.1.1.1.1.1.1.1.2),
    Dec.bind_ok (reads_nat _ _ h.1.1.1.1.1.1.1.2), Dec.bind_ok (reads_nat _ _ h.1.1.1.1.1.1.2),
    Dec.bind_ok (reads_nat _ _ h.1.1.1.1.1.2), Dec.bind_ok (reads_nat _ _ h.1.1.1.1.2),
    Dec.bind_ok (reads_bool _ _ rfl), Dec.bind_ok (reads_nat _ _ h.1.1.1.2),
    Dec.bind_ok (reads_nat _ _ h.1.1.2), Dec.bind_ok (reads_nat _ _ h.1.2)]
  rfl

theorem rSave (channel : Nat) (plane : Nat) (y : Nat) (x0 : Nat) (x1 : Nat) : Statement (.rSave channel plane y x0 x1) := by
  intro h rest
  simp only [Instr.wellFormed, Bool.and_eq_true] at h
  refine ⟨_, _, rfl, ?_⟩
  simp only [List.append_assoc]
  show (do
    let channel ← decNat
    let plane ← decNat
    let y ← decNat
    let x0 ← decNat
    let x1 ← decNat
    pure (Instr.rSave channel plane y x0 x1) : Dec Instr) _ = _
  rw [Dec.bind_ok (reads_nat _ _ h.1.1.1.1.1), Dec.bind_ok (reads_nat _ _ h.1.1.1.1.2), Dec.bind_ok (reads_nat _ _ h.1.1.1.2), Dec.bind_ok (reads_nat _ _ h.1.1.2), Dec.bind_ok (reads_nat _ _ h.1.2)]
  rfl

theorem rExtend (rect : Placing) (cw : Nat) (ch : Nat) (y : Nat) : Statement (.rExtend rect cw ch y) := by
  intro h rest
  simp only [Instr.wellFormed, Bool.and_eq_true] at h
  refine ⟨_, _, rfl, ?_⟩
  simp only [List.append_assoc]
  show (do
    let pad ← decStage
    let rect ← decPlace
    let cw ← decNat
    let ch ← decNat
    let y ← decNat
    pure (Instr.rExtend { pad := pad, rect := rect } cw ch y) : Dec Instr) _ = _
  rw [Dec.bind_ok (reads_stage _ _ h.1.1.1.1), Dec.bind_ok (reads_place _ _ h.1.1.1.2),
    Dec.bind_ok (reads_nat _ _ h.1.1.2), Dec.bind_ok (reads_nat _ _ h.1.2), Dec.bind_ok (reads_nat _ _ h.2)]
  rfl

theorem rGroup (g : Nat) : Statement (.rGroup g) := by
  intro h rest
  simp only [Instr.wellFormed] at h
  refine ⟨_, _, rfl, ?_⟩
  show (do
    let g ← decNat
    pure (Instr.rGroup g) : Dec Instr) _ = _
  rw [Dec.bind_ok (reads_nat _ _ h)]
  rfl

theorem rOutside (cw : Nat) (ch : Nat) (rect : Placing) : Statement (.rOutside cw ch rect) := by
  intro h rest
  simp only [Instr.wellFormed, Bool.and_eq_true] at h
  refine ⟨_, _, rfl, ?_⟩
  simp only [List.append_assoc]
  show (do
    let cw ← decNat
    let ch ← decNat
    let pad ← decStage
    let rect ← decPlace
    pure (Instr.rOutside cw ch { pad := pad, rect := rect }) : Dec Instr) _ = _
  rw [Dec.bind_ok (reads_nat _ _ h.1.1.1), Dec.bind_ok (reads_nat _ _ h.1.1.2),
    Dec.bind_ok (reads_stage _ _ h.1.2), Dec.bind_ok (reads_place _ _ h.2)]
  rfl

theorem iAlloc (w : Nat) (h : Nat) (ty : SampleType) : Statement (.iAlloc w h ty) := by
  intro h rest
  simp only [Instr.wellFormed, Bool.and_eq_true] at h
  refine ⟨_, _, rfl, ?_⟩
  simp only [List.append_assoc]
  show (do
    let w ← decNat
    let h ← decNat
    let ty ← decType
    pure (Instr.iAlloc w h ty) : Dec Instr) _ = _
  rw [Dec.bind_ok (reads_nat _ _ h.1), Dec.bind_ok (reads_nat _ _ h.2), Dec.bind_ok (reads_type _ _ rfl)]
  rfl

theorem iRow (b : Nat) (y : Nat) (mode : Access) : Statement (.iRow b y mode) := by
  intro h rest
  simp only [Instr.wellFormed, Bool.and_eq_true] at h
  refine ⟨_, _, rfl, ?_⟩
  simp only [List.append_assoc]
  show (do
    let b ← decNat
    let y ← decNat
    let mode ← decAccess
    pure (Instr.iRow b y mode) : Dec Instr) _ = _
  rw [Dec.bind_ok (reads_nat _ _ h.1), Dec.bind_ok (reads_nat _ _ h.2), Dec.bind_ok (reads_access _ _ rfl)]
  rfl

theorem iRows (b : Nat) (rows : List Nat) (mode : Access) : Statement (.iRows b rows mode) := by
  intro h rest
  simp only [Instr.wellFormed, Bool.and_eq_true] at h
  refine ⟨_, _, rfl, ?_⟩
  simp only [List.append_assoc]
  show (do
    let b ← decNat
    let rows ← decList decNat
    let mode ← decAccess
    pure (Instr.iRows b rows mode) : Dec Instr) _ = _
  rw [Dec.bind_ok (reads_nat _ _ h.1), Dec.bind_ok (reads_nats _ _ h.2), Dec.bind_ok (reads_access _ _ rfl)]
  rfl

theorem iRect (b : Nat) (x0 : Nat) (y0 : Nat) (w : Nat) (h : Nat) (mode : Access) : Statement (.iRect b x0 y0 w h mode) := by
  intro h rest
  simp only [Instr.wellFormed, Bool.and_eq_true] at h
  refine ⟨_, _, rfl, ?_⟩
  simp only [List.append_assoc]
  show (do
    let b ← decNat
    let x0 ← decNat
    let y0 ← decNat
    let w ← decNat
    let h ← decNat
    let mode ← decAccess
    pure (Instr.iRect b x0 y0 w h mode) : Dec Instr) _ = _
  rw [Dec.bind_ok (reads_nat _ _ h.1.1.1.1), Dec.bind_ok (reads_nat _ _ h.1.1.1.2), Dec.bind_ok (reads_nat _ _ h.1.1.2), Dec.bind_ok (reads_nat _ _ h.1.2), Dec.bind_ok (reads_nat _ _ h.2), Dec.bind_ok (reads_access _ _ rfl)]
  rfl

theorem iFree (b : Nat) : Statement (.iFree b) := by
  intro h rest
  simp only [Instr.wellFormed] at h
  refine ⟨_, _, rfl, ?_⟩
  show (do
    let b ← decNat
    pure (Instr.iFree b) : Dec Instr) _ = _
  rw [Dec.bind_ok (reads_nat _ _ h)]
  rfl

end Sys2Proof.Laws.Operands
end

