-- ==== Sys2Proof/Laws/Rows.lean ====
section
/-! SUPPORT. The rows of the render stages, per channel: their lists keep one entry for each channel, and which rows are
listed. -/

namespace Sys2Proof.Machine

variable {α : Type}

@[simp] theorem setEach_length (l : List α) (set : List Nat) (f : α → α) : (setEach l set f).length = l.length := by
  induction set generalizing l with
  | nil => rfl
  | cons c rest ih => rw [setEach, ih, List.length_modify]

@[simp] theorem heightsAfter_length (hs : List Nat) (st : RStage) : (heightsAfter hs st).length = hs.length := by
  cases st <;> simp [heightsAfter]

@[simp] theorem rowsAfter_length (hs : List Nat) (rows : List (List Nat)) (st : RStage) :
    (rowsAfter hs rows st).length = rows.length := by
  cases st <;> simp [rowsAfter]

theorem rowsBefore_length (alpha : Option Nat) {hs : List Nat} {need : List (List Nat)} (st : RStage)
    (h : need.length = hs.length) : (rowsBefore alpha hs need st).length = hs.length := by
  cases st <;> simp [rowsBefore, h]

theorem rowsNeeded_length (alpha : Option Nat) {hs : List Nat} {rows : List (List Nat)} (l : List RStage)
    (h : rows.length = hs.length) : (rowsNeeded alpha hs rows l).length = hs.length := by
  induction l generalizing hs rows with
  | nil => exact h
  | cons st rest ih =>
    rw [rowsNeeded, List.length_zipWith, rowsBefore_length alpha st (by rw [ih (by simp [h]), heightsAfter_length]), h,
      Nat.min_self]

theorem mem_listedRows {rows : List (List Nat)} {set : List Nat} {h y : Nat} :
    y ∈ listedRows rows set h ↔ y < h ∧ ∃ c ∈ set, y ∈ (rows[c]?).getD [] := by
  simp [listedRows]

end Sys2Proof.Machine
end

