-- ==== Sys2Proof/Laws/Store.lean ====
section
/-! SUPPORT. Stores and byte memories: reading after a write, and that every write keeps the canonical form. -/

namespace Sys2Proof.Machine

variable {α : Type}

theorem storeRead_write_same (m : List (Nat × α)) (a : Nat) (v : α) : storeRead (storeWrite m a v) a = some v := by
  induction m with
  | nil => simp [storeWrite, storeRead]
  | cons e rest ih =>
    obtain ⟨k, w⟩ := e
    simp only [storeWrite]
    split
    · simp [storeRead]
    · split
      · simp [storeRead]
      · simp [storeRead, *]

theorem storeRead_write_other (m : List (Nat × α)) (a b : Nat) (v : α) (h : b ≠ a) :
    storeRead (storeWrite m a v) b = storeRead m b := by
  induction m with
  | nil => simp [storeWrite, storeRead, h]
  | cons e rest ih =>
    obtain ⟨k, w⟩ := e
    simp only [storeWrite]
    split
    · next hk => subst hk; simp [storeRead, h]
    · split
      · simp [storeRead, h]
      · simp only [storeRead, ih]

theorem storeWfFrom_write (m : List (Nat × α)) (lo a : Nat) (v : α) (hlo : lo ≤ a) (h : storeWfFrom lo m = true) :
    storeWfFrom lo (storeWrite m a v) = true := by
  induction m generalizing lo with
  | nil => simp [storeWrite, storeWfFrom, hlo]
  | cons e rest ih =>
    obtain ⟨k, w⟩ := e
    simp only [storeWfFrom, Bool.and_eq_true, decide_eq_true_eq] at h
    simp only [storeWrite]
    split
    · next hk => subst hk; simp [storeWfFrom, h]
    · split
      · next hlt => simp [storeWfFrom, hlo, Nat.succ_le_of_lt hlt, h]
      · next hne hnlt =>
        have : k + 1 ≤ a := by omega
        simp [storeWfFrom, h, ih (k + 1) this h.2]

/-- A write keeps the canonical form. -/
theorem storeWf_write (m : List (Nat × α)) (a : Nat) (v : α) (h : storeWf m = true) :
    storeWf (storeWrite m a v) = true :=
  storeWfFrom_write m 0 a v (Nat.zero_le a) h

theorem Memory.read_write_same (m : Memory) (a : Nat) (b : Byte) : (m.write a b).read a = some b :=
  storeRead_write_same m a b

theorem Memory.read_write_other (m : Memory) (a c : Nat) (b : Byte) (h : c ≠ a) : (m.write a b).read c = m.read c :=
  storeRead_write_other m a c b h

/-- A byte write keeps the canonical form of memory. -/
theorem Memory.wf_write (m : Memory) (a : Nat) (b : Byte) (h : m.wf = true) : (m.write a b).wf = true :=
  storeWf_write m a b h

/-- A write of a run of bytes keeps the canonical form of memory. -/
theorem Memory.wf_writeList (bs : List Byte) (m : Memory) (a : Nat) (h : m.wf = true) : (m.writeList a bs).wf = true := by
  induction bs generalizing m a with
  | nil => exact h
  | cons b rest ih => exact ih _ _ (Memory.wf_write m a b h)

/-- A write of a run of bytes leaves every byte outside the run alone. -/
theorem Memory.read_writeList_other (bs : List Byte) (m : Memory) (a c : Nat) (h : c < a ∨ a + bs.length ≤ c) :
    (m.writeList a bs).read c = m.read c := by
  induction bs generalizing m a with
  | nil => rfl
  | cons b rest ih =>
    simp only [List.length_cons] at h
    rw [Memory.writeList, ih _ _ (by omega), Memory.read_write_other _ _ _ _ (by omega)]

/-- The memory of the reset state is in canonical form. -/
theorem reset_memory_wf : State.reset.host.outMem.wf = true := rfl

end Sys2Proof.Machine
end

