-- ==== Sys2Proof/Tests/Slice0.lean ====
section
/-! SUPPORT. Tests and witnesses. Expected results are the spec's: its test vectors (95_test_vectors.md, named V-…), its
tables, or its rules worked by hand. A `witness_<Obligation>` shows states and operands that meet the hypotheses of every
clause of that obligation. -/

namespace Sys2Proof.Tests

set_option Elab.async false

open Sys2Proof.Machine

/-! ### Ill-formed operations: one for each check of WellFormed.lean -/

theorem test_ill_natural : (Instr.srcSkip (2 ^ 64)).wellFormed = false := by decide
theorem test_ill_integer : (Instr.mWpUpdate 0 0 (2 ^ 63)).wellFormed = false := by decide
theorem test_ill_integer_low : (Instr.mWalk [-2 ^ 63 - 1]).wellFormed = false := by decide
theorem test_ill_want_zero : (Instr.pFill 0).wellFormed = false := by decide
theorem test_ill_list_element : (Instr.srcRead [1, 2 ^ 64]).wellFormed = false := by decide
theorem test_ill_scope_pass : (Instr.ansInit (.ac (2 ^ 64))).wellFormed = false := by decide
theorem test_ill_las : (Instr.ansHist .modular 13).wellFormed = false := by decide
theorem test_ill_channel : (Instr.bPredNz 3 0 0).wellFormed = false := by decide
theorem test_ill_cms_handle :
    (Instr.process 0 ⟨0, false, false, false, false, some (2 ^ 64), none⟩ none).wellFormed = false := by decide
theorem test_ill_pixel_limit :
    (Instr.process 0 ⟨2 ^ 64, false, false, false, false, none, none⟩ none).wellFormed = false := by decide
theorem test_ill_pixel_format :
    (Instr.process 0 ⟨0, false, false, false, false, none, some ⟨2 ^ 64, 0, .little⟩⟩ none).wellFormed = false := by
  decide
theorem test_ill_plane :
    (Instr.process 0 ⟨0, false, false, false, false, none, none⟩ (some [⟨0, 0, 0, 2 ^ 64⟩])).wellFormed = false := by
  decide
theorem test_ill_multiplier : (Instr.mPredict ⟨.zero, 0, 0, 0⟩ []).wellFormed = false := by decide
theorem test_ill_leaf_offset : (Instr.mPredict ⟨.zero, 2 ^ 63, 1, 0⟩ []).wellFormed = false := by decide
theorem test_ill_leaf_context : (Instr.mPredict ⟨.zero, 0, 1, 2 ^ 64⟩ []).wellFormed = false := by decide
theorem test_ill_stage_id : (Instr.rInplace ⟨.named (2 ^ 64), []⟩ 0 0 0).wellFormed = false := by decide
theorem test_ill_stage_slot : (Instr.rInplace ⟨.withRef 0 (2 ^ 64), []⟩ 0 0 0).wellFormed = false := by decide
theorem test_ill_stage_channel : (Instr.rInplace ⟨.spot 1, [0, 2 ^ 64]⟩ 0 0 0).wellFormed = false := by decide
theorem test_ill_stage_spot : (Instr.rInplace ⟨.spot (2 ^ 64), [0]⟩ 0 0 0).wellFormed = false := by decide
theorem test_ill_place : (Instr.rOutside 1 1 ⟨.named 0, ⟨0, 0, 2 ^ 64, 0⟩⟩).wellFormed = false := by decide
theorem test_ill_place_corner : (Instr.rExtend ⟨.named 0, ⟨2 ^ 63, 0, 1, 1⟩⟩ 1 1 0).wellFormed = false := by decide
theorem test_ill_segment : (Instr.rInplace ⟨.cms, []⟩ 0 2 1).wellFormed = false := by decide
theorem test_ill_save_segment : (Instr.rSave 0 0 0 2 1).wellFormed = false := by decide
theorem test_ill_idct_side : (Instr.xIdct 4 8 0 1).wellFormed = false := by decide
theorem test_ill_afv_variant : (Instr.xAfv 4 0 1).wellFormed = false := by decide
theorem test_ill_row_index : (Instr.iRows 0 [2 ^ 64] .read).wellFormed = false := by decide

/-! ### Words: OPC of 30_encoding.md R102, operands as in notes/assumptions/2.md -/

/-- A natural below 256 as an operand word. -/
def w8 (n : Nat) : List Byte := [BitVec.ofNat 8 n, 0, 0, 0, 0, 0, 0, 0]

theorem test_decode_host :
    decode ([0x00] ++ w8 1 ++ ([0x10, 0x27, 0, 0, 0, 0, 0, 0] ++ [1, 0, 1, 0] ++ ([1] ++ w8 4) ++
      ([1] ++ w8 2 ++ w8 3 ++ [1]) ++ ([1] ++ w8 1 ++ (w8 5 ++ w8 6 ++ w8 7 ++ w8 8)))) =
      .ok (.process 1 ⟨10000, true, false, true, false, some 4, some ⟨2, 3, .big⟩⟩ (some [⟨5, 6, 7, 8⟩])) ∧
    decode [0x01] = .ok .reset ∧ decode [0x02] = .ok .outQuery := by decide +kernel

theorem test_decode_port :
    decode [0x10] = .ok .srcAvail ∧ decode ([0x11] ++ w8 2 ++ w8 7 ++ w8 9) = .ok (.srcRead [7, 9]) ∧
    decode ([0x12] ++ w8 200) = .ok (.srcSkip 200) ∧ decode ([0x14] ++ w8 1 ++ w8 2) = .ok (.cmsXform 1 2) ∧
    decode ([0x15] ++ w8 3) = .ok (.cmsXformInplace 3) := by decide +kernel

theorem test_decode_parser :
    decode [0x20] = .ok .pFileHeader ∧ decode [0x21] = .ok .pColorProfile ∧ decode [0x22] = .ok .pFrameHeader ∧
    decode [0x23] = .ok .pToc ∧ decode [0x24] = .ok .pBuffer ∧ decode [0x25] = .ok .pDispatch ∧
    decode [0x26] = .ok .pSkip ∧ decode [0x27] = .ok .pFrameDone ∧ decode [0x28] = .ok .pFinish ∧
    decode ([0x29] ++ w8 5) = .ok (.pFill 6) := by decide +kernel

theorem test_decode_section :
    decode ([0x30] ++ w8 4) = .ok (.sLfGlobal 4) ∧ decode ([0x31] ++ w8 3 ++ w8 1) = .ok (.sLfGroup 3 1) ∧
    decode ([0x32] ++ w8 2) = .ok (.sHfGlobal 2) ∧ decode ([0x33] ++ w8 1 ++ w8 2 ++ w8 3) = .ok (.sHfGroup 1 2 3) := by
  decide +kernel

theorem test_decode_ans :
    decode ([0x40, 3] ++ w8 5) = .ok (.ansHist .modular 5) ∧ decode ([0x41, 0] ++ w8 5) = .ok (.ansHistSingle .tree 5) ∧
    decode ([0x42, 1] ++ w8 5) = .ok (.ansHistTwo .toc 5) ∧ decode ([0x43, 2] ++ w8 8) = .ok (.ansHistFlat .icc 8) ∧
    decode ([0x44, 4] ++ w8 1 ++ w8 2) = .ok (.ansHistComplex (.ac 1) 2) ∧
    decode ([0x45, 3] ++ w8 1 ++ w8 2) = .ok (.ansAlias .modular 1 2) ∧ decode [0x46, 3] = .ok (.ansInit .modular) ∧
    decode ([0x47, 4] ++ w8 2 ++ w8 7) = .ok (.ansRead (.ac 2) 7) ∧ decode [0x48, 0] = .ok (.ansFinal .tree) := by
  decide +kernel

theorem test_decode_huffman :
    decode ([0x50, 3] ++ [0, 1, 0, 0, 0, 0, 0, 0]) = .ok (.huffSimple .modular 256) ∧
    decode ([0x51, 3] ++ w8 4 ++ w8 2) = .ok (.huffLengths .modular 4 2) ∧
    decode ([0x52, 3] ++ w8 2 ++ w8 1 ++ w8 1) = .ok (.huffBuild .modular [1, 1]) ∧
    decode ([0x53, 3] ++ w8 9) = .ok (.huffRead .modular 9) := by decide +kernel

theorem test_decode_block :
    decode ([0x60] ++ w8 1 ++ w8 2 ++ w8 3) = .ok (.bPredNz 1 2 3) ∧
    decode ([0x61] ++ w8 2 ++ w8 32 ++ w8 4) = .ok (.bNz 2 32 4) ∧
    decode ([0x62] ++ w8 0 ++ w8 4 ++ w8 9 ++ w8 1) = .ok (.bCoeffs 0 4 9 1) ∧
    decode ([0x63] ++ w8 5 ++ w8 6 ++ w8 7) = .ok (.bDequant 5 6 7) ∧
    decode ([0x64] ++ w8 5 ++ w8 6 ++ w8 7) = .ok (.bXform 5 6 7) := by decide +kernel

theorem test_decode_modular :
    decode [0x70] = .ok .mTree ∧ decode ([0x71] ++ w8 1 ++ w8 2 ++ w8 3) = .ok (.mProps 1 2 3) ∧
    decode ([0x72] ++ w8 2 ++ w8 3 ++ List.replicate 8 0xFF) = .ok (.mWalk [3, -1]) ∧
    decode ([0x73, 5] ++ w8 9 ++ w8 0 ++ w8 2 ++ w8 0) = .ok (.mPredict ⟨.gradient, 9, 1, 2⟩ []) ∧
    decode ([0x74] ++ w8 4 ++ w8 5) = .ok (.mWp 4 5) ∧
    decode ([0x75] ++ w8 4 ++ w8 5 ++ [0xFE, 0xFF, 0xFF, 0xFF, 0xFF, 0xFF, 0xFF, 0xFF]) = .ok (.mWpUpdate 4 5 (-2)) ∧
    decode ([0x76] ++ w8 1 ++ w8 0 ++ w8 3 ++ w8 2 ++ [1] ++ w8 8) = .ok (.mPalette 1 0 3 2 .left 8) ∧
    decode ([0x77] ++ w8 0 ++ w8 1 ++ w8 4) = .ok (.mHsqueeze 0 1 4) ∧
    decode ([0x78] ++ w8 0 ++ w8 1 ++ w8 3) = .ok (.mVsqueeze 0 1 3) := by decide +kernel

theorem test_decode_transform :
    decode ([0x80, 1, 0] ++ w8 3 ++ w8 4) = .ok (.xIdct 16 8 3 4) ∧
    decode ([0x80, 5, 5] ++ w8 3 ++ w8 4) = .ok (.xIdct 256 256 3 4) ∧
    decode ([0x81, 2] ++ w8 3 ++ w8 4) = .ok (.xAfv 2 3 4) ∧ decode ([0x82] ++ w8 3 ++ w8 4) = .ok (.xIdentity 3 4) ∧
    decode ([0x83] ++ w8 3 ++ w8 4) = .ok (.xDct2x2 3 4) ∧ decode ([0x84] ++ w8 3 ++ w8 4) = .ok (.xDct4x4 3 4) ∧
    decode ([0x85] ++ w8 3 ++ w8 4) = .ok (.xDct8x4 3 4) ∧ decode ([0x86] ++ w8 3 ++ w8 4) = .ok (.xDct4x8 3 4) := by
  decide +kernel

theorem test_decode_render :
    decode ([0x90, 0] ++ w8 7 ++ (w8 2 ++ w8 0 ++ w8 4) ++ w8 1 ++ w8 2 ++ w8 3) =
      .ok (.rInplace ⟨.named 7, [0, 4]⟩ 1 2 3) ∧
    decode ([0x90, 1] ++ w8 7 ++ w8 2 ++ w8 0 ++ w8 1 ++ w8 2 ++ w8 3) = .ok (.rInplace ⟨.withRef 7 2, []⟩ 1 2 3) ∧
    decode ([0x90, 2] ++ (w8 1 ++ w8 5) ++ w8 1 ++ w8 2 ++ w8 3) = .ok (.rInplace ⟨.cms, [5]⟩ 1 2 3) ∧
    decode ([0x90, 5] ++ (w8 1 ++ w8 5) ++ w8 1 ++ w8 2 ++ w8 3) = .ok (.rInplace ⟨.premultiply, [5]⟩ 1 2 3) ∧
    decode ([0x91, 3] ++ (w8 1 ++ w8 6) ++ w8 2 ++ w8 3 ++ w8 1 ++ w8 0 ++ [1] ++ w8 7 ++ w8 8 ++ w8 9) =
      .ok (.rInout ⟨.cmsInplace, [6]⟩ 2 3 1 0 true ⟨7, 8, 9⟩) ∧
    decode ([0x92] ++ w8 0 ++ w8 1 ++ w8 2 ++ w8 3 ++ w8 4) = .ok (.rSave 0 1 2 3 4) ∧
    decode ([0x93, 0] ++ w8 11 ++ ([0xFB, 0xFF, 0xFF, 0xFF, 0xFF, 0xFF, 0xFF, 0xFF] ++ w8 20 ++ w8 40 ++ w8 30) ++ w8 100 ++ w8 80 ++
      w8 6) = .ok (.rExtend ⟨.named 11, ⟨-5, 20, 40, 30⟩⟩ 100 80 6) ∧
    decode ([0x94] ++ w8 1) = .ok (.rGroup 1) ∧
    decode ([0x95] ++ w8 100 ++ w8 80 ++ ([4] ++ w8 9) ++ (w8 10 ++ w8 20 ++ w8 40 ++ w8 30)) =
      .ok (.rOutside 100 80 ⟨.spot 9, ⟨10, 20, 40, 30⟩⟩) := by
  decide +kernel

theorem test_decode_buffer :
    decode ([0xA0] ++ w8 100 ++ w8 50 ++ [0]) = .ok (.iAlloc 100 50 .float) ∧
    decode ([0xA1] ++ w8 1 ++ w8 2 ++ [1]) = .ok (.iRow 1 2 .write) ∧
    decode ([0xA2] ++ w8 1 ++ (w8 3 ++ w8 4 ++ w8 5 ++ w8 6) ++ [0]) = .ok (.iRows 1 [4, 5, 6] .read) ∧
    decode ([0xA3] ++ w8 1 ++ w8 2 ++ w8 3 ++ w8 4 ++ w8 5 ++ [0]) = .ok (.iRect 1 2 3 4 5 .read) ∧
    decode ([0xA4] ++ w8 6) = .ok (.iFree 6) := by decide +kernel

/-- Codes of no operation, an operand that is missing, a tag that names nothing, an operand outside its rule, bytes after
the operands. -/
theorem test_decode_rejects :
    decode [0x13] = .error .unknownOpcode ∧ decode [0xB0] = .error .unknownOpcode ∧ decode [] = .error .truncated ∧
    decode [0x12, 1] = .error .truncated ∧ decode [0x46, 5] = .error .badTag ∧
    decode ([0x40, 3] ++ w8 13) = .error .illFormed ∧ decode [0x01, 1] = .error .trailing := by decide +kernel

/-! ### Fixtures -/

/-- A check of the next state an operation answers. -/
def nextHas (r : Host.Outcome State Fault Refusal) (f : State → Bool) : Bool :=
  match r with
  | .next t => f t
  | .fault _ => false
  | .refused _ => false

/-- The next state of an outcome. -/
def nextState (r : Host.Outcome State Fault Refusal) : State :=
  match r with
  | .next t => t
  | .fault _ => .reset
  | .refused _ => .reset

theorem next_of {r : Host.Outcome State Fault Refusal} (h : nextHas r (fun _ => true) = true) :
    r = .next (nextState r) := by
  cases r <;> simp_all [nextHas, nextState]

/-- The state an operation ends in. -/
def endState {α : Type} (r : EStateM.Result Stop State α) : State :=
  match r with
  | .ok _ s => s
  | .error _ s => s

/-- The operation completes with this value. -/
def okIs {α : Type} [DecidableEq α] (r : EStateM.Result Stop State α) (v : α) : Bool :=
  match r with
  | .ok w _ => decide (w = v)
  | .error _ _ => false

theorem ok_of {α : Type} [DecidableEq α] {r : EStateM.Result Stop State α} {v : α} (h : okIs r v = true) :
    r = .ok v (endState r) := by
  cases r <;> simp_all [okIs, endState]

theorem fits_of {s : State} {n : Nat}
    (h : (s.par.reader.isSome || decide (s.ctl.bitpos + n < 2 ^ (s.inp.params.posBits.getD Config.posBits))) = true) :
    s.fits n := by
  intro hr
  simpa [hr] using h

theorem holds_of {s : State} {ty : SampleType} {h x0 y0 w ht : Nat}
    (hc : ∀ x, x < w → ∀ y, y < ht → s.canWrite ty h (x0 + x) (y0 + y) = true) : s.holds ty h x0 y0 w ht :=
  fun x y hx hy => hc x hx y hy

/-- The configuration of the tests: numeric parameters fixed, the spec's usual bodies where it gives them. -/
def params : Params :=
  { ansFinalState := some 0x130000, ansInitLazy := some false, huffTableBits := some 3, rowAlignLog := some 6
    maxTreeHeight := some 2, maxTreeNodes := some 3, numRefSlots := some 4, posBits := some 40, addrBits := some 32
    allocRefused := some []
    modSampleBits := some 16, natSampleBytes := some 1, outEndianDefault := some .little
    catalog := some usualCatalog, tileBlocks := some 8, wpSpan := some [.w, .n, .ne], identityAnchor := some 5
    symbolIndex := .table [([], .parsed 1 0)], alphabetSize := .table [([], .parsed 3 0)]
    complexCounts := .table [((2, []), .parsed [100, 2000, 1996, 0] 0), ((1, []), .parsed [4000, 95] 0)]
    contextToHistogram := .table
      ((List.range 6).map (fun k => ((.tree, k), k)) ++ [((.modular, 0), 0), ((.ac 0, 20), 0), ((.ac 0, 3), 1)])
    symbolToValue := .table ((List.range 10).map fun v => ((v, []), .parsed v 0))
    huffKind := .usual, ansHistKind := .usual, unpackSigned := .usual, treeContext := .usual, treeTag := .usual
    propertyDefined := .usual, predictorOf := .usual, multiplierFrom := .usual, propertyTable := .usual
    neighbours := .usual, predictOne := .usual, wpScale := .usual, wpUnscale := .usual, wpErr := .usual
    wpEstimator := .usual, wpWeight := .usual, wpProperty := .usual, wpShift := .usual, wpQuotient := .usual, smallCube := .usual
    largeCube := .usual, deltaEntry := .usual, coeffLayout := .usual, channelOrder := .usual, nonZeroContext := .usual, capacity := .usual
    nzStored := .usual, initialPrev := .usual, firstAc := .usual, passShift := .usual, accumulate := .usual
    numBlockContexts := .table [([], 1)]
    blockContext := .table ((List.range 3).map fun c => (((c, 0, 4), []), 0)), zeroDensityContext := .table [(((1, 1, 1), false), 3)]
    contextOffset := .table [(0, 0)], lfPositions := .table [(0, [0])]
    lfValue := .table ((List.range 3).map fun c => (((0, c, 0), [1], []), 0x3F800000)) }

/-- Reset with a configuration. -/
def base : State := { State.reset with inp := { params := params, tape := [], drawCount := 0, memCount := 0, fetch := [] } }

/-- Inside a section with these bytes, at its first bit. -/
def inSection (bytes : List Byte) : State :=
  base.setPar fun p => { p with reader := some { bytes := bytes, pos := 0 } }

/-- With one configuration changed. -/
def with_ (s : State) (f : Params → Params) : State := s.setInp fun i => { i with params := f i.params }

def image : ImageHeader :=
  { width := 2, height := 2, bitDepth := ⟨false, 8, 0⟩, color := .simple [], extra := [], animation := none
    preview := none }

/-- A Modular frame of one group and pass. -/
def frameM : FrameHeader :=
  { width := 2, height := 2, encoding := .modular, numPasses := 1, passShifts := [0], groupDim := 8
    groups := [⟨0, 0, 2, 2⟩], lfGroups := [⟨0, 0, 2, 2⟩], preview := false, canRef := true, display := true
    last := false, slot := 1 }

/-- A VarDCT frame of 2 groups and 1 pass. -/
def frameV : FrameHeader :=
  { frameM with width := 16, height := 8, encoding := .varDct, groups := [⟨0, 0, 8, 8⟩, ⟨8, 0, 8, 8⟩] }

/-- An owned buffer with all its samples written. -/
def full (w h : Nat) (ty : SampleType) (l : List Sample) : Buffer :=
  { width := w, height := h, ty := ty, stride := 64, ownership := .owned, samples := (List.range (w * h)).zip l }

def ints (l : List Int) : List Sample := l.map .int
def floats (l : List F32) : List Sample := l.map .flt

/-- With these image buffers, by handle. -/
def withBufs (s : State) (l : List Buffer) : State :=
  s.setImg fun i => { i with bufs := l.zipIdx.map fun e => (e.2, e.1), next := l.length }

/-- With the tables of a scope. -/
def withTables (s : State) (sc : ScopeId) (t : ScopeTables) : State := s.withScope sc t

/-- A scope whose ANS state is `w`, with one compiled histogram. -/
def ansScope (las : Nat) (d : List Nat) (w : Option Word) : ScopeTables :=
  { coder := .ans, codes := [{ las := las, dist := d, table := some (aliasTable d las) }], htabs := [], ansState := w }

/-- A Huffman scope of one-symbol tables: reading in the k-th takes no bits and gives the k-th value. -/
def valueScope (l : List Nat) : ScopeTables :=
  { coder := .huff, codes := [], htabs := l.map (oneSymbolTable 0), ansState := none }

/-- The integers of a buffer. -/
def grid (s : State) (h : Nat) : List Int :=
  match assocGet s.img.bufs h with
  | some b => b.samples.filterMap fun e => e.2.int?
  | none => []

/-! ### One step of each operation -/

/-- V-EX-6, V-EX-5, 40_parser.md R130. -/
theorem test_reset : nextHas (exec .reset (base.setCtl fun c =>
      { c with phase := .faulted, bitpos := 8000, err := .checksum, infoValid := true, frameCount := 2 }))
    (fun t => t.ctl == Control.reset) = true := by decide +kernel
theorem test_process_finished : exec (.process 0 base.ctl.opt none) (base.setCtl fun c => { c with phase := .finished }) =
    .refused .finished := by rfl
theorem test_process_clears_incomplete : nextHas (exec (.process 0 base.ctl.opt none) (base.setCtl fun c =>
    { c with err := .incompleteInput })) (fun t => t.ctl.busy && t.ctl.err == .none) = true := by decide +kernel
theorem test_out_query_no_info : exec .outQuery base = .refused .noInfo := by rfl

/-- A source of ten bytes of which four are revealed, after one. -/
def fed : State := base.setHost fun h => { h with sources := [{ bytes := [0, 1, 2, 3, 4, 5, 6, 7, 8, 9], pos := 1, availEnd := 4 }] }

theorem test_src_avail : nextHas (exec .srcAvail fed) (fun t => t.ret == .nat 3) = true := by decide +kernel
/-- Byte ranges of 1 and 5: with the largest count HOST may choose, all three bytes arrive in order. -/
theorem test_src_read : nextHas (exec (.srcRead [1, 5]) (fed.setInp fun i => { i with tape := [2] }))
    (fun t => t.ret == .nat 3 && t.par.stage.bytes == [1, 2, 3] && t.source.pos == 4) = true := by decide +kernel
theorem test_src_skip : nextHas (exec (.srcSkip 2) (fed.setInp fun i => { i with tape := [0] }))
    (fun t => t.ret == .nat 1 && t.par.stage.bytes == [] && t.source.pos == 2) = true := by decide +kernel

/-- V-P-7: bytes 8 and 9 dropped, nothing available, Incomplete. -/
theorem test_fill_incomplete : nextHas (exec (.pFill 6) { base with
      ctl := { base.ctl with bitpos := 80 }, par := { base.par with stage := { base := 8, bytes := [8, 9, 10, 11] } }
      inp := { base.inp with tape := [41] } })
    (fun t => t.par.stage == { base := 10, bytes := [10, 11] } && t.ret == .result (.err .incompleteInput 42)) = true := by
  decide +kernel

/-- V-EX-3: 1000×1000 at PIXEL_LIMIT 1000000 is accepted, 1001×1000 is RESOURCE_LIMIT. -/
theorem test_file_header : nextHas (exec .pFileHeader (with_ (base.setCtl fun c =>
      { c with opt := { c.opt with pixelLimit := 1000000 } })
      fun p => { p with parseFileHeader := .table [([], .parsed { image with width := 1000, height := 1000 } 0)] }))
    (fun t => t.ctl.phase == .needColorProfile && t.par.imageHeader.isSome) = true := by decide +kernel
theorem test_file_header_limit : nextHas (exec .pFileHeader (with_ (base.setCtl fun c =>
      { c with opt := { c.opt with pixelLimit := 1000000 } })
      fun p => { p with parseFileHeader := .table [([], .parsed { image with width := 1001, height := 1000 } 0)] }))
    (fun t => t.ctl.phase == .faulted && t.ctl.err.code == 2 && !t.ctl.infoValid) = true := by decide +kernel

/-- V-P-5: (0, 0, 1, absent) is SKIP, and program P3's flags 0x32 are DECODE. -/
theorem test_mode : chooseMode false false true true = .decode ∧ chooseMode false false true false = .skip ∧
    chooseMode false true false false = .decode ∧ chooseMode true false false false = .decode ∧
    chooseMode false false false true = .skip ∧ chooseMode false true true false = .decode := by decide

/-- V-P-1. -/
theorem test_section_kinds : numSections { frameM with groups := List.replicate 4 ⟨0, 0, 8, 8⟩, numPasses := 2 } = 11 ∧
    ([0, 1, 2, 3, 6, 7, 10].map (sectionKind { frameM with groups := List.replicate 4 ⟨0, 0, 8, 8⟩, numPasses := 2 })) =
      [.lfGlobal, .lf 0, .hfGlobal, .hf 0 0, .hf 3 0, .hf 0 1, .hf 3 1] := by decide +kernel
/-- V-P-2, V-P-3: the sections of a permuted TOC. -/
theorem test_sections : ((buildSections { frameM with groups := List.replicate 2 ⟨0, 0, 8, 8⟩ } (some [4, 3, 2, 1, 0]) 0 17
      [3, 2, 0, 1, 2]).map fun x => (x.kind, x.start)) =
      [(.hf 1 0, 17), (.hf 0 0, 20), (.hfGlobal, 22), (.lf 0, 22), (.lfGlobal, 23)] ∧
    permOk (some [0, 1, 1, 3, 4]) 5 = false ∧ permOk (some [0, 1, 2, 3]) 5 = false := by decide +kernel

/-- A pending section. -/
def pending (k : SecKind) (i start total ready : Nat) (bytes : List Byte) : Section :=
  { kind := k, logical := i, start := start, total := total, ready := ready, state := .pending, bytes := bytes }

/-- V-P-4: the staged byte goes to the first section that is not full. -/
theorem test_buffer : nextHas (exec .pBuffer { base with par := { base.par with
      sect := [pending (.hf 1 0) 4 17 3 3 [1, 2, 3], pending (.hf 0 0) 3 20 2 0 [], pending .hfGlobal 2 22 0 0 []]
      stage := { base := 17, bytes := [1, 2, 3, 9] } } })
    (fun t => t.par.sect.map (fun x => (x.ready, x.bytes)) == [(3, [1, 2, 3]), (1, [9]), (0, [])] &&
      t.ctl.bitpos == 168) = true := by decide +kernel

/-- V-P-8: 20 bytes staged, 2600 skipped of 7600. -/
theorem test_skip : nextHas (exec .pSkip { base with
      ctl := { base.ctl with bitpos := 800, phase := .awaitingSections, mode := .skip }
      par := { base.par with
        toc := some { len := [7620], perm := none, base := 100 }, skipLeft := 7620
        stage := { base := 100, bytes := List.replicate 20 0 } }
      host := { base.host with sources := [{ bytes := List.replicate 3000 0, pos := 0, availEnd := 3000 }] }
      inp := { base.inp with tape := [2599] } })
    (fun t => t.par.skipLeft == 5000 && t.ctl.bitpos == 8 * (100 + 2620) && t.ctl.phase == .awaitingSections) = true := by
  decide +kernel

/-- V-P-6: a reference-only frame raises no event; a displayed one does. -/
theorem test_surfaced : (Control.reset.surfaced = false) ∧ ({ Control.reset with fDisplay := true }).surfaced = true ∧
    ({ Control.reset with fPreview := true }).surfaced = true ∧
    ({ Control.reset with fPreview := true, opt := { Control.reset.opt with skipPreview := true } }).surfaced = false ∧
    ({ Control.reset with fLast := true }).surfaced = true := by decide

/-- V-EX-2: what a fatal error keeps and what it destroys. -/
theorem test_trap : (trapEntry .checksum { base with
      ctl := { base.ctl with phase := .awaitingSections, infoValid := true, frameCount := 2, bitpos := 8000, busy := true }
      par := { base.par with frame := some frameM }
      img := { base.img with refs := [(1, [])] } }).ctl =
    { base.ctl with
      phase := .faulted, err := .checksum, result := some (.err .checksum 0), infoValid := true, frameCount := 2
      bitpos := 8000 } := by decide +kernel

/-- V-ANS-0. -/
theorem test_hist_flat : nextHas (exec (.ansHistFlat .modular 2) (inSection []))
    (fun t => t.ret == .nats [1366, 1365, 1365, 0]) = true := by decide +kernel
theorem test_hist_two : nextHas (exec (.ansHistTwo .modular 2) (with_ (inSection [0x00, 0x04]) fun p =>
      { p with symbolIndex := .table [([], .parsed 0 0)] }))
    (fun t => t.ctl.err == .format) = true := by decide +kernel
/-- 41_ans.md R192, R194: a symbol outside the table, an alphabet larger than the table. -/
theorem test_hist_outside : nextHas (exec (.ansHistSingle .modular 0) (inSection [])) (fun t => t.ctl.err == .format) = true ∧
    nextHas (exec (.ansHistFlat .modular 1) (inSection [])) (fun t => t.ctl.err == .format) = true := by decide +kernel
/-- V-ANS-1. -/
theorem test_hist_single : nextHas (exec (.ansHistSingle .modular 2) (inSection []))
    (fun t => t.ret == .nats [0, 4096, 0, 0]) = true := by decide +kernel
theorem test_hist_complex : nextHas (exec (.ansHistComplex .modular 1) (inSection []))
    (fun t => t.ctl.err == .format) = true := by decide +kernel
/-- 30_encoding.md R110: bits 1 0 select "single symbol". -/
theorem test_hist : nextHas (exec (.ansHist .modular 2) (inSection [0x01]))
    (fun t => t.ret == .nats [0, 4096, 0, 0] && t.par.reader.map Reader.pos == some 2) = true := by decide +kernel
/-- V-ANS-3. -/
theorem test_alias : aliasTable [100, 2000, 1996, 0] 2 =
      { sym := [1, 1, 1, 2], off := [924, 0, 976, 972], cut := [100, 0, 972, 0] } ∧
    aliasTable [820, 819, 819, 819, 819, 0, 0, 0] 3 =
      { sym := [0, 0, 1, 2, 3, 1, 3, 4], off := [0, 308, 307, 307, 307, 204, 102, 307]
        cut := [0, 204, 409, 102, 307, 0, 0, 0] } := by decide +kernel
theorem test_alias_slots : [0, 99, 100, 1023, 1024, 3019, 3020, 4095].map
      (aliasLookup (aliasTable [100, 2000, 1996, 0] 2) 2) =
    [(0, 0), (0, 99), (1, 1024), (1, 1947), (1, 0), (2, 971), (1, 1948), (2, 1995)] := by decide +kernel
theorem test_ans_alias : nextHas (exec (.ansAlias .modular 0 2) (withTables base .modular
      { coder := .ans, codes := [{ las := 2, dist := [1024, 3072, 0, 0], table := none }], htabs := [], ansState := none }))
    (fun t => (t.scope .modular).codes.map Code.table ==
      [some { sym := [0, 1, 1, 1], off := [0, 0, 1024, 2048], cut := [0, 0, 0, 0] }]) = true := by decide +kernel
/-- V-ANS-2, trace A: the initial state, and the read that refills. -/
theorem test_ans_init : nextHas (exec (.ansInit .modular) (inSection [0x00, 0x00, 0x13, 0x00, 0xEF, 0xBE]))
    (fun t => (t.scope .modular).ansState == some 0x130000) = true := by decide +kernel
theorem test_ans_read : nextHas (exec (.ansRead .modular 0)
      (withTables (inSection [0xEF, 0xBE]) .modular (ansScope 2 [1024, 3072, 0, 0] (some 0x13000))))
    (fun t => t.ret == .nat 0 && (t.scope .modular).ansState == some 0x4C00BEEF) = true := by decide +kernel
/-- V-ANS-4: the cumulative map would give symbol 1. -/
theorem test_ans_read_alias : nextHas (exec (.ansRead .modular 0)
      (withTables (inSection []) .modular (ansScope 2 [100, 2000, 1996, 0] (some 0xABC800))))
    (fun t => t.ret == .nat 2 && (t.scope .modular).ansState == some 0x53B1D0) = true := by decide +kernel
/-- V-ANS-5. -/
theorem test_ans_final : nextHas (exec (.ansFinal .modular)
      (withTables base .modular (ansScope 1 [4096, 0] (some 0x130000)))) (fun t => t.ret == .none) = true := by
  decide +kernel
theorem test_ans_final_wrong : nextHas (exec (.ansFinal .modular)
      (withTables base .modular (ansScope 1 [4096, 0] (some 0x130001)))) (fun t => t.ctl.err == .checksum) = true := by
  decide +kernel

/-- V-HUF-5: three symbols in stream order. -/
theorem test_huff_simple : nextHas (exec (.huffSimple .modular 8) (with_ (inSection []) fun p =>
      { p with simpleSymbols := .table [((8, []), .parsed [4, 2, 7] 0)] }))
    (fun t => ((t.scope .modular).htabs.map fun h => h.root.map HuffEntry.value) == [[4, 2, 4, 7, 4, 2, 4, 7]]) = true := by
  decide +kernel
theorem test_huff_simple_repeat : nextHas (exec (.huffSimple .modular 8) (with_ (inSection []) fun p =>
      { p with simpleSymbols := .table [((8, []), .parsed [5, 5] 0)] })) (fun t => t.ctl.err == .format) = true := by
  decide +kernel
/-- R222, R223: two of four symbols are one: Format before the bit that selects the lengths, here missing, is read. Four distinct ones
take it: lengths 1, 2, 3, 3 for a 1. -/
theorem test_huff_simple_selector :
    nextHas (exec (.huffSimple .modular 8) (with_ base fun p =>
        { p with simpleSymbols := .table [((8, []), .parsed [5, 5, 1, 2] 0)] })) (fun t => t.ctl.err == .format) = true ∧
    nextHas (exec (.huffSimple .modular 8) (with_ (inSection [1]) fun p =>
        { p with simpleSymbols := .table [((8, []), .parsed [5, 0, 1, 2] 0)] }))
      (fun t => t.par.reader.map Reader.pos == some 1 && ((t.scope .modular).htabs.map fun h =>
        h.root.map HuffEntry.value) == [[5, 0, 5, 1, 5, 0, 5, 2]]) = true := by decide +kernel
/-- V-HUF-1. -/
theorem test_lengths : lengthsOk [1, 2, 3, 3] = true ∧ lengthsOk [1, 2, 3] = false ∧ lengthsOk [1, 1, 1] = false ∧
    lengthsOk [1, 0, 0, 0] = false ∧ lengthsOk (List.replicate 8 3) = true := by decide +kernel
theorem test_huff_lengths : nextHas (exec (.huffLengths .modular 5 0) (with_ (inSection []) fun p =>
      { p with codeLengths := .table [(((5, 0), []), .parsed [1, 2, 3, 3] 0)] }))
    (fun t => t.ret == .nats [1, 2, 3, 3, 0]) = true := by decide +kernel
/-- V-HUF-2. -/
theorem test_huff_build : buildTable 3 [1, 2, 3, 3] =
    { tableBits := 3, subs := []
      root := [⟨1, 0⟩, ⟨2, 1⟩, ⟨1, 0⟩, ⟨3, 2⟩, ⟨1, 0⟩, ⟨2, 1⟩, ⟨1, 0⟩, ⟨3, 3⟩] } := by decide +kernel
/-- V-HUF-3: bits 1 1 1 through the second level. -/
theorem test_huff_read : nextHas (exec (.huffRead .modular 0) (withTables (inSection [0x07]) .modular
      { coder := .huff, codes := [], htabs := [buildTable 2 [1, 2, 3, 3]], ansState := none }))
    (fun t => t.ret == .nat 3 && t.par.reader.map Reader.pos == some 3) = true := by decide +kernel
/-- Outside a section, at the last two bits of the one byte there is: a code that goes on in the second level. -/
def twoLevel : State := withTables
  { base with
    ctl := { base.ctl with bitpos := 6 }
    par := { base.par with stage := { base := 0, bytes := [0xC0] } }
    inp := { base.inp with tape := [6] } }
  .modular { coder := .huff, codes := [], htabs := [buildTable 2 [1, 2, 3, 3]], ansState := none }

/-- R139, R141: the second level asks for a byte when the root has moved past the staged one, which is kept for the
retry. -/
theorem test_huff_read_abandoned : nextHas (exec (.huffRead .modular 0) twoLevel)
    (fun t => t.ctl.err == .incompleteInput && t.ctl.bitpos == 6 && t.par.stage == { base := 0, bytes := [0xC0] }) =
      true := by decide +kernel
/-- V-HUF-6: a read that would consume a bit past the section's end. -/
theorem test_huff_read_past_end : nextHas (exec (.huffRead .modular 0) (withTables (inSection []) .modular
      { coder := .huff, codes := [], htabs := [buildTable 3 [1, 2, 3, 3]], ansState := none }))
    (fun t => t.ctl.err == .format) = true := by decide +kernel

/-- The frame of the block tests: one group of one block of 8×8. -/
def frame8 : FrameHeader := { frameV with width := 8, groups := [⟨0, 0, 8, 8⟩], lfGroups := [⟨0, 0, 8, 8⟩] }

/-- Its side buffers after the three planes: coefficients, dequantised coefficients, LF values, maps. -/
def side8 : Side :=
  { coeff := [3, 4, 5], deq := [6, 7, 8], lf := [9, 10, 11]
    maps := { transform := 12, first := 13, quant := 14, corrX := 15, corrB := 16 } }

def nats (l : List Nat) : List Sample := l.map .nat
def lfg : LfGlobal := ⟨[], [], [], [], [], [], none⟩

/-- Planes nothing has written, coefficients and dequantised coefficients of zero, LF values of 1, the transform 0 with
quant index 4 at the block (0, 0) and 0 at (1, 0), no colour correlation. -/
def buffers8 : List Buffer :=
  List.replicate 3 (full 8 8 .float []) ++ List.replicate 3 (full 8 8 .int (ints (List.replicate 64 0))) ++
    List.replicate 3 (full 8 8 .float (floats (List.replicate 64 0))) ++ List.replicate 3 (full 1 1 .int (ints [1])) ++
    [full 2 1 .nat (nats [0, 0]), full 2 1 .nat (nats [1, 1]), full 2 1 .nat (nats [4, 0])] ++
    List.replicate 2 (full 1 1 .int (ints [0]))

/-- A block step's surroundings, at the block (0, 0) of group 0. -/
def blocks : State :=
  let s := withBufs (inSection []) buffers8
  { s with
    grp := { s.grp with
      hf := some { group := 0, pass := 0, blk := (0, 0), nzMap := [((0, 2, 1), 8), ((0, 1, 2), 5)], nzLeft := 0
                   scanPos := 0, prevNz := false }
      hfMeta := some side8.maps
      lfGlobal := some lfg
      hfGlobal := some { dequant := [], order := [[({ h := 8, w := 8, channel := 0 }, List.range 64)]] }
      side := some side8
      planes := [0, 1, 2] }
    par := { s.par with frame := some frame8 } }

/-- The values of a buffer's samples. -/
def values (t : State) (h : Nat) : List Sample :=
  match assocGet t.img.bufs h with
  | some b => b.samples.map Prod.snd
  | none => []

/-- V-NZ-1. -/
theorem test_prednz : nextHas (exec (.bPredNz 0 2 2) blocks) (fun t => t.ret == .nat 7) = true := by decide +kernel
theorem test_prednz_origin : nextHas (exec (.bPredNz 0 0 0) blocks) (fun t => t.ret == .nat 32) = true := by
  decide +kernel

/-- With the AC scope's values: the nonzero count, and the first coefficient. -/
def withAc (nz u : Nat) : State :=
  withTables (with_ blocks fun p => { p with
    symbolToValue := .table [((63, []), .parsed 63 0), ((64, []), .parsed 64 0), ((1, []), .parsed 1 0),
      ((9, []), .parsed 9 0), ((0, []), .parsed 0 0)] }) (.ac 0) (valueScope [nz, u])

/-- V-NZ-2 (context `4 + 32 / 2` of R248). -/
theorem test_nz : nextHas (exec (.bNz 0 32 0) (withAc 63 0)) (fun t => t.ret == .nat 63) = true := by decide +kernel
theorem test_nz_capacity : nextHas (exec (.bNz 0 32 0) (withAc 64 0)) (fun t => t.ctl.err == .format) = true := by
  decide +kernel
/-- V-NZ-3: the value 5 is symbol 9 (30_encoding.md R116 maps 9 to -5). -/
theorem test_coeffs : nextHas (exec (.bCoeffs 0 0 1 0) (withAc 1 9))
    (fun t => ((values t 3).take 3) == ints [0, -5, 0] && t.ret == .none) = true := by decide +kernel
theorem test_coeffs_budget : nextHas (exec (.bCoeffs 0 0 0 0) (withAc 0 0))
    (fun t => (t.grp.hf.map HfBlock.nzLeft) == some 0 && t.ret == .none) = true := by decide +kernel
/-- A quant step of zero is Format (43_group_decoder.md R253). -/
theorem test_dequant_zero_step : nextHas (exec (.bDequant 1 0 0) blocks) (fun t => t.ctl.err == .format) = true := by
  decide +kernel
/-- Constants of `Dequant` for transform 0. -/
def plainDequant (p : Params) : Params :=
  { p with
    dequant := .usual, invGlobalScale := .table [([], F32.ofNat 8)]
    adjustBias := .table (((1, 3), F32.ofNat 3) :: (List.range 3).map fun c => ((c, 0), 0))
    channelMul := .table ((List.range 3).map fun c => (c, F32.ofNat 1))
    dequantMatrix := .table ((List.range 3).flatMap fun c => (List.range 64).map fun k => ((0, c, k), F32.ofNat 1))
    correlation := .table [(((0, 0, 0), [], 0), 0x3F000000), (((2, 0, 0), [], 0), 0)] }

/-- 43_group_decoder.md R253 by hand: quant step 4 of scale 8, Y's coefficient 3 in place 1, a factor of 0.5 for X. -/
theorem test_dequant : nextHas (exec (.bDequant 0 0 0) (withBufs (with_ blocks plainDequant) (buffers8.set 4 (full 8 8 .int (ints (0 :: 3 :: List.replicate 62 0))))))
    (fun t => [6, 7, 8].map (fun h => (values t h)[1]?) == [3, 6, 0].map fun n => some (.flt (F32.ofNat n))) = true := by
  decide +kernel
/-- V-XF-1 through B.XFORM: the LF value 1 alone gives a tile of ones. -/
theorem test_xform : nextHas (exec (.bXform 0 0 0) blocks)
    (fun t => [0, 1, 2].all fun h => values t h == List.replicate 64 (.flt 0x3F800000)) = true := by decide +kernel
/-- V-TT-1. -/
theorem test_xform_unknown : nextHas (exec (.bXform 0 0 27) blocks) (fun t => t.ctl.err == .transform) = true := by
  decide +kernel

/-- V-MOD-6: Split, Leaf, Leaf under MAX_TREE_NODES = 3 is a tree; the fields come one symbol per context. -/
theorem test_tree_leaf : nextHas (exec .mTree (with_ (inSection []) fun p =>
      { p with scopeSpec := .table [((.tree, []), .parsed ⟨.huff, [], [], [0, 0, 5, 3, 1, 2].map (oneSymbolTable 0)⟩ 0)] }))
    (fun t => t.mod.tree == some [.leaf { predictor := .gradient, offset := -2, multiplier := 6, ctx := 0 }]) = true := by
  decide +kernel
/-- Every node is a Split on property 1 at 3: the fields come one symbol per context. -/
def splitTree (nodes height : Nat) (f : Params → Params) : State := with_ (inSection []) fun p =>
  f { p with
    maxTreeNodes := some nodes, maxTreeHeight := some height
    scopeSpec := .table [((.tree, []), .parsed ⟨.huff, [], [], [6, 2, 5, 3, 1, 2].map (oneSymbolTable 0)⟩ 0)] }
/-- V-MOD-6's limits, and R283: the second split on a property at the same threshold leaves a child nothing. -/
theorem test_tree_limits :
    nextHas (exec .mTree (splitTree 1 2 id)) (fun t => t.ctl.err == .resourceLimit) = true ∧
    nextHas (exec .mTree (splitTree 3 1 id)) (fun t => t.ctl.err == .format) = true ∧
    nextHas (exec .mTree (splitTree 3 2 id)) (fun t => t.ctl.err == .format) = true := by decide +kernel
/-- V-MOD-4. -/
theorem test_walk : [4, 3, 0].map (fun x => walk [.split 1 3 1 2, .leaf ⟨.left, 0, 1, 0⟩, .leaf ⟨.top, 0, 1, 1⟩] [0, x]) =
    [some ⟨.left, 0, 1, 0⟩, some ⟨.top, 0, 1, 1⟩, some ⟨.top, 0, 1, 1⟩] := by decide +kernel

/-- A channel of width 3 and height 1 whose first sample is 10; residual 3 follows (symbol 6). -/
def pixels : State :=
  { withTables (inSection []) .modular (valueScope [6]) with
    mod := { base.mod with
      image := some { stream := 0, channels := [{ buf := 0, hshift := 0, vshift := 0 }], transforms := [] }
      tree := some [.split 1 3 1 2, .leaf ⟨.left, 0, 1, 0⟩, .leaf ⟨.top, 0, 1, 1⟩]
      wp := some (wpInit { coeffs := [16, 10, 7, 7, 7, 0, 0], weights := [13, 12, 12, 12] } 3)
      cur := (0, 1, 0) }
    img := { base.img with
      bufs := [(0, { width := 3, height := 1, ty := .int, stride := 64, ownership := .owned, samples := [(0, .int 10)] })]
      next := 1 } }

/-- 44_modular.md R287 and R291: west is 10, the others take its value. -/
theorem test_props : nextHas (exec (.mProps 0 1 0) pixels)
    (fun t => match t.ret with
      | .props l => l.take 15 == [0, 0, 0, 1, 10, 10, 10, 10, 10, 10, 0, 0, 0, 0, 0]
      | _ => false) = true := by decide +kernel
theorem test_walk_op : nextHas (exec (.mWalk [0, 4]) pixels) (fun t => t.ret == .leaf ⟨.left, 0, 1, 0⟩) = true := by
  decide +kernel
/-- V-MOD-3, both values of MUL_APPLIES_TO. -/
theorem test_predict : nextHas (exec (.mPredict ⟨.left, 1, 2, 0⟩ []) pixels)
    (fun t => t.ret == .int 24 && grid t 0 == [10, 24]) = true := by decide +kernel
theorem test_predict_residual : nextHas (exec (.mPredict ⟨.left, 1, 2, 0⟩ [])
    (with_ pixels fun p => { p with mulAppliesTo := .residual })) (fun t => t.ret == .int 17) = true := by decide +kernel
/-- 44_modular.md R292 to R295 by hand: every estimate is 80 in the fixed-point scale. -/
theorem test_wp : nextHas (exec (.mWp 1 0) pixels)
    (fun t => t.ret == .pair 80 0 && t.mod.wp.map Wp.est == some [80, 80, 80, 80]) = true := by decide +kernel
/-- R296: the true error is the prediction less the scaled value. -/
theorem test_wp_update : nextHas (exec (.mWpUpdate 1 0 4) pixels)
    (fun t => t.mod.wp.map Wp.errCur == some [0, -32, 0]) = true := by decide +kernel

/-- 44_modular.md R291: a neighbour inside the channel is its sample, whatever the edge convention. -/
theorem test_neighbours : Cfg.neighbours { params with neighbours := .free } (0, 2, 2)
    ⟨some 1, some 2, some 3, some 4, some 5, some 6, some 7⟩ = ⟨1, 2, 3, 4, 5, 6, 7⟩ := by decide +kernel
/-- R294: accumulators of 0 and of 200, and a table that would grow with the error. -/
theorem test_wp_weight : Cfg.wpWeight params 13 [some 0, none, none] = 4 + 13 * 2 ^ 24 ∧
    Cfg.wpWeight params 13 [some 200, some 0, some 0] < Cfg.wpWeight params 13 [some 20, some 0, some 0] ∧
    Cfg.wpWeight { params with wpWeight := .table [((13, [some 0, none, none]), 5), ((13, [some 1, none, none]), 9)] } 13
      [some 1, none, none] = 5 := by decide +kernel

/-- Channels of these buffers. -/
def channels (l : List Buffer) : State :=
  (withBufs base l).setMod fun m => { m with
    image := some { stream := 0, transforms := []
                    channels := (List.range l.length).map fun k => { buf := k, hshift := 0, vshift := 0 } } }

/-- V-PAL-5, which holds V-PAL-1's explicit entries. -/
theorem test_palette : nextHas (exec (.mPalette 0 1 3 2 .left 8)
      (channels [full 3 1 .int (ints [2, 1, 0]), full 3 3 .int (ints [10, 20, 30, 11, 21, 31, 12, 22, 32])]))
    (fun t => [2, 3, 4].map (grid t) == [[30, 50, 60], [31, 52, 63], [32, 54, 66]]) = true := by decide +kernel
/-- V-PAL-2, V-PAL-3. -/
theorem test_cubes :
    ([3, 40, 66, 67, 124, 191].map fun i => (List.range 3).map (paletteValue params 3 8 (fun _ => 0) i)) =
      [[32, 32, 32], [95, 95, 159], [223, 223, 223], [0, 0, 0], [127, 63, 127], [255, 255, 255]] := by decide +kernel
/-- V-SQ-1. -/
theorem test_tendency : ([(10, 12, 20), (20, 12, 10), (5, 9, 7), (30, 20, 10), (10, 20, 30), (12, 12, 19), (14, 19, 19),
    (7, 7, 7)].map fun (e : Int × Int × Int) => tendency e.1 e.2.1 e.2.2) = [-3, 3, 0, 6, -6, -1, 0, 0] := by decide
/-- V-SQ-2, V-SQ-6. -/
theorem test_hsqueeze : nextHas (exec (.mHsqueeze 0 1 4)
    (channels [full 2 1 .int (ints [12, 19]), full 2 1 .int (ints [-3, 2])])) (fun t => grid t 2 == [10, 14, 20, 18]) =
    true := by decide +kernel
theorem test_hsqueeze_shape : nextHas (exec (.mHsqueeze 0 1 5)
    (channels [full 2 1 .int (ints [12, 19]), full 2 1 .int (ints [-3, 2])])) (fun t => t.ctl.err == .transform) = true := by
  decide +kernel
/-- V-SQ-5. -/
theorem test_vsqueeze : nextHas (exec (.mVsqueeze 0 1 3)
    (channels [full 3 2 .int (ints [2, 3, 4, 7, 8, 10]), full 3 1 .int (ints [-2, -2, -2])]))
    (fun t => grid t 2 == [1, 2, 3, 4, 5, 6, 7, 8, 10]) = true := by decide +kernel

/-- A coefficient block whose only nonzero coefficients are the four of the low-frequency corner: 10, 1, 2, 3. -/
def corner : List F32 :=
  (List.range 64).map fun k =>
    if k = 0 then F32.ofNat 10 else if k = 1 then F32.ofNat 1 else if k = 8 then F32.ofNat 2
    else if k = 9 then F32.ofNat 3 else 0

/-- A coefficient view and a sample view. -/
def views (w h : Nat) (l : List F32) : State :=
  withBufs base [full w h .float (floats l), { full w h .float [] with samples := [] }]

/-- The tile in the sample view. -/
def tile (t : State) : List Sample := values t 1

/-- V-XF-1 for a thin transform, and V-XF-4. -/
theorem test_idct : nextHas (exec (.xIdct 16 8 0 1) (views 8 16 (0x40600000 :: List.replicate 127 0)))
    (fun t => tile t == List.replicate 128 (.flt 0x40600000)) = true := by decide +kernel
/-- R331: frequency (1, 0) of a thin transform is stored a column of 16 further on, that of a wide one beside the first. -/
theorem test_layout : (Cfg.coeffLayout params .idct 16 8)[1]? = some 16 ∧ (Cfg.coeffLayout params .idct 8 16)[1]? = some 1 ∧
    Cfg.coeffLayout { params with coeffLayout := .table [((.dct2x2, 1, 2), [1, 0])] } .dct2x2 1 2 = [1, 0] := by
  decide +kernel
theorem test_idct_pair : nextHas (exec (.xIdct 64 8 0 1) (views 8 64 (List.replicate 512 0)))
    (fun t => t.ctl.err == .transform) = true := by decide +kernel
/-- V-XF-2: 16, 6, 8, 10 in the four quadrants. -/
theorem test_dct2x2 : nextHas (exec (.xDct2x2 0 1) (views 8 8 corner))
    (fun t => tile t == (List.range 64).map fun k => .flt (F32.ofNat
      (if k / 8 < 4 then (if k % 8 < 4 then 16 else 6) else (if k % 8 < 4 then 8 else 10)))) = true := by decide +kernel
/-- R346 for the transforms whose other bodies the source leaves open. -/
theorem test_identity : nextHas (exec (.xIdentity 0 1) (views 8 8 corner))
    (fun t => [0, 7, 56, 63].map (fun k => (tile t)[k]?) ==
      [16, 6, 8, 10].map (fun n => some (.flt (F32.ofNat n)))) = true := by decide +kernel
theorem test_dct4x4 : nextHas (exec (.xDct4x4 0 1) (views 8 8 corner))
    (fun t => [0, 7, 56, 63].map (fun k => (tile t)[k]?) ==
      [16, 6, 8, 10].map (fun n => some (.flt (F32.ofNat n)))) = true := by decide +kernel
/-- R341, anchor 5: a residual of 16 at sample 1 of the first sub-block, whose DC is 16. -/
theorem test_identity_residual : nextHas (exec (.xIdentity 0 1) (views 8 8 (corner.set 2 (F32.ofNat 16))))
    (fun t => [0, 1, 9, 7, 56, 63].map (fun k => (tile t)[k]?) ==
      [15, 31, 15, 6, 8, 10].map (fun n => some (.flt (F32.ofNat n)))) = true := by decide +kernel
/-- R340 and R346: variant 2 has its patch at the bottom left, the 4×4 beside it, the 4×8 half above. -/
theorem test_afv : nextHas (exec (.xAfv 2 0 1) (with_ (views 8 8 (corner.set 9 0)) fun p => { p with
      afvDc := .table [((2, 0), (F32.ofNat 1, F32.ofNat 1)), ((2, 1), (F32.ofNat 2, 0)), ((2, 2), (0, F32.ofNat 3))] }))
    (fun t => [0, 7, 32, 35, 36, 63].map (fun k => (tile t)[k]?) ==
      [16, 16, 13, 13, 12, 12].map (fun n => some (.flt (F32.ofNat n)))) = true := by decide +kernel
/-- R344: 10 + 1 left, 10 - 1 right; R345: 10 + 2 above, 10 - 2 below. -/
theorem test_dct8x4 : nextHas (exec (.xDct8x4 0 1) (views 8 8 (F32.ofNat 10 :: F32.ofNat 1 :: List.replicate 62 0)))
    (fun t => [0, 4].map (fun k => (tile t)[k]?) == [11, 9].map (fun n => some (.flt (F32.ofNat n)))) = true := by
  decide +kernel
theorem test_dct4x8 : nextHas (exec (.xDct4x8 0 1)
      (views 8 8 ((F32.ofNat 10 :: List.replicate 7 0) ++ F32.ofNat 2 :: List.replicate 55 0)))
    (fun t => [0, 32].map (fun k => (tile t)[k]?) == [12, 8].map (fun n => some (.flt (F32.ofNat n)))) = true := by
  decide +kernel

/-- An answer of a sample function for a buffer of integers. -/
def any (z : Int) : AnySample := { flt := 0, int := z, nat := 0 }

/-- A pipeline with channel 0 a 2×2 buffer [3, 1, 0, 2] and output buffer 1 of 4×4, and one output plane. -/
def pipeline : State :=
  let s := withBufs (with_ base fun p => { p with
      expectedPlanes := .table [((image, none), [(2, 2)])], defaultFormat := .table [(image, (0, 0))]
      convert := .table ([3, 1, 0, 2].map fun (z : Nat) => ((.int z, 0, ⟨false, 8, 0⟩), (1, z)))
      pixelOffset := .table [((0, 0, 0), 0), ((1, 0, 0), 1)]
      padding := .table ((List.range 4).flatMap fun y => (List.range 4).map fun x => (⟨.named 1, 0, y, x, []⟩, any 7))
      inplaceFn := .table
        [(⟨.named 5, 0, 0, 1, 0, [ints [0, 2]], []⟩, any 4), (⟨.named 5, 0, 1, 1, 0, [ints [0, 2]], []⟩, any 6)]
      inoutFn := .table ([0, 1].flatMap fun y => [0, 1, 2, 3].map fun x => (⟨.named 6, 0, x, y,
        [[if x < 2 then [some (.int 3), none] else [none, some (.int 1)], [none, none]]], []⟩, any (10 * y + x))) })
    [full 2 2 .int (ints [3, 1, 0, 2]), { full 4 4 .int [] with samples := [] }]
  { s with
    par := { s.par with imageHeader := some image, frame := some frameM }
    ctl := { s.ctl with out := some [⟨100, 8, 2, 2⟩] }
    rnd := some { stages := [], chans := [0], next := [(0, 1)], ready := [[0]], rendered := 0, checked := false } }

/-- 46_render_pipeline.md R362: a row segment replaced. -/
theorem test_inplace : nextHas (exec (.rInplace ⟨.named 5, [0]⟩ 1 0 1) pipeline) (fun t => grid t 0 == [3, 1, 4, 6]) = true := by
  decide +kernel
/-- R363: input row 0 of a doubling stage without borders gives output rows 0 and 1. -/
theorem test_inout : nextHas (exec (.rInout ⟨.named 6, [0]⟩ 0 0 1 1 true ⟨0, 0, 1⟩) pipeline)
    (fun t => grid t 1 == [0, 1, 2, 3, 10, 11, 12, 13]) = true := by decide +kernel
/-- R366 and program P1: row 0 of the grid [[3, 1], [0, 2]]. -/
theorem test_save : nextHas (exec (.rSave 0 0 0 0 1) pipeline) (fun t => t.host.outMem == [(100, 3), (101, 1)]) = true := by
  decide +kernel
/-- V-RP-3 at this size: a plane of one row is too small. -/
theorem test_save_planes : nextHas (exec (.rSave 0 0 0 0 1) (pipeline.setCtl fun c => { c with out := some [⟨100, 8, 2, 1⟩] }))
    (fun t => t.ctl.err == .resourceLimit) = true := by decide +kernel
/-- V-RP-1 at a small size: frame row 0 at (-1, 2) of a canvas of 4×4. -/
theorem test_extend : nextHas (exec (.rExtend ⟨.named 1, ⟨-1, 2, 2, 2⟩⟩ 4 4 0) pipeline) (fun t => grid t 1 == [1, 7, 7, 7]) = true := by
  decide +kernel
/-- Channel 0 of 3×2 samples and channel 1 of 2×1, under an Extend stage. -/
def uneven : State :=
  { withBufs (with_ pipeline fun p => { p with
      padding := .table ([0, 1].flatMap fun c => [0, 1, 2].map fun x => (⟨.named 1, c, 1, x, []⟩, any 7)) })
      [full 3 2 .int (ints [1, 2, 3, 4, 5, 6]), full 2 1 .int (ints [8, 9]), full 3 2 .int [], full 3 2 .int []] with
    rnd := some { stages := [], chans := [0, 1], next := [(0, 2), (1, 3)], ready := [[0]], rendered := 0, checked := false } }

/-- R367: frame row 1 of a frame of 2×2: the third column of a wider channel is padding, and so is a row a lower channel
does not have. -/
theorem test_extend_sizes : nextHas (exec (.rExtend ⟨.named 1, ⟨0, 0, 2, 2⟩⟩ 3 2 1) uneven)
    (fun t => grid t 2 == [4, 5, 7] && grid t 3 == [7, 7, 7] && t.rnd.map Render.chans == some [2, 3]) = true := by
  decide +kernel
theorem test_outside : nextHas (exec (.rOutside 2 2 ⟨.named 1, ⟨0, 1, 2, 1⟩⟩) pipeline) (fun t => grid t 0 == [7, 7, 0, 2]) = true := by
  decide +kernel
theorem test_group : nextHas (exec (.rGroup 0) { pipeline with
      par := { pipeline.par with sect := [{ pending (.hf 0 0) 3 0 0 0 [] with state := .decoded }, pending (.hf 0 1) 4 0 0 0 []] } })
    (fun t => t.rnd.map (fun r => (r.ready, r.rendered)) == some ([[1]], 1)) = true := by decide +kernel

/-- R364's edge: of five positions, output 1 of a downsampling stage by four covers 4 to 7, so the mirror of position 6
is position 3; of eight positions it covers no position beyond the edge. -/
theorem test_edge_visible :
    visible 0 2 false 5 1 3 = true ∧ visible 0 2 false 8 1 3 = false ∧ visible 0 2 false 8 1 4 = true := by decide

/-- R371: for row 5 of a canvas of 12 to come out of two stages with a border of one row, the first gives rows 4 to 6; a
second Extend three rows further down saves row 8 and no other. -/
theorem test_outside_rows :
    ((someRows none [12] [[5]] [.inout (.named 8) [0] 0 1 0 0 true, .inout (.named 9) [0] 0 1 0 0 true, .save 0 0]).map
      fun r => (listedRows r.gives [0] 12, r.saves)) = [([4, 5, 6], [[5]]), ([5], [[5]]), ([5], [[5]])] ∧
    ((someRows none [12] [[5]] [.extend (.named 1) ⟨0, 3, 2, 12⟩ 2 20, .save 0 0]).map
      fun r => (listedRows r.gives [0] 20, r.saves)) = [([8], [[5]]), ([8], [[8]])] := by decide

/-- R371: R.OUTSIDE runs two stages with a border and a second Extend after the first one. -/
theorem test_outside_stages : nextHas (exec (.rOutside 1 5 ⟨.named 1, ⟨0, 1, 1, 4⟩⟩)
      (({ withBufs pipeline [full 1 5 .int (ints [7, 1, 2, 3, 4])] with
        rnd := some
          { stages := [.extend (.named 1) ⟨0, 1, 1, 4⟩ 1 5, .inout (.named 8) [0] 0 1 0 0 true,
              .inout (.named 9) [0] 0 1 0 0 true, .extend (.named 1) ⟨0, 2, 1, 5⟩ 1 9, .save 0 0]
            chans := [0], next := [], ready := [[0]], rendered := 0, checked := false } } : State).setCtl
        fun c => { c with out := none }))
    (fun t => t.ret == .none && t.img.bufs.map (fun e => (e.2.width, e.2.height)) == [(1, 9)]) = true := by decide +kernel

/-- R372: a stage that mixes into one colour channel of two does not do; without the option no stage of its function
stays. -/
theorem test_required_stage :
    requireStage StageFn.isSpot (.spot 6) true [0, 1] [.inplace (.spot 5) [0], .inplace (.named 3) [0], .save 0 0] =
      [.inplace (.named 3) [0], .inplace (.spot 6) [0, 1], .save 0 0] ∧
    requireStage StageFn.isSpot (.spot 6) true [0, 1] [.inplace (.spot 5) [0, 1, 2], .save 0 0] =
      [.inplace (.spot 5) [0, 1, 2], .save 0 0] ∧
    requireStage StageFn.isSpot (.spot 6) false [] [.inout (.spot 5) [0] 0 0 0 0 true, .inplace (.spot 7) [0], .save 0 0] =
      [.save 0 0] := by decide

/-- R368, R373: colour management of a channel of integers raises no Transform. -/
theorem test_inplace_cms : nextHas (exec (.rInplace ⟨.cms, [0]⟩ 1 0 1)
      ((with_ pipeline fun p => { p with
        floatOf := .table [(.int 0, 10), (.int 2, 20)], ofFloat := .table [(5, any 50), (6, any 60)]
        cms := .table [(((9, 2, 0), [10, 20]), 5), (((9, 2, 1), [10, 20]), 6)] }).setCtl
        fun c => { c with opt := { c.opt with cms := some 9 } }))
    (fun t => grid t 0 == [3, 1, 50, 60]) = true := by decide +kernel

/-- HOST's transform asked of two samples. -/
def cmsState : State :=
  (with_ (withBufs base [full 2 1 .float (floats [1, 2]), full 2 1 .float (floats [0, 0])]) fun p =>
    { p with cms := .table [(((9, 2, 0), [1, 2]), 5), (((9, 2, 1), [1, 2]), 6)] }).setCtl
    fun c => { c with opt := { c.opt with cms := some 9 } }

/-- 46_render_pipeline.md R373, R374. -/
theorem test_cms : nextHas (exec (.cmsXform 0 1) cmsState) (fun t => tile t == floats [5, 6]) = true := by decide +kernel
theorem test_cms_inplace : nextHas (exec (.cmsXformInplace 0) cmsState)
    (fun t => t.img.bufs.map (fun b => b.2.samples.map Prod.snd) == [floats [5, 6], floats [0, 0]]) = true := by
  decide +kernel

/-- V-IB-1. -/
theorem test_alloc : nextHas (exec (.iAlloc 100 50 .float) base)
    (fun t => t.img.bufs.map (fun e => (e.2.stride, e.2.samples)) == [(448, [])]) = true := by decide +kernel
/-- R391: memory has run out for the first allocation; asked again, it is another question. -/
theorem test_alloc_refused : nextHas (exec (.iAlloc 100 50 .float) (with_ base fun p => { p with allocRefused := some [(0, 0)] }))
    (fun t => t.ctl.err == .resourceLimit && t.img.bufs == [] && nextHas (exec (.iAlloc 100 50 .float) t) fun u =>
      u.ret == .buf 0) = true := by decide +kernel
/-- R132: how many draws the bytes took does not count. -/
theorem test_alloc_chunking : (base.setInp fun i => { i with drawCount := 5 }).outOfMemory = base.outOfMemory := rfl
theorem test_alloc_overflow : nextHas (exec (.iAlloc (2 ^ 30) 1 .float) base) (fun t => t.ctl.err == .resourceLimit) = true := by
  decide +kernel
/-- V-IB-2, V-IB-3, V-IB-4. -/
theorem test_row : nextHas (exec (.iRow 0 1 .read) (withBufs base [full 3 2 .int (ints [1, 2, 3, 4, 5, 6])]))
    (fun t => t.row 1 0 0 3 == some (ints [4, 5, 6])) = true := by decide +kernel
theorem test_row_bounds : exec (.iRow 0 50 .read) (withBufs base [full 100 50 .int []]) = .fault .outOfBounds := by
  rfl
theorem test_rows : nextHas (exec (.iRows 0 [0, 1] .write) (withBufs base [full 3 2 .int (ints [1, 2, 3, 4, 5, 6])]))
    (fun t => t.ret == .bufs [1, 2]) = true := by decide +kernel
theorem test_rows_repeat : exec (.iRows 0 [4, 4] .write) (withBufs base [full 1 6 .int []]) = .fault .viewOverlap := by
  rfl
theorem test_rect : nextHas (exec (.iRect 0 1 0 2 2 .write) (withBufs base [full 3 2 .int (ints [1, 2, 3, 4, 5, 6])]))
    (fun t => t.sample 1 0 0 == some (.int 2) && t.sample 1 1 1 == some (.int 6)) = true := by decide +kernel
theorem test_rect_overlap : exec (.iRect 0 0 0 2 1 .write) (nextState (exec (.iRect 0 1 0 2 2 .write)
    (withBufs base [full 3 2 .int (ints [1, 2, 3, 4, 5, 6])]))) = .fault .viewOverlap := by rfl
theorem test_free : nextHas (exec (.iFree 0) (withBufs base [full 3 2 .int []]))
    (fun t => t.img.bufs.isEmpty && t.img.pool.length == 1) = true := by decide +kernel
theorem test_unwritten : exec (.cmsXform 0 0) (withBufs base [full 2 1 .float [.flt 0]]) = .fault .unwrittenSample := by rfl

/-! ### Witnesses, of what the hypotheses of each obligation are met by: the step, HOST and the ports -/

theorem answers_of {α : Type} [DecidableEq α] {s : State} {f : Bits → Answer α} {v : α} {n : Nat}
    (h : (decide (firstAnswer f s.bitsHere = .parsed v n) && (s.par.reader.isSome ||
      decide (s.ctl.bitpos + n < 2 ^ (s.inp.params.posBits.getD Config.posBits)))) = true) : s.answers f v n := by
  rw [Bool.and_eq_true] at h
  exact ⟨of_decide_eq_true h.1, fits_of h.2⟩

theorem neighbour_of {s : State} {h x y : Nat} {c : Bool} {v : Option Int}
    (hv : (if c then (s.intAt h x y).isSome && decide (v = s.intAt h x y) else decide (v = none)) = true) :
    s.neighbourIs h c x y v := by
  unfold State.neighbourIs
  cases c <;> simp_all

/-- HOST has issued these words. -/
def issued (w : List Byte) : State := base.setHost fun h => { h with issue := w }
/-- These words are at the fetch port. -/
def fetching (w : List Byte) : State := base.setInp fun x => { x with fetch := w }

theorem witness_StepRunsDecodedOperation :
    decode (fetching [0x24]).inp.fetch = .ok .pBuffer ∧
    ((fetching [0xFF]).inp.fetch ≠ [] ∧ decode (fetching [0xFF]).inp.fetch = .error .unknownOpcode) ∧
    ((issued [0x02]).inp.fetch = [] ∧ decode (issued [0x02]).host.issue = .ok .outQuery ∧
      Instr.outQuery.isHostCommand = true) ∧
    (decode (issued [0x10]).host.issue = .ok .srcAvail ∧ Instr.srcAvail.isHostCommand = false) ∧
    ((issued [0x01, 1]).host.issue ≠ [] ∧ decode (issued [0x01, 1]).host.issue = .error .trailing) ∧
    (base.host.issue = [] ∧ (base.setCtl fun c => { c with busy := true }).ctl.busy = true ∧
      select (base.setCtl fun c => { c with busy := true }) = some .pFileHeader) ∧
    (base.inp.fetch = [] ∧ base.host.issue = [] ∧ base.ctl.busy = false) ∧
    Instr.isBufferOp (.iFree 0) = true ∧ Instr.isBufferOp .reset = false := by decide +kernel

theorem witness_EncodeDecodeRoundTrip :
    ((Instr.huffBuild .modular [1, 2, 3, 3]).wellFormed = true ∧ ([0, 0] : List Byte).all (fun b => decide (b = 0)) = true) ∧
    decode [0x01] = .ok .reset := by decide +kernel

theorem witness_StepKeepsInvariant : Inv State.reset ∧ step State.reset = .next State.reset :=
  ⟨⟨rfl, rfl, rfl, rfl, fun h => (nomatch h), rfl⟩, rfl⟩

theorem witness_ResetCommand : base.ctl.busy = false := rfl

/-- A PROCESS after another with the same operands, in the middle of a frame. -/
def midFrame : State :=
  { base with
    ctl := { base.ctl with optValid := true, err := .incompleteInput, phase := .awaitingSections, infoValid := true }
    par := { base.par with frame := some frameM, imageHeader := some image } }

theorem witness_ProcessCommand :
    (midFrame.ctl.busy = false ∧ midFrame.ctl.phase ≠ .finished ∧ midFrame.ctl.phase ≠ .faulted ∧
      midFrame.ctl.optValid = true ∧ midFrame.ctl.opt = base.ctl.opt ∧ midFrame.ctl.src = 0 ∧
      midFrame.par.frame.isSome = true ∧ midFrame.ctl.out.isSome = (none : Option (List Plane)).isSome) ∧
    (trapEntry .format base).ctl.busy = false ∧ (trapEntry .format base).ctl.phase = .faulted := by decide +kernel

theorem witness_OutQueryAndRefusals :
    (midFrame.ctl.busy = false ∧ midFrame.ctl.infoValid = true ∧ midFrame.par.imageHeader = some image) ∧
    (base.ctl.busy = false ∧ base.ctl.infoValid = false) ∧
    (base.setCtl fun c => { c with busy := true }).ctl.busy = true ∧
    ((base.setCtl fun c => { c with phase := .finished }).ctl.busy = false ∧
      (base.setCtl fun c => { c with phase := .finished }).ctl.phase = .finished) ∧
    (midFrame.ctl.phase ≠ .finished ∧ midFrame.ctl.phase ≠ .faulted ∧ midFrame.ctl.optValid = true ∧
      midFrame.ctl.opt ≠ { base.ctl.opt with pixelLimit := 1 }) ∧
    (midFrame.ctl.opt = base.ctl.opt ∧ midFrame.ctl.src ≠ 1) ∧
    (midFrame.ctl.opt = base.ctl.opt ∧ midFrame.ctl.src = 0 ∧ midFrame.par.frame.isSome = true ∧
      midFrame.ctl.out.isSome ≠ (some ([] : List Plane)).isSome) := by decide +kernel

theorem witness_SourceAvailable :
    fed.host.sources[fed.ctl.src]? = some { bytes := [0, 1, 2, 3, 4, 5, 6, 7, 8, 9], pos := 1, availEnd := 4 } := by
  decide +kernel

theorem witness_SourceRead :
    min (min [1, 5].sum fed.available) 1 ≤ 2 ∧ 2 ≤ min [1, 5].sum fed.available ∧
    (fed.setInp fun i => { i with tape := [1] }).inp.tape = (2 - min (min [1, 5].sum fed.available) 1) :: [] := by
  decide +kernel

theorem witness_SourceSkip :
    min (min 2 fed.available) 1 ≤ 2 ∧ 2 ≤ min 2 fed.available ∧
    (fed.setInp fun i => { i with tape := [1] }).inp.tape = (2 - min (min 2 fed.available) 1) :: [] := by decide +kernel

theorem witness_ColorManagement :
    (cmsState.ctl.opt.cms = some 9 ∧ Sys2Proof.Claims.Floats cmsState 0 (full 2 1 .float (floats [1, 2])) [1, 2] ∧
      assocGet cmsState.img.bufs 1 = some (full 2 1 .float (floats [0, 0]))) ∧
    (cmsState.holds .float 0 0 0 2 1 ∧ cmsState.holds .float 1 0 0 2 1) ∧
    (assocGet (withBufs base [full 1 1 .int []]).img.bufs 0 = some (full 1 1 .int []) ∧
      (full 1 1 .int []).ty ≠ .float) ∧
    (cmsState.setCtl fun c => { c with opt := base.ctl.opt }).ctl.opt.cms = none :=
  ⟨⟨rfl, ⟨rfl, rfl, by decide +kernel⟩, rfl⟩, ⟨holds_of (by decide +kernel), holds_of (by decide +kernel)⟩,
    by decide +kernel, rfl⟩

/-! ### Witnesses: the parser -/

/-- A frame with two pending sections, the one stored second first in logical order and full or not. -/
def awaiting (ready : Nat) : State :=
  { midFrame with par := { midFrame.par with
      sect := [pending (.hf 0 0) 3 17 3 3 [1, 2, 3], pending .hfGlobal 2 20 2 ready []] } }

theorem awaiting_least (ready : Nat) : ∀ (j : Nat) (y : Section), (awaiting ready).par.sect[j]? = some y →
    y.state = .pending → 2 < y.logical ∨ (2 = y.logical ∧ 1 ≤ j) := by
  intro j y hj _
  match j with
  | 0 => cases hj; exact .inl (by decide)
  | 1 => cases hj; exact .inr ⟨rfl, Nat.le_refl 1⟩
  | n + 2 => exact nomatch hj

theorem witness_SelectFollowsPhase :
    base.ctl.phase = .needFileHeader ∧
    (base.setCtl fun c => { c with phase := .needColorProfile }).ctl.phase = .needColorProfile ∧
    ((base.setCtl fun c => { c with phase := .needFrameHeaderToc }).ctl.phase = .needFrameHeaderToc ∧
      base.par.frame = none ∧ midFrame.par.frame ≠ none) ∧
    (midFrame.ctl.phase = .awaitingSections ∧
      (midFrame.setCtl fun c => { c with mode := .skip }).ctl.mode = .skip) ∧
    ((awaiting 1).ctl.phase = .awaitingSections ∧ (awaiting 1).ctl.mode = .decode ∧
      (awaiting 1).par.sect[1]? = some (pending .hfGlobal 2 20 2 1 [])) ∧
    (base.setCtl fun c => { c with phase := .frameDone }).ctl.phase = .frameDone ∧
    (base.setCtl fun c => { c with phase := .finished }).ctl.phase = .finished ∧
    (trapEntry .format base).ctl.phase = .faulted := by decide +kernel

/-- With a pixel limit, and header parsers that answer at once; the frame header takes one bit. -/
def headers (limit : Nat) : State :=
  with_ ({ base with
    ctl := { base.ctl with opt := { base.ctl.opt with pixelLimit := limit } }
    par := { base.par with
      imageHeader := some { image with color := .icc [] }, frame := some frameM
      stage := { base := 0, bytes := [0x01] } } }) fun p =>
  { p with
    parseFileHeader := .table [([], .parsed image 0)]
    parseColorProfile := .table [(({ image with color := .icc [] }, []), .parsed [0xC1] 0)]
    parseFrameHeader := .table [(({ image with color := .icc [] }, [true]), .parsed frameM 1)]
    parseToc := .table [((frameM, []), .parsed { len := [4], perm := none } 0)] }

/-- Header functions that reject: whatever kind they name, it is Format of a header; of a profile or a TOC it is the kind
of a nested error, which Transform is not (40_parser.md R143). -/
def badHeader : State := with_ (headers 4) fun p =>
  { p with
    parseFrameHeader := .table [(({ image with color := .icc [] }, []), .malformed .checksum)]
    parseColorProfile := .table [(({ image with color := .icc [] }, []), .malformed .checksum)]
    parseToc := .table [((frameM, []), .malformed .transform)] }

theorem witness_FileHeaderAndProfile :
    (firstAnswer (Cfg.parseFileHeader (headers 4).inp.params) (headers 4).bitsHere = .parsed image 0 ∧
      image.width * image.height ≤ (headers 4).ctl.opt.pixelLimit ∧
      (headers 4).ctl.bitpos + 0 < 2 ^ ((headers 4).inp.params.posBits.getD Config.posBits)) ∧
    (headers 3).ctl.opt.pixelLimit < image.width * image.height ∧
    firstAnswer (Cfg.parseFileHeader (with_ base fun p =>
      { p with parseFileHeader := .table [([], .malformed .format)] }).inp.params) base.bitsHere = .malformed .format ∧
    (midFrame.par.imageHeader = some image ∧ image.color = .simple []) ∧
    ((headers 4).par.imageHeader = some { image with color := .icc [] } ∧
      firstAnswer (Cfg.parseColorProfile (headers 4).inp.params { image with color := .icc [] }) (headers 4).bitsHere =
        .parsed [0xC1] 0) ∧
    badHeader.par.imageHeader = some { image with color := .icc [] } ∧
    firstAnswer (Cfg.parseColorProfile badHeader.inp.params { image with color := .icc [] }) badHeader.bitsHere =
      .malformed .checksum := by decide +kernel

theorem witness_FrameHeaderStep :
    ((headers 4).par.imageHeader = some { image with color := .icc [] } ∧
      firstAnswer (Cfg.parseFrameHeader (headers 4).inp.params { image with color := .icc [] }) (headers 4).bitsHere =
        .parsed frameM 1 ∧
      frameM.width * frameM.height ≤ (headers 4).ctl.opt.pixelLimit ∧
      (headers 4).ctl.bitpos + 1 < 2 ^ ((headers 4).inp.params.posBits.getD Config.posBits)) ∧
    (headers 3).ctl.opt.pixelLimit < frameM.width * frameM.height ∧
    (badHeader.par.imageHeader = some { image with color := .icc [] } ∧
      firstAnswer (Cfg.parseFrameHeader badHeader.inp.params { image with color := .icc [] }) badHeader.bitsHere =
        .malformed .format) := by decide +kernel

theorem witness_TocStep :
    ((headers 4).par.frame = some frameM ∧
      firstAnswer (Cfg.parseToc (headers 4).inp.params frameM) (headers 4).bitsHere =
        .parsed { len := [4], perm := none } 0 ∧
      [4].length = numSections frameM ∧ permOk none 1 = true ∧
      ((headers 4).ctl.bitpos + 0 + 7) / 8 * 8 < 2 ^ ((headers 4).inp.params.posBits.getD Config.posBits)) ∧
    (firstAnswer (Cfg.parseToc (with_ (headers 4) fun p => { p with
        parseToc := .table [((frameM, []), .parsed { len := [4, 1], perm := none } 0)] }).inp.params frameM)
        (headers 4).bitsHere = .parsed { len := [4, 1], perm := none } 0 ∧ [4, 1].length ≠ numSections frameM) ∧
    (badHeader.par.frame = some frameM ∧
      firstAnswer (Cfg.parseToc badHeader.inp.params frameM) badHeader.bitsHere = .malformed .format) ∧
    (frameM.groups.length = 1 ∧ frameM.numPasses = 1) ∧
    ¬ (frameV.groups.length = 1 ∧ frameV.numPasses = 1) ∧ 0 < frameV.lfGroups.length ∧ 1 < frameV.groups.length := by
  decide +kernel

theorem witness_FillStage :
    (fed.host.sources[fed.ctl.src]? = some { bytes := [0, 1, 2, 3, 4, 5, 6, 7, 8, 9], pos := 1, availEnd := 4 } ∧
      ({ bytes := [0, 1, 2, 3, 4, 5, 6, 7, 8, 9], pos := 1, availEnd := 4 } : Source).ok = true ∧
      3 ≤ (fed.par.stage.dropBelow (fed.ctl.bitpos / 8)).have (fed.ctl.bitpos / 8) + fed.available) ∧
    (base.par.stage.dropBelow (base.ctl.bitpos / 8)).have (base.ctl.bitpos / 8) < 1 ∧ base.available = 0 := by
  decide +kernel

theorem awaiting_first : ∀ (j : Nat) (y : Section), j < 1 → (awaiting 1).par.sect[j]? = some y → y.ready = y.total := by
  intro j y hj h
  match j with
  | 0 => cases h; rfl
  | n + 1 => omega

theorem witness_BufferStep :
    (({ awaiting 1 with par := { (awaiting 1).par with stage := { base := 21, bytes := [9, 8] } } } : State).par.sect[1]? =
        some (pending .hfGlobal 2 20 2 1 []) ∧ (pending .hfGlobal 2 20 2 1 []).ready ≠ (pending .hfGlobal 2 20 2 1 []).total ∧
      0 < ({ base := 21, bytes := [9, 8] } : Stage).have (20 + 1) ∧
      8 * (20 + 1 + ((({ base := 21, bytes := [9, 8] } : Stage).bytesFrom (20 + 1)).take (2 - 1)).length) < 2 ^ 40) ∧
    base.par.sect = [] ∧ ((awaiting 2).par.sect ≠ [] ∧
      (awaiting 2).par.sect.all (fun x => decide (x.ready = x.total)) = true) ∧
    ((awaiting 1).par.stage.have (20 + 1) = 0 ∧
      ((awaiting 1).setCtl fun c => { c with bitpos := 8 * (20 + 1) }).ctl.bitpos = 8 * (20 + 1) ∧
      (awaiting 1).available = 0) := by decide +kernel

theorem witness_DispatchSection_modular :
    Sys2Proof.Claims.Runnable (awaiting 2) 1 (pending .hfGlobal 2 20 2 2 []) ∧
    (awaiting 2).par.frame = some frameM ∧ frameM.encoding = .modular :=
  ⟨⟨rfl, rfl, awaiting_least 2, rfl⟩, rfl, rfl⟩

/-! ### Witnesses: sections dispatched, the end of a frame, errors -/

/-- No channels, no transforms, no tree. -/
def emptySpec : ModSpec := { tree := .absent, channels := [], transforms := [], wp := ⟨[], []⟩, place := [] }
/-- A Huffman scope without codes. -/
def emptyCoder : ScopeSpec := { coder := .huff, las := [], alphabets := [], preset := [] }

/-- One section of the kind in a frame, with a section syntax that answers at once. -/
def oneSection (k : SecKind) (fh : FrameHeader) (f : Params → Params) : State :=
  with_ { base with par := { base.par with
      imageHeader := some image, frame := some fh, sect := [pending k 0 10 0 0 []] } }
    fun p => f { p with
      lfMember := .table ([Encoding.varDct, .modular].flatMap fun e =>
        [LfMember.patches, .splines, .noise, .quantizer, .blockCtx, .colorCorr].map fun m => (((e, m), []), .parsed [] 0))
      sharedTreeFlag := .table [([], .parsed false 0)]
      modularSpec := .table ([.global, .lf 0, .hf 0 0].flatMap fun m =>
        [frameM, frame8].map fun f => ((⟨m, some image, some f⟩, []), .parsed emptySpec 0))
      scopeSpec := .table ([.modular, .ac 0].map fun sc => ((sc, []), .parsed emptyCoder 0))
      framePlanes := .table [((image, frameM), [(2, 2, .int)]), ((image, frame8), [])]
      buildPipeline := .table ([frameM, frame8].map fun f => (⟨image, f, lfg, base.ctl.opt⟩, []))
      expectedPlanes := .table [((image, none), [(2, 2)])]
      dequantMatrices := .table [([], .parsed [] 0)], scanOrders := .table [((0, []), .parsed [] 0)] }

theorem oneSection_runnable (k : SecKind) (fh : FrameHeader) (f : Params → Params) :
    Sys2Proof.Claims.Runnable (oneSection k fh f) 0 (pending k 0 10 0 0 []) := by
  refine ⟨rfl, rfl, ?_, rfl⟩
  intro j y hj _
  match j with
  | 0 => cases hj; exact .inr ⟨rfl, Nat.le_refl 0⟩
  | n + 1 => exact nomatch hj

theorem witness_DispatchSection_next :
    Sys2Proof.Claims.Runnable (oneSection (.lf 0) frameM id) 0 (pending (.lf 0) 0 10 0 0 []) ∧
    exec (.sLfGroup 0 0) (oneSection (.lf 0) frameM id) =
      .next (nextState (exec (.sLfGroup 0 0) (oneSection (.lf 0) frameM id))) ∧
    (nextState (exec (.sLfGroup 0 0) (oneSection (.lf 0) frameM id))).ret = .none :=
  ⟨oneSection_runnable _ _ _, next_of (by decide +kernel), by decide +kernel⟩

/-- The state an operation that returns nothing ends in. -/
def ran (op : Op Unit) (s : State) : State := endState (op s)

theorem ran_of {op : Op Unit} {s : State} (h : okIs (op s) () = true) : op s = .ok () (ran op s) := ok_of h

/-- An Hf section of a frame with a plane that is there, a pipeline that saves it, and these output planes. -/
def saving (out : Option (List Plane)) : State :=
  let s := withBufs (oneSection (.hf 0 0) frameM id) [full 2 2 .int (ints [1, 2, 3, 4])]
  { s with
    grp := { s.grp with planes := [0] }, ctl := { s.ctl with out := out }
    rnd := some { stages := [.save 0 0], chans := [], next := [], ready := [[0]], rendered := 0, checked := false } }

/-- `saving` after its section's decode, the section marked. -/
def saved (out : Option (List Plane)) : State :=
  Sys2Proof.Claims.markDecoded (nextState (exec (.sHfGroup 0 0 0) (saving out))) 0 (pending (.hf 0 0) 0 10 0 0 [])

theorem witness_DispatchSection_group :
    (saving none).par.sect = [pending (.hf 0 0) 0 10 0 0 []] ∧ (saving none).par.frame = some frameM ∧
    ∀ out, (out = none ∨ out = some []) →
      (exec (.sHfGroup 0 0 0) (saving out) = .next (nextState (exec (.sHfGroup 0 0 0) (saving out))) ∧
        (nextState (exec (.sHfGroup 0 0 0) (saving out))).ret = .none) ∧
      exec (.rGroup 0) (saved out) = .next (nextState (exec (.rGroup 0) (saved out))) ∧
      ((nextState (exec (.rGroup 0) (saved out))).ret = .none ↔ out = none) := by
  refine ⟨rfl, rfl, ?_⟩
  rintro out (rfl | rfl)
  · exact ⟨⟨next_of (by decide +kernel), by decide +kernel⟩, next_of (by decide +kernel), by decide +kernel⟩
  · exact ⟨⟨next_of (by decide +kernel), by decide +kernel⟩, next_of (by decide +kernel), by decide +kernel⟩

/-- The combined section of a MODULAR frame, at its first bit, and after its parts. -/
def combined0 : State := Sys2Proof.Claims.opened (oneSection .combined frameM id) (pending .combined 0 10 0 0 [])
def combined1 : State := ran lfGlobalBody combined0
def combined2 : State := ran (each (List.range 1) lfGroupBody) combined1
def combined3 : State := ran (hfGroupBody 0 0) combined2

theorem witness_DispatchSection_combined :
    Sys2Proof.Claims.Runnable (oneSection .combined frameM id) 0 (pending .combined 0 10 0 0 []) ∧
    Sys2Proof.Claims.CombinedRuns frameM combined0 combined3 ∧ (Sys2Proof.Claims.closed combined3).ret = .none ∧
    exec (.rGroup 0) (Sys2Proof.Claims.markDecoded (Sys2Proof.Claims.closed combined3) 0 (pending .combined 0 10 0 0 [])) =
      .next (nextState (exec (.rGroup 0)
        (Sys2Proof.Claims.markDecoded (Sys2Proof.Claims.closed combined3) 0 (pending .combined 0 10 0 0 [])))) :=
  ⟨oneSection_runnable _ _ _,
    ⟨combined1, combined2, combined2, ran_of (by decide +kernel), ran_of (by decide +kernel), rfl,
      ran_of (by decide +kernel)⟩, rfl, next_of (by decide +kernel)⟩

/-- A Modular specification that is malformed. -/
def badSpec (p : Params) : Params := { p with modularSpec := .table [((⟨.lf 0, some image, some frameM⟩, []), .malformed .format)] }

theorem witness_DispatchSection_trap :
    Sys2Proof.Claims.Runnable (oneSection (.lf 0) frameM badSpec) 0 (pending (.lf 0) 0 10 0 0 []) ∧
    exec (.sLfGroup 0 0) (oneSection (.lf 0) frameM badSpec) =
      .next (nextState (exec (.sLfGroup 0 0) (oneSection (.lf 0) frameM badSpec))) ∧
    (nextState (exec (.sLfGroup 0 0) (oneSection (.lf 0) frameM badSpec))).ret ≠ .none :=
  ⟨oneSection_runnable _ _ _, next_of (by decide +kernel), by decide +kernel⟩

/-- SKIP mode with 6 bytes to skip of which 2 are staged, and a source of `n` bytes. -/
def skipping (n left : Nat) : State :=
  { base with
    ctl := { base.ctl with bitpos := 800, phase := .awaitingSections, mode := .skip }
    par := { base.par with
      toc := some { len := [6], perm := none, base := 100 }, skipLeft := left, stage := { base := 100, bytes := [1, 2] } }
    host := { base.host with sources := [{ bytes := List.replicate n 0, pos := 0, availEnd := n }] } }

theorem witness_SkipStep :
    (skipping 0 2).par.toc = some { len := [6], perm := none, base := 100 } ∧
    (skipping 0 2).par.skipLeft ≤ (skipping 0 2).par.stage.have ((skipping 0 2).ctl.bitpos / 8) ∧
    8 * (100 + [6].sum) < 2 ^ ((skipping 0 2).inp.params.posBits.getD Config.posBits) ∧
    ((skipping 9 6).par.skipLeft = (skipping 9 6).par.stage.have ((skipping 9 6).ctl.bitpos / 8) + 4 ∧
      0 < (skipping 9 6).available) ∧
    ((skipping 0 6).par.skipLeft = (skipping 0 6).par.stage.have ((skipping 0 6).ctl.bitpos / 8) + 4 ∧
      (skipping 0 6).available = 0) := by decide +kernel

/-- `midFrame` with a pipeline without stages that has rendered `n` passes. -/
def rendering (n : Nat) : State :=
  { midFrame with rnd := some { stages := [], chans := [], next := [], ready := [[1]], rendered := n, checked := false } }

theorem witness_FrameDoneStep :
    (skipping 0 0).ctl.mode = .skip ∧ (midFrame.ctl.mode = .decode ∧ midFrame.rnd = none) ∧
    (midFrame.par.frame = some frameM ∧ frameM.numPasses ≤ 1 ∧ 0 < frameM.numPasses ∧
      (rendering 1).rnd = some { stages := [], chans := [], next := [], ready := [[1]], rendered := 1, checked := false }) ∧
    (0 < frameM.numPasses ∧ renderFrame (rendering 0) = .ok () (ran renderFrame (rendering 0)) ∧
      (ran renderFrame (rendering 0)).rnd =
        some { stages := [], chans := [], next := [], ready := [[1]], rendered := 0, checked := false } ∧
      (ran renderFrame (rendering 0)).par.frame = some frameM) :=
  ⟨rfl, ⟨rfl, rfl⟩, ⟨rfl, by decide, by decide, rfl⟩, by decide, ran_of (by decide +kernel), by decide +kernel, by decide +kernel⟩

/-- A file header that is malformed: Format, whatever kind its function names (30_encoding.md R120). -/
def badFile : State := with_ midFrame fun p => { p with parseFileHeader := .table [([], .malformed .transform)] }

theorem witness_FatalErrorEntry :
    (raise .checksum : Op OpValue) base = .error (.fatal .checksum) base ∧
    (exec .pFileHeader badFile = .next (nextState (exec .pFileHeader badFile)) ∧
      (nextState (exec .pFileHeader badFile)).ret = .result (.err Kind.format.toErr 0)) ∧
    firstAnswer (Cfg.parseFileHeader badFile.inp.params) badFile.bitsHere = .malformed .format :=
  ⟨rfl, ⟨next_of (by decide +kernel), by decide +kernel⟩, by decide +kernel⟩

theorem witness_AbandonedStepKeepsState :
    nextHas (exec .pFileHeader (with_ { base with inp := { base.inp with tape := [6] } }
      fun p => { p with parseFileHeader := .table [] })) (fun t => t.ret == .result (.err .incompleteInput 7)) = true ∧
    nextHas (exec (.huffRead .modular 0) twoLevel) (fun t => t.ret == .result (.err .incompleteInput 7)) = true := by
  decide +kernel

theorem witness_ParsersArePrefixStable :
    firstAnswer Usual.u8 [true, true, false, false, true] = .parsed 3 5 ∧
    firstAnswer (fun _ : Bits => (Answer.malformed .format : Answer Nat)) [] ≠ .needMore := by decide +kernel

/-! ### Witnesses: section decodes -/

theorem emptyModular_of {s : State} {place : ModPlace}
    (a : s.answers (Cfg.modularSpec s.inp.params (s.modSite place)) emptySpec 0)
    (b : (s.moved 0).answers (Cfg.scopeSpec s.inp.params .modular) emptyCoder 0) :
    Sys2Proof.Claims.EmptyModular s place emptySpec emptyCoder 0 0 := ⟨a, rfl, rfl, rfl, rfl, b, rfl, rfl, rfl⟩

/-- `oneSection` at the first bit of its section. -/
def inside (k : SecKind) (fh : FrameHeader) (f : Params → Params) : State :=
  Sys2Proof.Claims.opened (oneSection k fh f) (pending k 0 10 0 0 [])

theorem sideData_here (fh : FrameHeader) (h : fh.encoding = .modular ∨ fh.encoding = .varDct) :
    Sys2Proof.Claims.SideData (inside .lfGlobal fh id) lfg 0 := by
  rcases h with h | h <;>
    exact ⟨⟨_, 0, 0, 0, 0, 0, 0, 0, congrArg some h, ⟨rfl, fun h => nomatch h⟩, ⟨rfl, fun h => nomatch h⟩,
      ⟨rfl, fun h => nomatch h⟩, ⟨rfl, fun h => nomatch h⟩, ⟨rfl, fun h => nomatch h⟩, ⟨rfl, fun h => nomatch h⟩,
      ⟨rfl, fun h => nomatch h⟩, rfl⟩, rfl⟩

theorem witness_LfGlobalSection :
    (oneSection .lfGlobal frameM id).par.sect[0]? = some (pending .lfGlobal 0 10 0 0 []) ∧
    (((planeShapes (oneSection .lfGlobal frameM id).inp.params image frameM).zipIdx.all fun e =>
        (oneSection .lfGlobal frameM id).grants ((oneSection .lfGlobal frameM id).img.next + e.2) e.1) = true ∧
      ((planeShapes (oneSection .lfGlobal frame8 id).inp.params image frame8 ++
        sideShapes (oneSection .lfGlobal frame8 id).inp.params frame8).zipIdx.all fun e =>
          (oneSection .lfGlobal frame8 id).grants ((oneSection .lfGlobal frame8 id).img.next + e.2) e.1) = true) ∧
    (Sys2Proof.Claims.SideData (inside .lfGlobal frameM id) lfg 0 ∧
      Sys2Proof.Claims.EmptyModular ((inside .lfGlobal frameM id).moved 0) .global emptySpec emptyCoder 0 0) ∧
    (Sys2Proof.Claims.SideData (inside .lfGlobal frame8 id) lfg 0 ∧
      Sys2Proof.Claims.EmptyModular ((inside .lfGlobal frame8 id).moved 0) .global emptySpec emptyCoder 0 0) ∧
    base.ctl.opt.cms = none :=
  ⟨rfl, by decide +kernel,
    ⟨sideData_here _ (.inl rfl), emptyModular_of ⟨rfl, fun h => nomatch h⟩ ⟨rfl, fun h => nomatch h⟩⟩,
    ⟨sideData_here _ (.inr rfl), emptyModular_of ⟨rfl, fun h => nomatch h⟩ ⟨rfl, fun h => nomatch h⟩⟩, rfl⟩

/-- The options ask for both stages, and the image has a spot-colour and an alpha channel. -/
theorem witness_LfGlobalSection_stages :
    ({ base.ctl.opt with renderSpotColors := true, premultiplyOutput := true }.renderSpotColors = true ∧
      7 ∈ { image with extra := [7, 8] }.extra ∧ Cfg.isSpot { params with isSpot := .table [(7, true)] } 7 = true) ∧
    ({ base.ctl.opt with renderSpotColors := true, premultiplyOutput := true }.premultiplyOutput = true ∧
      8 ∈ { image with extra := [7, 8] }.extra ∧ Cfg.isAlpha { params with isAlpha := .table [(8, true)] } 8 = true) ∧
    ¬ (base.ctl.opt.renderSpotColors = true ∧ ∃ k ∈ image.extra, Cfg.isSpot params k = true) ∧
    ¬ (base.ctl.opt.premultiplyOutput = true ∧ ∃ k ∈ image.extra, Cfg.isAlpha params k = true) :=
  ⟨by decide +kernel, by decide +kernel, fun h => by simp [image] at h, fun h => by simp [image] at h⟩

/-- Maps of an LF group: an LF value at block (x, 0), these blocks, one tile. -/
def maps8 (x : Nat) (l : List BlockMeta) : LfMaps :=
  { lf := [((0, x, 0), 1)], blocks := l, corr := [{ tx := 0, ty := 0, x := 5, b := 6 }] }

/-- The LF group of `frame8` with these maps, and the frame's buffers with no map written but that of first blocks. -/
def lfOver (cover : List Nat) (m : LfMaps) : State :=
  let s := withBufs (oneSection (.lf 0) frame8 fun p =>
      { p with lfMaps := .table [({ group := 0, frame := frame8, channels := [] }, m)] })
    ((buffers8.map fun b => { b with samples := [] }).set 13 (full 2 1 .nat (nats cover)))
  { s with grp := { s.grp with side := some side8, planes := [0, 1, 2] } }

/-- No position is covered. -/
def lfState (m : LfMaps) : State := lfOver [0, 0] m

def block8 (t : Nat) : BlockMeta := { bx := 0, byy := 0, t := t, q := 4 }

theorem lfState_here (m : LfMaps) :
    (lfState m).par.sect[0]? = some (pending (.lf 0) 0 10 0 0 []) ∧ (lfState m).par.frame = some frame8 ∧
    Sys2Proof.Claims.EmptyModular (Sys2Proof.Claims.opened (lfState m) (pending (.lf 0) 0 10 0 0 [])) (.lf 0)
      emptySpec emptyCoder 0 0 ∧
    m = Cfg.lfMaps (lfState m).inp.params { group := 0, frame := frame8, channels := [] } ∧
    (lfState m).grp.side = some side8 :=
  ⟨rfl, rfl, emptyModular_of ⟨rfl, fun h => nomatch h⟩ ⟨rfl, fun h => nomatch h⟩, rfl, rfl⟩

theorem blocksFit_here (x : Nat) (l : List BlockMeta) (hl : l = [] ∨ l = [block8 0]) (hx : x = 0 ∨ x = 1) :
    Sys2Proof.Claims.BlocksFit (lfState (maps8 x l)) params frame8 ⟨0, 0, 8, 8⟩ side8.maps l := by
  refine ⟨?_, ?_, ?_, ?_, ⟨⟨_, rfl, rfl⟩, ⟨_, rfl, rfl⟩, ⟨_, rfl, rfl⟩⟩, ?_⟩ <;>
    rcases hl with rfl | rfl <;> rcases hx with rfl | rfl <;> decide +kernel

theorem valuesFit_here (l : List BlockMeta) :
    Sys2Proof.Claims.ValuesFit (lfState (maps8 0 l)) params ⟨0, 0, 8, 8⟩ side8 (maps8 0 l) :=
  ⟨rfl, fun e he => by simp only [maps8, List.mem_singleton] at he; subst he; exact ⟨9, rfl, rfl⟩,
    fun e he => by simp only [maps8, List.mem_singleton] at he; subst he; exact ⟨rfl, rfl⟩⟩

theorem witness_GroupSections :
    (Sys2Proof.Claims.EmptyModular (inside (.lf 0) frameM id) (.lf 0) emptySpec emptyCoder 0 0 ∧
      Sys2Proof.Claims.EmptyModular (inside (.hf 0 0) frameM id) (.hf 0 0) emptySpec emptyCoder 0 0) ∧
    (frame8.encoding = .varDct ∧ frame8.lfGroups[0]? = some ⟨0, 0, 8, 8⟩ ∧
      xtype params 27 = none ∧ (xtype params 0).isSome = true ∧ (xtype params 4).isSome = true) ∧
    (Sys2Proof.Claims.BlocksFit (lfState (maps8 0 [block8 0])) params frame8 ⟨0, 0, 8, 8⟩ side8.maps [block8 0] ∧
      Sys2Proof.Claims.ValuesFit (lfState (maps8 0 [block8 0])) params ⟨0, 0, 8, 8⟩ side8 (maps8 0 [block8 0])) ∧
    insideLfGroup params ⟨0, 0, 8, 8⟩ (maps8 1 []) = false ∧
    ((maps8 0 [block8 4]).blocks = [] ++ block8 4 :: [] ∧ insideGroup params frame8 ⟨0, 0, 8, 8⟩ (block8 4) = false) ∧
    ((maps8 0 [block8 0, block8 0]).blocks = [block8 0] ++ block8 0 :: [] ∧
      coveredPositions params 0 0 0 = (0, 0) :: [] ∧
      (0, 0) ∈ (Sys2Proof.Claims.coveredCells params [block8 0]).map Prod.fst) ∧
    (lfOver [2, 0] (maps8 0 [block8 0])).sample side8.maps.first 0 0 = some (.nat 2) :=
  ⟨⟨emptyModular_of ⟨rfl, fun h => nomatch h⟩ ⟨rfl, fun h => nomatch h⟩,
      emptyModular_of ⟨rfl, fun h => nomatch h⟩ ⟨rfl, fun h => nomatch h⟩⟩, by decide +kernel,
    ⟨blocksFit_here 0 _ (.inr rfl) (.inl rfl), valuesFit_here _⟩, by decide +kernel, by decide +kernel, by decide +kernel,
    by decide +kernel⟩

/-- The Hf section of `frame8` over these buffers: every count of nonzeros is 0. -/
def hfState (l : List Buffer) : State :=
  let s := withTables (withBufs (oneSection (.hf 0 0) frame8 plainDequant) l) (.ac 0) (valueScope [0])
  { s with
    par := { s.par with sect := [pending (.hf 0 0) 0 10 0 0 []] }
    grp := { blocks.grp with hf := none } }

/-- S.HFGROUP's state after the scope's start. -/
def group1 (l : List Buffer) : State :=
  ran (scopeStart (.ac 0)) (Sys2Proof.Claims.groupStarted
    (Sys2Proof.Claims.opened (hfState l) (pending (.hf 0 0) 0 10 0 0 [])) 0 0)

theorem groupRect_of {s : State} {hf : HfBlock} {fh : FrameHeader} {r : Rect} (a : s.grp.hf = some hf)
    (b : s.par.frame = some fh) (c : fh.groups[hf.group]? = some r) : groupRect s = .ok r s := by
  simp [groupRect, getHf, getFrame, getState, present, bind, EStateM.bind, pure, EStateM.pure, a, b, c]

/-- The state after one channel of the block. -/
def afterChannel (c : Nat) (s : State) : State :=
  ran (decodeCoeffs c 0 0 0) (endState (decodeNz c 32 0 (endState (predNz c 0 0 s))))

theorem channel_runs {c : Nat} {rest : List Nat} {s v : State}
    (h : (okIs (predNz c 0 0 s) 32 && okIs (decodeNz c 32 0 (endState (predNz c 0 0 s))) 0 &&
      okIs (decodeCoeffs c 0 0 0 (endState (decodeNz c 32 0 (endState (predNz c 0 0 s))))) ()) = true)
    (hr : Sys2Proof.Claims.ChannelsRun 0 0 0 0 rest (afterChannel c s) v) :
    Sys2Proof.Claims.ChannelsRun 0 0 0 0 (c :: rest) s v := by
  simp only [Bool.and_eq_true] at h
  exact .channel (ok_of h.1.1) (ok_of h.1.2) (ran_of h.2) hr

/-- S.HFGROUP's states after the block's channels, its dequantisation and its transform. -/
def group2 : State := afterChannel 2 (afterChannel 0 (afterChannel 1 (group1 buffers8)))
def group3 : State := ran (dequantBlock 0 0 0) group2
def group4 : State := ran (xformBlock 0 0 0) group3

/-- The HF block state at the start of a group. -/
def started : HfBlock := { group := 0, pass := 0, blk := (0, 0), nzMap := [], nzLeft := 0, scanPos := 0, prevNz := false }

theorem oneBlock_runs {r : Rect} {hm : HfMeta} {s u v w : State} (hg : groupRect s = .ok r s)
    (hh : s.grp.hfMeta = some hm)
    (h1 : s.sample hm.first (framePos r (0, 0)).1 (framePos r (0, 0)).2 = some (.nat 1))
    (h2 : s.sample hm.transform (framePos r (0, 0)).1 (framePos r (0, 0)).2 = some (.nat 0))
    (hc : Cfg.channelOrder s.inp.params = [1, 0, 2])
    (h3 : Sys2Proof.Claims.ChannelsRun 0 0 0 0 [1, 0, 2] s u) (h4 : dequantBlock 0 0 0 u = .ok () v)
    (h5 : xformBlock 0 0 0 v = .ok () w) : Sys2Proof.Claims.BlocksRun 0 r [(0, 0)] s w :=
  .first (b := (0, 0)) hg hh h1 h2 (hc ▸ h3) h4 h5 .done

theorem group1_rect : groupRect (group1 buffers8) = .ok ⟨0, 0, 8, 8⟩ (group1 buffers8) :=
  groupRect_of (hf := started) (fh := frame8) (by decide +kernel) (by decide +kernel) (by decide)

theorem group2_runs : Sys2Proof.Claims.ChannelsRun 0 0 0 0 [1, 0, 2] (group1 buffers8) group2 :=
  channel_runs (by decide +kernel) (channel_runs (by decide +kernel) (channel_runs (by decide +kernel) .done))

theorem group3_runs : dequantBlock 0 0 0 group2 = .ok () group3 := ran_of (by decide +kernel)

theorem group4_runs : xformBlock 0 0 0 group3 = .ok () group4 := ran_of (by decide +kernel)

theorem witness_GroupSections_hf :
    ((hfState buffers8).par.sect[0]? = some (pending (.hf 0 0) 0 10 0 0 []) ∧
      (hfState buffers8).par.frame = some frame8 ∧ frame8.groups[0]? = some ⟨0, 0, 8, 8⟩ ∧
      Sys2Proof.Claims.groupBlocks ⟨0, 0, 8, 8⟩ = [(0, 0)]) ∧
    scopeStart (.ac 0) (Sys2Proof.Claims.groupStarted
      (Sys2Proof.Claims.opened (hfState buffers8) (pending (.hf 0 0) 0 10 0 0 [])) 0 0) = .ok () (group1 buffers8) ∧
    Sys2Proof.Claims.BlocksRun 0 ⟨0, 0, 8, 8⟩ [(0, 0)] (group1 buffers8) group4 ∧
    scopeFinal (.ac 0) group4 = .ok () (ran (scopeFinal (.ac 0)) group4) :=
  ⟨⟨rfl, rfl, rfl, rfl⟩, ran_of (by decide +kernel),
    oneBlock_runs (hm := side8.maps) group1_rect (by decide +kernel) (by decide +kernel) (by decide +kernel)
      (by decide +kernel) group2_runs group3_runs group4_runs, ran_of (by decide +kernel)⟩

/-- A block position that a transform covers whose first block is another. -/
theorem witness_GroupSections_covered :
    Sys2Proof.Claims.BlocksRun 0 ⟨0, 0, 8, 8⟩ [(0, 0)] (group1 (buffers8.set 13 (full 2 1 .nat (nats [2, 1]))))
      (group1 (buffers8.set 13 (full 2 1 .nat (nats [2, 1])))) :=
  .covered (hm := side8.maps) (e := .nat 2)
    (groupRect_of (hf := started) (fh := frame8) (by decide +kernel) (by decide +kernel) (by decide)) (by decide +kernel)
    (by decide +kernel) (by decide) (by decide) .done

/-- A group whose one block position no transform covers. -/
theorem witness_GroupSections_uncovered :
    (group1 (buffers8.set 13 (full 2 1 .nat (nats [0, 1])))).grp.hf = some started ∧
    (group1 (buffers8.set 13 (full 2 1 .nat (nats [0, 1])))).grp.hfMeta = some side8.maps ∧
    (group1 (buffers8.set 13 (full 2 1 .nat (nats [0, 1])))).sample side8.maps.first 0 0 = some (.nat 0) ∧
    framePos ⟨0, 0, 8, 8⟩ (0, 0) = (0, 0) ∧
    Sys2Proof.Claims.groupBlocks ⟨0, 0, 8, 8⟩ = [] ++ (0, 0) :: [] := by decide +kernel

theorem witness_HfGlobalSection :
    ((oneSection .hfGlobal frameV id).par.frame = some frameV ∧ ([] : List ((Nat × Nat) × List F32)).all (matrixOk params) = true ∧
      0 < frameV.numPasses ∧ ([] : List (OrderKey × List Nat)).all orderOk = true) ∧
    (¬ ([((27, 0), [])] : List ((Nat × Nat) × List F32)).all (matrixOk params) = true) ∧
    (¬ ([({ h := 1, w := 2, channel := 0 }, [0, 0])] : List (OrderKey × List Nat)).all orderOk = true) ∧
    (Sys2Proof.Claims.opened (oneSection .hfGlobal frameV id) (pending .hfGlobal 0 10 0 0 [])).answers
      (Cfg.dequantMatrices (oneSection .hfGlobal frameV id).inp.params) [] 0 ∧
    Sys2Proof.Claims.PassRead (oneSection .hfGlobal frameV id) (pending .hfGlobal 0 10 0 0 []) 0 0 0 0 [] emptyCoder :=
  ⟨by decide +kernel, by decide +kernel, by decide +kernel, ⟨rfl, fun h => nomatch h⟩,
    ⟨⟨rfl, fun h => nomatch h⟩, rfl, ⟨rfl, fun h => nomatch h⟩, rfl, rfl⟩⟩

/-- The traps of S.HFGLOBAL are reached. -/
theorem witness_HfGlobalSection_traps :
    (Sys2Proof.Claims.opened (oneSection .hfGlobal frameV fun p =>
      { p with dequantMatrices := .table [([], .parsed [((27, 0), [])] 0)] }) (pending .hfGlobal 0 10 0 0 [])).answers
      (Cfg.dequantMatrices (oneSection .hfGlobal frameV fun p =>
        { p with dequantMatrices := .table [([], .parsed [((27, 0), [])] 0)] }).inp.params) [((27, 0), [])] 0 ∧
    ((Sys2Proof.Claims.opened (oneSection .hfGlobal frameV fun p =>
      { p with scanOrders := .table [((0, []), .parsed [({ h := 1, w := 2, channel := 0 }, [0, 0])] 0)] })
      (pending .hfGlobal 0 10 0 0 [])).moved 0).answers
      (Cfg.scanOrders (oneSection .hfGlobal frameV fun p =>
        { p with scanOrders := .table [((0, []), .parsed [({ h := 1, w := 2, channel := 0 }, [0, 0])] 0)] }).inp.params 0)
      [({ h := 1, w := 2, channel := 0 }, [0, 0])] 0 :=
  ⟨⟨rfl, fun h => nomatch h⟩, ⟨rfl, fun h => nomatch h⟩⟩

/-- Matrices and orders whose entropy-coded part fails its checksum. -/
def badMatrices : State :=
  oneSection .hfGlobal frameV fun p => { p with dequantMatrices := .table [([], .malformed .checksum)] }
def badOrders : State :=
  oneSection .hfGlobal frameV fun p => { p with scanOrders := .table [((0, []), .malformed .checksum)] }

theorem witness_HfGlobalSection_checksum :
    firstAnswer (Cfg.dequantMatrices badMatrices.inp.params)
      (Sys2Proof.Claims.opened badMatrices (pending .hfGlobal 0 10 0 0 [])).bitsHere = .malformed .checksum ∧
    firstAnswer (Cfg.scanOrders badOrders.inp.params 0)
      ((Sys2Proof.Claims.opened badOrders (pending .hfGlobal 0 10 0 0 [])).moved 0).bitsHere = .malformed .checksum ∧
    nextHas (exec (.sHfGlobal 0) badMatrices) (fun t => t.ctl.err == .checksum) = true ∧
    nextHas (exec (.sHfGlobal 0) badOrders) (fun t => t.ctl.err == .checksum) = true := by decide +kernel

theorem witness_SectionsNeverWait : nextHas (exec (.sLfGroup 0 0) (oneSection (.lf 0) frameM id)) (fun _ => true) = true := by
  decide +kernel

/-! ### Witnesses: entropy coders -/

theorem witness_HistogramOperations :
    Sys2Proof.Claims.HistogramHere (inSection []) 2 .single [0, 4096, 0, 0] 0 ∧
    Sys2Proof.Claims.HistogramHere (with_ (inSection [0x01, 0x04]) fun p =>
      { p with symbolIndex := .table [([], .parsed 0 0), ([true], .parsed 1 1)] }) 2 .single [4096, 0, 0, 0] 0 ∧
    Sys2Proof.Claims.HistogramHere (inSection []) 2 .flat [1366, 1365, 1365, 0] 0 ∧
    Sys2Proof.Claims.HistogramHere (inSection []) 2 .complex [100, 2000, 1996, 0] 0 ∧
    (inSection [0x01]).answers (Cfg.ansHistKind params) .single 2 ∧
    firstAnswer (Cfg.complexCounts { params with complexCounts := .table [((1, []), .malformed .checksum)] } 1) [] =
      .malformed .format :=
  ⟨⟨1, ⟨rfl, fun h => nomatch h⟩, by decide, by decide +kernel⟩, ⟨0, ⟨rfl, fun h => nomatch h⟩, by decide, by decide +kernel⟩,
    ⟨3, ⟨rfl, fun h => nomatch h⟩, by decide, by decide, by decide +kernel⟩, ⟨⟨rfl, fun h => nomatch h⟩, rfl, rfl⟩,
    answers_of (by decide +kernel), by decide +kernel⟩

/-- The usual symbol index: bit 0 is symbol 0, bits 1 0 0 0 are symbol 1; then 1024 in 12 bits (V-ANS-0). -/
def twoSymbols : State := with_ (inSection [0x02, 0x80, 0x00]) fun p => { p with symbolIndex := .usual }

theorem witness_HistogramOperations_two : Sys2Proof.Claims.HistogramHere twoSymbols 2 .two [1024, 3072, 0, 0] 17 :=
  ⟨0, 1, 1, 4, 1024, answers_of (by decide +kernel), answers_of (by decide +kernel), by decide, by decide, by decide,
    ⟨by decide +kernel, fun h => nomatch h⟩, by decide +kernel, rfl, by decide +kernel⟩

theorem witness_HistogramSumRule :
    nextHas (exec (.ansHistSingle .modular 2) (inSection [])) (fun t => t.ret == .nats [0, 4096, 0, 0]) = true ∧
    Sys2Proof.Claims.NoHistogramHere (inSection []) 0 .single 0 ∧
    Sys2Proof.Claims.NoHistogramHere (with_ (inSection []) fun p => { p with symbolIndex := .table [([], .parsed 0 0)] }) 0
      .two 0 ∧
    Sys2Proof.Claims.NoHistogramHere twoSymbols 0 .two 5 ∧
    Sys2Proof.Claims.NoHistogramHere (inSection []) 1 .flat 0 ∧
    Sys2Proof.Claims.NoHistogramHere (with_ (inSection []) fun p => { p with alphabetSize := .table [([], .parsed 0 0)] }) 1
      .flat 0 ∧
    Sys2Proof.Claims.NoHistogramHere (inSection []) 1 .complex 0 ∧
    Sys2Proof.Claims.NoHistogramHere (with_ (inSection []) fun p =>
      { p with complexCounts := .table [((1, []), .malformed .checksum)] }) 1 .complex 0 ∧
    (inSection [0x01]).answers (Cfg.ansHistKind params) .single 2 ∧
    Sys2Proof.Claims.NoHistogramHere ((inSection [0x01]).moved 2) 0 .single 0 :=
  ⟨by decide +kernel, .inl ⟨1, answers_of (by decide +kernel), by decide⟩,
    .inl ⟨0, 0, 0, 0, answers_of (by decide +kernel), answers_of (by decide +kernel), rfl, .inr (.inr rfl)⟩,
    .inl ⟨0, 1, 1, 4, answers_of (by decide +kernel), answers_of (by decide +kernel), rfl, .inr (.inl (by decide))⟩,
    .inl ⟨3, answers_of (by decide +kernel), .inr (by decide)⟩, .inl ⟨0, answers_of (by decide +kernel), .inl rfl⟩,
    .inl ⟨[4000, 95], answers_of (by decide +kernel), by decide⟩, .inr ⟨rfl, .format, by decide +kernel⟩,
    answers_of (by decide +kernel), .inl ⟨1, answers_of (by decide +kernel), by decide⟩⟩

/-- Fields that their readers reject: the selector, the alphabet size, the first symbol index, and the second. -/
def noFields : State := with_ (inSection []) fun p =>
  { p with
    ansHistKind := .table [([], .malformed .transform)], alphabetSize := .table [([], .malformed .format)]
    symbolIndex := .table [([], .malformed .format)] }
def secondRejected : State := with_ (inSection [0x01]) fun p =>
  { p with symbolIndex := .table [([true], .parsed 0 1), ([false], .malformed .format)] }

theorem witness_HistogramSumRule_rejects :
    Sys2Proof.Claims.Rejects noFields (Cfg.ansHistKind noFields.inp.params) ∧
    Sys2Proof.Claims.NoHistogramHere noFields 2 .single 0 ∧ Sys2Proof.Claims.NoHistogramHere noFields 2 .two 0 ∧
    Sys2Proof.Claims.NoHistogramHere noFields 2 .flat 0 ∧ Sys2Proof.Claims.NoHistogramHere secondRejected 2 .two 1 ∧
    nextHas (exec (.ansHistTwo .modular 2) secondRejected) (fun t => t.ctl.err == .format) = true :=
  ⟨⟨.format, by decide +kernel⟩, .inr ⟨rfl, .format, by decide +kernel⟩, .inr (.inl ⟨rfl, .format, by decide +kernel⟩),
    .inr ⟨rfl, .format, by decide +kernel⟩,
    .inr (.inr ⟨0, answers_of (by decide +kernel), .format, by decide +kernel⟩), by decide +kernel⟩

theorem witness_AnsTablesAndState :
    (((withTables base .modular (ansScope 2 [1024, 3072, 0, 0] none)).scope .modular).codes[0]? =
        some { las := 2, dist := [1024, 3072, 0, 0], table := some (aliasTable [1024, 3072, 0, 0] 2) } ∧
      [1024, 3072, 0, 0].length = 2 ^ 2 ∧ [1024, 3072, 0, 0].sum = 4096) ∧
    (inSection [0, 0, 0x13, 0]).canRead 32 ∧
    ((withTables base .modular (ansScope 1 [4096, 0] (some 0x130000))).scope .modular).ansState = some 0x130000 :=
  ⟨by decide +kernel, ⟨by decide +kernel, fun h => nomatch h⟩, by decide +kernel⟩

theorem witness_AliasMapIsBijection : [100, 2000, 1996, 0].length = 2 ^ 2 ∧ [100, 2000, 1996, 0].sum = 4096 := by decide

/-- V-ANS-2, trace A: the second read of a state that needs no refill, and the one that does. -/
theorem witness_AnsReadSymbol :
    aliasLookup (aliasTable [1024, 3072, 0, 0] 2) 2 ((0x130000 : Word).toNat % 4096) = (0, 0) ∧
    2 ^ 16 ≤ 1024 * ((0x130000 : Word).toNat / 4096) + 0 ∧
    aliasLookup (aliasTable [1024, 3072, 0, 0] 2) 2 ((0x13000 : Word).toNat % 4096) = (0, 0) ∧
    1024 * ((0x13000 : Word).toNat / 4096) + 0 < 2 ^ 16 ∧
    Cfg.contextToHistogram params .modular 0 = 0 ∧ (inSection [0xEF, 0xBE]).canRead 16 :=
  ⟨by decide +kernel, by decide, by decide +kernel, by decide, by decide +kernel, ⟨by decide +kernel, fun h => nomatch h⟩⟩

theorem witness_AnsUpdateNeverWraps :
    [100, 2000, 1996].sum = 4096 ∧ 5 < ([100, 2000, 1996][0]?).getD 0 ∧ 0x130000 < 2 ^ 32 ∧
    ansUpdate (nth [100, 2000, 1996] 0) 5 0x130000 < 2 ^ 16 ∧ 7 < 2 ^ 16 := by decide +kernel

theorem witness_HuffmanTables :
    (with_ (inSection []) fun p => { p with simpleSymbols := .table [((8, []), .parsed [4, 2, 7] 0)] }).answers
      (Cfg.simpleSymbols { params with simpleSymbols := .table [((8, []), .parsed [4, 2, 7] 0)] } 8) [4, 2, 7] 0 ∧
    ([4, 2, 7].Nodup ∧ [4, 2, 7].length ≠ 4 ∧ ∀ x ∈ [4, 2, 7], x < 8) ∧ ¬ [5, 5].Nodup ∧
    (with_ (inSection [1]) fun p => { p with simpleSymbols := .table [((8, []), .parsed [5, 0, 1, 2] 0)] }).answers
      (Cfg.simpleSymbols { params with simpleSymbols := .table [((8, []), .parsed [5, 0, 1, 2] 0)] } 8) [5, 0, 1, 2] 0 ∧
    (([5, 0, 1, 2].Nodup ∧ [5, 0, 1, 2].length = 4 ∧ ∀ x ∈ [5, 0, 1, 2], x < 8) ∧
      ((inSection [1]).moved 0).bitsHere.head? = some true ∧ ((inSection [1]).moved 8).bitsHere = []) ∧
    ((inSection [1]).moved 0).canRead 1 ∧
    (with_ (inSection []) fun p => { p with codeLengths := .table [(((5, 0), []), .parsed [1, 2, 3, 3] 0)] }).answers
      (Cfg.codeLengths { params with codeLengths := .table [(((5, 0), []), .parsed [1, 2, 3, 3] 0)] } 5 0) [1, 2, 3, 3] 0 ∧
    firstAnswer (Cfg.codeLengths { params with codeLengths := .table [(((5, 0), []), .malformed .transform)] } 5 0) [] =
      .malformed .format ∧
    (∀ x ∈ [1, 2, 3, 3], x ≤ 15) ∧ ([1, 2, 3, 3].map fun x => if x = 0 then 0 else 2 ^ (15 - x)).sum = 2 ^ 15 :=
  ⟨⟨rfl, fun h => nomatch h⟩, by decide, by decide, answers_of (by decide +kernel), by decide +kernel,
    ⟨by decide +kernel, fun h => nomatch h⟩, ⟨rfl, fun h => nomatch h⟩, by decide, by decide, by decide⟩

/-- V-HUF-2 and V-HUF-3 as states: one level, and two. -/
theorem witness_HuffmanRead :
    ((buildTable 3 [1, 2, 3, 3]).root[natOfBits ((inSection [0x3B]).bitsHere.take 3)]? = some { bits := 3, value := 2 } ∧
      (3 : Nat) ≤ 3) ∧ (inSection [0x3B]).canRead 3 ∧
    ((buildTable 2 [1, 2, 3, 3]).root[natOfBits ((inSection [0x07]).bitsHere.take 2)]? = some { bits := 3, value := 0 } ∧
      (buildTable 2 [1, 2, 3, 3]).subs[0]? = some [{ bits := 1, value := 2 }, { bits := 1, value := 3 }] ∧
      natOfBits (((inSection [0x07]).moved 2).bitsHere.take 1) = 1) ∧
    (inSection [0x07]).canRead 2 ∧ ((inSection [0x07]).moved 2).canRead 1 :=
  ⟨by decide +kernel, ⟨by decide +kernel, fun h => nomatch h⟩, by decide +kernel,
    ⟨by decide +kernel, fun h => nomatch h⟩, ⟨by decide +kernel, fun h => nomatch h⟩⟩

theorem witness_HuffmanTableDecodesEveryCodeword :
    lengthsOk [1, 2, 3, 3] = true ∧ { symbol := 3, len := 3, key := 7 } ∈ codewords [1, 2, 3, 3] ∧
    (inSection [0x07]).bitsHere = (List.range 3).map (fun j => (7 : Nat).testBit j) ++ List.replicate 5 false := by
  decide +kernel

theorem witness_ReadingAValueKeepsTheRest :
    readValue .modular 0 pixels = .ok 6 (endState (readValue .modular 0 pixels)) := ok_of (by decide +kernel)

/-! ### Witnesses: block steps -/

/-- The HF block state, the rectangle and the transform of `blocks`. -/
def hf8 : HfBlock := { started with nzMap := [((0, 2, 1), 8), ((0, 1, 2), 5)] }
def rect8 : Rect := ⟨0, 0, 8, 8⟩
def idct8 : XType := ⟨.idct, 8, 8⟩

def zeros64 : List Int := List.replicate 64 0

theorem blocks_quant : blocks.sample 14 0 0 = some (.nat 4) := by decide +kernel
theorem blocks_tile : blocks.tile 3 8 8 0 0 = some (zeros64.map Sample.int) := by decide +kernel
theorem blocks_room : blocks.holds .int 3 0 0 8 8 := holds_of (by decide +kernel)

theorem blocks_here (nz u : Nat) :
    Sys2Proof.Claims.BlockAt (withAc nz u) hf8.blk hf8 frame8 rect8 side8.maps 4 lfg side8 :=
  ⟨rfl, rfl, rfl, rfl, blocks_quant, rfl, rfl⟩

theorem witness_PredictedNonzeros :
    blocks.grp.hf = some hf8 ∧
    (({ hf8 with nzMap := [((0, 0, 2), 11), ((0, 4, 0), 7)] } : HfBlock).nzMap = [((0, 0, 2), 11), ((0, 4, 0), 7)] ∧
      assocGet [((0, 0, 2), 11), ((0, 4, 0), 7)] (0, 0, 2) = some 11 ∧
      assocGet [((0, 0, 2), 11), ((0, 4, 0), 7)] (0, 4, 0) = some 7) ∧
    assocGet hf8.nzMap (0, 1 + 1, 1) = some 8 ∧ assocGet hf8.nzMap (0, 1, 1 + 1) = some 5 := by
  decide +kernel

theorem witness_NonzeroCount :
    xtype params 0 = some idct8 ∧
    Sys2Proof.Claims.BlockAt (withAc 63 0) hf8.blk hf8 frame8 rect8 side8.maps 4 lfg side8 ∧
    readValue (.ac 0) 20 (withAc 63 0) = .ok 63 (endState (readValue (.ac 0) 20 (withAc 63 0))) ∧
    readValue (.ac 0) 20 (withAc 64 0) = .ok 64 (endState (readValue (.ac 0) 20 (withAc 64 0))) ∧
    (Cfg.nonZeroContext (withAc 63 0).inp.params 32 0 [] = 20 ∧ 63 ≤ Cfg.capacity (withAc 63 0).inp.params 0 ∧
      Cfg.capacity (withAc 64 0).inp.params 0 < 64) :=
  ⟨rfl, blocks_here 63 0, ok_of (by decide +kernel), ok_of (by decide +kernel), by decide +kernel⟩

/-- The scan of a block starts at position `first` with a budget of 1; the symbol it reads is `u`. -/
def scanning (first u : Nat) : State := with_ (withAc 1 u) fun p =>
  { p with firstAc := .table [(0, first)], zeroDensityContext := .table [(((1, first, 1), false), 3)] }

def scanStart (first left : Nat) : Scan := { k := first, left := left, prev := false, coeffs := zeros64 }

theorem scanning_here (first u : Nat) :
    Sys2Proof.Claims.BlockAt (scanning first u) hf8.blk hf8 frame8 rect8 side8.maps 4 lfg side8 ∧
    Sys2Proof.Claims.TileAt (scanning first u) side8.coeff 0 idct8 rect8 hf8.blk 3 (zeros64.map Sample.int) ∧
    Sys2Proof.Claims.TileRoom (scanning first u) .int side8.coeff 0 idct8 rect8 hf8.blk 3 :=
  ⟨⟨rfl, rfl, rfl, rfl, blocks_quant, rfl, rfl⟩, ⟨rfl, blocks_tile⟩, ⟨rfl, blocks_room⟩⟩

/-- A symbol that is not zero uses the budget up; a zero symbol at the last position leaves it; no position at all. -/
theorem witness_Coefficients :
    (Sys2Proof.Claims.ScanRuns 0 1 0 0 (List.range 64) (63 - 0) (scanStart 1 1) (scanning 1 9)
      { k := 2, left := 0, prev := true, coeffs := zeros64.set 1 (-5) }
      (endState (readValue (.ac 0) 3 (scanning 1 9)))) ∧
    (Sys2Proof.Claims.ScanRuns 0 1 0 0 (List.range 64) (64 * 1 - 63) (scanStart 63 1) (scanning 63 0)
      { k := 64, left := 1, prev := false, coeffs := zeros64 } (endState (readValue (.ac 0) 3 (scanning 63 0)))) ∧
    (Sys2Proof.Claims.ScanRuns 0 1 0 0 (List.range 64) (64 * 1 - 64) (scanStart 64 1) (scanning 64 0)
      (scanStart 64 1) (scanning 64 0)) ∧
    ((scanning 1 9).grp.hfGlobal = some { dequant := [], order := [[({ h := 8, w := 8, channel := 0 }, List.range 64)]] } ∧
      scanOrder (scanning 1 9).inp.params ((scanning 1 9).grp.hfGlobal.getD { dequant := [], order := [] }) 0 0 0 =
        List.range 64 ∧
      Cfg.firstAc (scanning 1 9).inp.params 0 = 1 ∧ Cfg.firstAc (scanning 64 0).inp.params 0 = 64 ∧
      Cfg.contextOffset (scanning 1 9).inp.params (Cfg.blockContext (scanning 1 9).inp.params 0 0 4 []) = 0 ∧
      Cfg.passShift (scanning 1 9).inp.params 0 frame8.passShifts = 0 ∧
      Cfg.initialPrev (scanning 1 9).inp.params 1 64 = false) ∧
    nextHas (exec (.bCoeffs 0 0 0 0) (withAc 0 0)) (fun t => t.ret == .none) = true ∧
    ((0 : Nat) = 0 ∧ params.accumulate = .usual) := by
  refine ⟨?_, ?_, .out, by decide +kernel, by decide +kernel, rfl, rfl⟩
  · exact .step (u := 9) (by decide) (ok_of (by decide +kernel)) (.spent rfl)
  · exact .step (u := 0) (by decide) (ok_of (by decide +kernel)) .out

/-- A tile that gives no colour-correlation factor of X. -/
def noTile : State := withBufs blocks (buffers8.set 15 (full 1 1 .int []))

theorem witness_DequantizedBlock :
    (Sys2Proof.Claims.BlockAt blocks (0, 0) hf8 frame8 rect8 side8.maps 4 lfg side8 ∧
      (blocks.grp.hfGlobal.isSome = true ∧ Cfg.tileBlocks blocks.inp.params = 8 ∧ blocks.intAt 15 0 0 = some 0 ∧
        blocks.intAt 16 0 0 = some 0) ∧
      ∀ c, c < 3 → Sys2Proof.Claims.TileAt blocks side8.coeff c idct8 rect8 (0, 0) (3 + c) (zeros64.map Sample.int) ∧
        Sys2Proof.Claims.TileRoom blocks .float side8.deq c idct8 rect8 (0, 0) (6 + c)) ∧
    Sys2Proof.Claims.BlockAt blocks (1, 0) hf8 frame8 rect8 side8.maps 0 lfg side8 ∧
    (Sys2Proof.Claims.BlockAt noTile (0, 0) hf8 frame8 rect8 side8.maps 4 lfg side8 ∧
      (noTile.cell 15 0 0 .read).isSome = true ∧ noTile.sample 15 0 0 = none) := by
  refine ⟨⟨⟨rfl, rfl, rfl, rfl, by decide +kernel, rfl, rfl⟩, by decide +kernel, ?_⟩,
    ⟨rfl, rfl, rfl, rfl, by decide +kernel, rfl, rfl⟩,
    ⟨rfl, rfl, rfl, rfl, by decide +kernel, rfl, rfl⟩, by decide +kernel, by decide +kernel⟩
  intro c hc
  match c with
  | 0 | 1 | 2 => exact ⟨⟨rfl, by decide +kernel⟩, ⟨rfl, holds_of (by decide +kernel)⟩⟩

theorem witness_TransformedBlock :
    Sys2Proof.Claims.BlockAt blocks (0, 0) hf8 frame8 rect8 side8.maps 4 lfg side8 ∧
    (∀ c, c < 3 →
      Sys2Proof.Claims.TileAt blocks side8.deq c idct8 rect8 (0, 0) (6 + c)
        ((List.replicate 64 (0 : F32)).map Sample.flt) ∧
      side8.lf[c]? = some (9 + c) ∧
      allSome ((coveredPositions params 0 0 0).map fun b => blocks.intAt (9 + c) b.1 b.2) = some [1] ∧
      Sys2Proof.Claims.TileRoom blocks .float blocks.grp.planes c idct8 rect8 (0, 0) c ∧
      Sys2Proof.Claims.Owned blocks (6 + c) ∧ Sys2Proof.Claims.Owned blocks (9 + c) ∧
      Sys2Proof.Claims.Owned blocks c) ∧
    ∀ c d, c < 3 → d < 3 → c ≠ 6 + d ∧ c ≠ 9 + d := by
  refine ⟨⟨rfl, rfl, rfl, rfl, by decide +kernel, rfl, rfl⟩, ?_, fun c d hc hd => ⟨by omega, by omega⟩⟩
  intro c hc
  match c with
  | 0 | 1 | 2 =>
    exact ⟨⟨rfl, by decide +kernel⟩, rfl, by decide +kernel, ⟨rfl, holds_of (by decide +kernel)⟩, ⟨_, rfl, rfl⟩,
      ⟨_, rfl, rfl⟩, ⟨_, rfl, rfl⟩⟩

/-! ### Witnesses: Modular -/

/-- A tree of one leaf: the six fields come one symbol per context. -/
def leafTree : State := with_ (inSection []) fun p =>
  { p with scopeSpec := .table [((.tree, []), .parsed ⟨.huff, [], [], [0, 0, 5, 3, 1, 2].map (oneSymbolTable 0)⟩ 0)] }
def tree1 : State := endState (scopeOpen .tree leafTree)
def tree2 : State := endState (readValue .tree 1 tree1)
def tree3 : State := endState (readValue .tree 2 tree2)
def tree4 : State := endState (readValue .tree 3 tree3)
def tree5 : State := endState (readValue .tree 4 tree4)
def tree6 : State := endState (readValue .tree 5 tree5)

theorem witness_TreeDecoding :
    (1 ≤ Cfg.maxTreeNodes params ∧ 1 ≤ Cfg.maxTreeHeight params ∧ Cfg.treeContext params .property = 1 ∧
      Cfg.treeTag params 0 = none ∧ Cfg.treeContext params .predictor = 2 ∧ Cfg.predictorOf params 5 = some .gradient ∧
      Cfg.treeContext params .offset = 3 ∧ Cfg.treeContext params .multLog = 4 ∧ Cfg.treeContext params .multBits = 5 ∧
      1 ≤ Cfg.multiplierFrom params 1 2) ∧
    scopeOpen .tree leafTree = .ok () tree1 ∧ readValue .tree 1 tree1 = .ok 0 tree2 ∧
    readValue .tree 2 tree2 = .ok 5 tree3 ∧ readValue .tree 3 tree3 = .ok 3 tree4 ∧ readValue .tree 4 tree4 = .ok 1 tree5 ∧
    readValue .tree 5 tree5 = .ok 2 tree6 ∧ scopeFinal .tree tree6 = .ok () (endState (scopeFinal .tree tree6)) ∧
    nextHas (exec .mTree leafTree) (fun t => t.ret == .none) = true :=
  ⟨by decide +kernel, ok_of (by decide +kernel), ok_of (by decide +kernel), ok_of (by decide +kernel),
    ok_of (by decide +kernel), ok_of (by decide +kernel), ok_of (by decide +kernel), ok_of (by decide +kernel),
    by decide +kernel⟩

theorem field_of {f : TreeField} {s : State} {n v : Nat} (hn : Cfg.treeContext s.inp.params f = n)
    (h : okIs (readValue .tree n s) v = true) : Sys2Proof.Claims.FieldRead f s v (endState (readValue .tree n s)) := by
  subst hn; exact ok_of h

theorem leafTree_runs : Sys2Proof.Claims.TreeRuns leafTree tree6
    [.leaf { predictor := .gradient, offset := -2, multiplier := 6, ctx := 0 }] [] :=
  have h : Sys2Proof.Claims.TreeRuns leafTree tree6
      ([] ++ [.leaf { predictor := .gradient, offset := Cfg.unpackSigned leafTree.inp.params 3
                      multiplier := Cfg.multiplierFrom leafTree.inp.params 1 2, ctx := Sys2Proof.Claims.leavesIn [] }]) [] :=
    .leaf (a := tree1) (b := tree2) (c := tree3) (d := tree4) (e := tree5) (u := 0) (k := 5)
      (.start (ok_of (by decide +kernel))) (by decide +kernel) (by decide +kernel)
      (field_of (by decide +kernel) (by decide +kernel)) (by decide +kernel)
      (field_of (by decide +kernel) (by decide +kernel)) (by decide +kernel)
      (field_of (by decide +kernel) (by decide +kernel)) (field_of (by decide +kernel) (by decide +kernel))
      (field_of (by decide +kernel) (by decide +kernel)) (by decide +kernel)
  h

/-- The states of M.TREE on `splitTree`: scope open, tag, threshold, tag of the left child, its threshold. -/
def split1 (n h : Nat) : State := endState (scopeOpen .tree (splitTree n h id))
def split2 (n h : Nat) : State := endState (readValue .tree 1 (split1 n h))
def split3 (n h : Nat) : State := endState (readValue .tree 0 (split2 n h))
def split4 (n h : Nat) : State := endState (readValue .tree 1 (split3 n h))
def split5 (n h : Nat) : State := endState (readValue .tree 0 (split4 n h))

/-- After the first split: the left child, above 3, waits first. -/
theorem splitTree_runs (n h : Nat) (hn : n = 1 ∧ h = 2 ∨ n = 3 ∧ h = 1 ∨ n = 3 ∧ h = 2) :
    Sys2Proof.Claims.TreeRuns (splitTree n h id) (split3 n h) [.split 1 3 1 2]
      [{ range := Function.update (fun _ => (none, none)) 1 (some 4, none), depth := 2 },
       { range := Function.update (fun _ => (none, none)) 1 (none, some 3), depth := 2 }] := by
  rcases hn with ⟨rfl, rfl⟩ | ⟨rfl, rfl⟩ | ⟨rfl, rfl⟩ <;>
    exact .split (a := split1 _ _) (b := split2 _ _) (nodes := []) (rest := []) (u := 2) (z := 6)
      (.start (ok_of (by decide +kernel))) (by decide +kernel) (by decide +kernel)
      (field_of (by decide +kernel) (by decide +kernel)) (by decide +kernel) (by decide +kernel)
      (field_of (by decide +kernel) (by decide +kernel)) (by decide +kernel)
      ⟨fun _ h => (nomatch h), fun _ h => (nomatch h)⟩

theorem witness_TreeDecoding_traps :
    (1 = Cfg.maxTreeNodes (splitTree 1 2 id).inp.params ∧ 1 < Cfg.maxTreeNodes (splitTree 3 1 id).inp.params ∧
      Cfg.maxTreeHeight (splitTree 3 1 id).inp.params < 2 ∧ 2 ≤ Cfg.maxTreeHeight (splitTree 3 2 id).inp.params) ∧
    Sys2Proof.Claims.FieldRead .property (split3 3 2) 2 (split4 3 2) ∧
    Sys2Proof.Claims.FieldRead .threshold (split4 3 2) 6 (split5 3 2) ∧
    ¬ Sys2Proof.Claims.SplitsRange (Function.update (fun _ => (none, none)) 1 (some 4, none) 1)
      (Cfg.unpackSigned (splitTree 3 2 id).inp.params 6) ∧
    (Cfg.treeTag params 2 = some 1 ∧ Cfg.propertyDefined params 255 = true ∧ Cfg.propertyDefined params 256 = false ∧
      Cfg.predictorOf params 13 = some .average4 ∧ Cfg.predictorOf params 14 = none) ∧
    Sys2Proof.Claims.TreeRuns (splitTree 3 2 id) (split3 3 2) [.split 1 3 1 2]
      [{ range := Function.update (fun _ => (none, none)) 1 (some 4, none), depth := 2 },
       { range := Function.update (fun _ => (none, none)) 1 (none, some 3), depth := 2 }] :=
  ⟨by decide +kernel, field_of (by decide +kernel) (by decide +kernel), field_of (by decide +kernel) (by decide +kernel),
    fun h => absurd (h.1 4 rfl) (by decide +kernel), by decide +kernel, splitTree_runs 3 2 (by decide)⟩

/-- The states of M.TREE on one leaf: scope open, tag, predictor and the three other fields. -/
def leaf1 (s : State) : State := endState (scopeOpen .tree s)
def leaf2 (s : State) : State := endState (readValue .tree 1 (leaf1 s))
def leaf3 (s : State) : State := endState (readValue .tree 2 (leaf2 s))
def leaf4 (s : State) : State := endState (readValue .tree 3 (leaf3 s))
def leaf5 (s : State) : State := endState (readValue .tree 4 (leaf4 s))
def leaf6 (s : State) : State := endState (readValue .tree 5 (leaf5 s))

/-- Tag 2 names property 1, which is not defined here; and predictor 5, or the multiplier, is none. -/
def noProperty : State := splitTree 3 2 fun p => { p with propertyDefined := .table [(1, false)] }
def noPredictor : State := with_ leafTree fun p => { p with predictorOf := .table [(5, none)] }
def noMultiplier : State := with_ leafTree fun p => { p with multiplierFrom := .table [((1, 2), 0)] }

theorem witness_TreeDecoding_fields :
    (Sys2Proof.Claims.TreeRuns noProperty (leaf1 noProperty) [] [{ range := fun _ => (none, none), depth := 1 }] ∧
      Sys2Proof.Claims.FieldRead .property (leaf1 noProperty) 2 (leaf2 noProperty) ∧
      Cfg.propertyDefined noProperty.inp.params 1 = false) ∧
    (Sys2Proof.Claims.TreeRuns noPredictor (leaf1 noPredictor) [] [{ range := fun _ => (none, none), depth := 1 }] ∧
      Sys2Proof.Claims.FieldRead .property (leaf1 noPredictor) 0 (leaf2 noPredictor) ∧
      Sys2Proof.Claims.FieldRead .predictor (leaf2 noPredictor) 5 (leaf3 noPredictor) ∧
      Cfg.predictorOf noPredictor.inp.params 5 = none) ∧
    (Sys2Proof.Claims.TreeRuns noMultiplier (leaf1 noMultiplier) [] [{ range := fun _ => (none, none), depth := 1 }] ∧
      Sys2Proof.Claims.FieldRead .property (leaf1 noMultiplier) 0 (leaf2 noMultiplier) ∧
      Sys2Proof.Claims.FieldRead .predictor (leaf2 noMultiplier) 5 (leaf3 noMultiplier) ∧
      Sys2Proof.Claims.FieldRead .offset (leaf3 noMultiplier) 3 (leaf4 noMultiplier) ∧
      Sys2Proof.Claims.FieldRead .multLog (leaf4 noMultiplier) 1 (leaf5 noMultiplier) ∧
      Sys2Proof.Claims.FieldRead .multBits (leaf5 noMultiplier) 2 (leaf6 noMultiplier) ∧
      Cfg.multiplierFrom noMultiplier.inp.params 1 2 = 0) :=
  ⟨⟨.start (ok_of (by decide +kernel)), field_of (by decide +kernel) (by decide +kernel), by decide +kernel⟩,
    ⟨.start (ok_of (by decide +kernel)), field_of (by decide +kernel) (by decide +kernel),
      field_of (by decide +kernel) (by decide +kernel), by decide +kernel⟩,
    ⟨.start (ok_of (by decide +kernel)), field_of (by decide +kernel) (by decide +kernel),
      field_of (by decide +kernel) (by decide +kernel), field_of (by decide +kernel) (by decide +kernel),
      field_of (by decide +kernel) (by decide +kernel), field_of (by decide +kernel) (by decide +kernel),
      by decide +kernel⟩⟩

/-- The traps of M.TREE (44_modular.md R282). -/
theorem test_tree_fields : [noProperty, noPredictor, noMultiplier].all (fun s =>
    nextHas (exec .mTree s) fun t => t.ctl.err == .format) = true := by decide +kernel

theorem witness_WalkReachesLeaf :
    Sys2Proof.Claims.Leads [.split 1 3 1 2, .leaf ⟨.left, 0, 1, 0⟩, .leaf ⟨.top, 0, 1, 1⟩] [0, 4] 0 ⟨.left, 0, 1, 0⟩ ∧
    Sys2Proof.Claims.Leads [.split 1 3 1 2, .leaf ⟨.left, 0, 1, 0⟩, .leaf ⟨.top, 0, 1, 1⟩] [0, 3] 0 ⟨.top, 0, 1, 1⟩ :=
  ⟨.left rfl ⟨4, rfl, by decide⟩ (.leaf rfl), .right rfl ⟨3, rfl, by decide⟩ (.leaf rfl)⟩

/-- The channel of the fixture `pixels` and its buffer. -/
def pixelBuffer : Buffer :=
  { width := 3, height := 1, ty := .int, stride := 64, ownership := .owned, samples := [(0, .int 10)] }
def pixelImage : ModImage :=
  { stream := 0, channels := [{ buf := 0, hshift := 0, vshift := 0 }], transforms := [] }
/-- The neighbours of (1, 0): west only. -/
def pixelRaw : RawNeighbours := ⟨some 10, none, none, none, none, none, none⟩

theorem pixel_here : Sys2Proof.Claims.PixelAt pixels pixelImage 0 1 0 ⟨0, 0, 0⟩ pixelBuffer pixelRaw :=
  ⟨rfl, rfl, rfl, ⟨neighbour_of (by decide +kernel), neighbour_of (by decide +kernel), neighbour_of (by decide +kernel),
    neighbour_of (by decide +kernel), neighbour_of (by decide +kernel), neighbour_of (by decide +kernel),
    neighbour_of (by decide +kernel)⟩⟩

theorem witness_PixelProperties :
    Sys2Proof.Claims.PixelAt pixels pixelImage 0 1 0 ⟨0, 0, 0⟩ pixelBuffer pixelRaw ∧
    pixels.neighboursAre 0 3 (1 - 1) 0 ⟨none, none, none, none, none, none, none⟩ ∧
    List.Forall₂ (Sys2Proof.Claims.PrevSample pixels 1 0) (prevChannels 3 1 pixels (pixelImage.channels.take 0)) [] :=
  ⟨pixel_here, ⟨neighbour_of (by decide +kernel), neighbour_of (by decide +kernel), neighbour_of (by decide +kernel),
    neighbour_of (by decide +kernel), neighbour_of (by decide +kernel), neighbour_of (by decide +kernel),
    neighbour_of (by decide +kernel)⟩, .nil⟩

theorem witness_PixelPrediction :
    pixels.mod.cur = (0, 1, 0) ∧
    Sys2Proof.Claims.PixelAt pixels pixelImage 0 1 0 ⟨0, 0, 0⟩ pixelBuffer pixelRaw ∧
    readValue .modular 0 pixels = .ok 6 (endState (readValue .modular 0 pixels)) ∧
    (fitsSample params 24 = true ∧ pixels.canWrite .int 0 1 0 = true ∧
      fitsSample params (10 * 4000 + 1 + 3) = false) :=
  ⟨rfl, pixel_here, ok_of (by decide +kernel), by decide +kernel⟩

theorem witness_WeightedPredictor :
    pixels.mod.wp = some (wpInit { coeffs := [16, 10, 7, 7, 7, 0, 0], weights := [13, 12, 12, 12] } 3) ∧
    pixels.mod.cur.1 = 0 ∧
    Sys2Proof.Claims.PixelAt pixels pixelImage 0 1 0 ⟨0, 0, 0⟩ pixelBuffer pixelRaw ∧
    (1 + 1 ≠ (wpInit { coeffs := [], weights := [] } 3).width ∧
      2 + 1 = (wpInit { coeffs := [], weights := [] } 3).width ∧
      (wpInit { coeffs := [], weights := [] } 3).est[0]? = some 0 ∧
      (wpInit { coeffs := [], weights := [] } 3).accCur[0]? = some [0, 0, 0] ∧
      (wpInit { coeffs := [], weights := [] } 3).accPrev[0]? = some [0, 0, 0] ∧
      (wpInit { coeffs := [], weights := [] } 3).errCur[0]? = some 0) ∧
    List.Forall₂ (fun a b => a ≤ b) [0, 5, 0] [0, 5, 90] ∧
    (let wp := wpInit { coeffs := [], weights := [13] } 3
     ({ wp with accPrev := [[0, 5, 90]] } : Wp).weight params 1 0 < ({ wp with accPrev := [[0, 5, 0]] } : Wp).weight params 1 0) :=
  ⟨rfl, rfl, pixel_here, by decide +kernel, .cons (by decide) (.cons (by decide) (.cons (by decide) .nil)),
    by decide +kernel⟩

/-- The image of `channels`. -/
def imageOf (n : Nat) : ModImage :=
  { stream := 0, transforms := [], channels := (List.range n).map fun k => { buf := k, hshift := 0, vshift := 0 } }

/-- V-PAL-1's palette with these indices, and the first delta entry 5, 6, 7. -/
def paletteState (l : List Int) : State :=
  with_ ((channels [full l.length 1 .int (ints l), full 3 3 .int (ints [10, 20, 30, 11, 21, 31, 12, 22, 32])]).setMod fun m =>
    { m with wp := some (wpInit { coeffs := [16, 10, 7, 7, 7, 0, 0], weights := [13, 12, 12, 12] } 0) })
    fun p => { p with deltaTable := .table ((List.range 3).map fun c => ((0, c, 8), 5 + (c : Int))) }

/-- The indices 2, 0, -1 under num_deltas = 1 and Left: the entry, the entry added to it, a delta subtracted. -/
def paletteIdx (x _y : Nat) : Int := if x = 0 then 2 else if x = 1 then 0 else -1
def paletteOut (c x _y : Nat) : Int := if x = 0 then 30 + c else if x = 1 then 40 + 2 * c else 35 + c

theorem test_palette_deltas : nextHas (exec (.mPalette 0 1 3 1 .left 8) (paletteState [2, 0, -1]))
    (fun t => [2, 3, 4].map (grid t) == [[30, 40, 35], [31, 42, 36], [32, 44, 37]]) = true := by decide +kernel

theorem witness_PaletteValues :
    Sys2Proof.Claims.ChannelIs (paletteState [2, 0, -1]) (imageOf 2) 0 ⟨0, 0, 0⟩ (full 3 1 .int (ints [2, 0, -1])) ∧
    Sys2Proof.Claims.ChannelIs (paletteState [2, 0, -1]) (imageOf 2) 1 ⟨1, 0, 0⟩
      (full 3 3 .int (ints [10, 20, 30, 11, 21, 31, 12, 22, 32])) ∧
    ((paletteState [2, 0, -1]).mod.image = some (imageOf 2) ∧ (paletteState [2, 0, -1]).img.handlesOk = true ∧
      (∀ c, c < 3 → (paletteState [2, 0, -1]).grants ((paletteState [2, 0, -1]).img.next + c) (3, 1, .int) = true) ∧
      (∀ k, k < 3 → ∀ c, c < 3 → ((paletteState [2, 0, -1]).intAt 1 k c).isSome = true) ∧
      ∀ x, x < 3 → ∀ y, y < 1 → (paletteState [2, 0, -1]).intAt 0 x y = some (paletteIdx x y)) ∧
    ∀ c, c < 3 → Sys2Proof.Claims.PaletteChannel (paletteState [2, 0, -1]).inp.params .left (1 : Nat) 3 1 c paletteIdx
      (fun x y => paletteValue (paletteState [2, 0, -1]).inp.params 3 8
        (fun k => ((paletteState [2, 0, -1]).intAt 1 k c).getD 0) (paletteIdx x y) c)
      (paletteOut c) (fun _ => none) :=
  ⟨⟨rfl, rfl, rfl, by decide⟩, ⟨rfl, rfl, rfl, by decide⟩, by decide +kernel, fun c hc =>
    ⟨fun x y hx hy => by interval_cases c <;> interval_cases x <;> interval_cases y <;> decide +kernel,
     fun x y hx hy => by interval_cases c <;> interval_cases x <;> interval_cases y <;> decide +kernel,
     fun _ _ _ _ => rfl⟩⟩

/-- The Weighted predictor of one output channel of one sample, before the sample and after it. -/
def paletteWp (c k : Nat) : Option Wp :=
  let wp := wpInit { coeffs := [16, 10, 7, 7, 7, 0, 0], weights := [13, 12, 12, 12] } 1
  if k = 0 then some wp
  else
    some ((wp.predict (paletteState [0]).inp.params (Cfg.neighbours (paletteState [0]).inp.params (c, 0, 0)
      (Sys2Proof.Claims.around (fun _ _ => 10 + (c : Int)) 1 0 0)) 0 0).update (paletteState [0]).inp.params 0 (10 + c))

theorem witness_PaletteValues_weighted :
    (paletteState [0]).mod.wp = some (wpInit { coeffs := [16, 10, 7, 7, 7, 0, 0], weights := [13, 12, 12, 12] } 0) ∧
    (∀ c, paletteWp c 0 = some (wpInit { coeffs := [16, 10, 7, 7, 7, 0, 0], weights := [13, 12, 12, 12] } 1)) ∧
    ∀ c, c < 3 → Sys2Proof.Claims.PaletteChannel (paletteState [0]).inp.params .weighted (1 : Nat) 1 1 c (fun _ _ => 0)
      (fun _ _ => paletteValue (paletteState [0]).inp.params 3 8 (fun k => ((paletteState [0]).intAt 1 k c).getD 0) 0 c)
      (fun _ _ => 10 + c) (paletteWp c) :=
  ⟨rfl, fun _ => rfl, fun c hc =>
    ⟨fun x y hx hy => by interval_cases c <;> interval_cases x <;> interval_cases y <;> decide +kernel,
     fun x y hx hy => by interval_cases c <;> interval_cases x <;> interval_cases y <;> decide +kernel,
     fun x y hx hy => by interval_cases c <;> interval_cases x <;> interval_cases y <;> decide +kernel⟩⟩

/-- V-SQ-2. -/
def squeezeH : State := channels [full 2 1 .int (ints [12, 19]), full 2 1 .int (ints [-3, 2])]
/-- V-SQ-5. -/
def squeezeV : State := channels [full 3 2 .int (ints [2, 3, 4, 7, 8, 10]), full 3 1 .int (ints [-2, -2, -2])]

theorem witness_SqueezeChannels :
    (Sys2Proof.Claims.ChannelIs squeezeH (imageOf 2) 0 ⟨0, 0, 0⟩ (full 2 1 .int (ints [12, 19])) ∧
      Sys2Proof.Claims.ChannelIs squeezeH (imageOf 2) 1 ⟨1, 0, 0⟩ (full 2 1 .int (ints [-3, 2]))) ∧
    (squeezeH.mod.image = some (imageOf 2) ∧ squeezeH.img.handlesOk = true ∧ squeezeH.grants squeezeH.img.next (4, 1, .int) = true ∧
      squeezeH.intRow 0 2 0 = some [12, 19] ∧ squeezeH.intRow 1 2 0 = some [-3, 2] ∧
      (∀ v ∈ unsqueeze none [12, 19] [-3, 2], fitsSample squeezeH.inp.params v = true) ∧ 2 ≠ (5 + 1) / 2) ∧
    (Sys2Proof.Claims.ChannelIs squeezeV (imageOf 2) 0 ⟨0, 0, 0⟩ (full 3 2 .int (ints [2, 3, 4, 7, 8, 10])) ∧
      Sys2Proof.Claims.ChannelIs squeezeV (imageOf 2) 1 ⟨1, 0, 0⟩ (full 3 1 .int (ints [-2, -2, -2]))) ∧
    (squeezeV.mod.image = some (imageOf 2) ∧ squeezeV.img.handlesOk = true ∧ squeezeV.grants squeezeV.img.next (3, 3, .int) = true ∧
      (∀ x, x < 3 → squeezeV.intColumn 0 2 x = some [2 + (x : Int), 7 + (x : Int) + (if x = 2 then 1 else 0)] ∧
        squeezeV.intColumn 1 1 x = some [-2]) ∧
      (∀ x : Nat, x < 3 → ∀ v ∈ unsqueeze none [2 + (x : Int), 7 + x + (if x = 2 then 1 else 0)] [-2],
        fitsSample squeezeV.inp.params v = true) ∧ 2 ≠ (6 + 1) / 2) :=
  ⟨⟨⟨rfl, rfl, rfl, by decide⟩, ⟨rfl, rfl, rfl, by decide⟩⟩, by decide +kernel,
    ⟨⟨rfl, rfl, rfl, by decide⟩, ⟨rfl, rfl, rfl, by decide⟩⟩, by decide +kernel⟩

theorem witness_SqueezeRoundTrip :
    ([10, 14, 20, 18].length = 4 ∧ (∀ v ∈ ([10, 14, 20, 18] : List Int), fitsSample params v = true) ∧
      squeezeH.intRow 0 2 0 = some (Sys2Proof.Claims.averages [10, 14, 20, 18]) ∧
      squeezeH.intRow 1 2 0 = some (Sys2Proof.Claims.residuals none [10, 14, 20, 18])) ∧
    ∀ j : Nat, j < 3 → [1 + (j : Int), 4 + j, 7 + j + (if j = 2 then 1 else 0)].length = 3 ∧
      (∀ v ∈ [1 + (j : Int), 4 + j, 7 + j + (if j = 2 then 1 else 0)], fitsSample params v = true) ∧
      squeezeV.intColumn 0 2 j =
        some (Sys2Proof.Claims.averages [1 + (j : Int), 4 + j, 7 + j + (if j = 2 then 1 else 0)]) ∧
      squeezeV.intColumn 1 1 j =
        some (Sys2Proof.Claims.residuals none [1 + (j : Int), 4 + j, 7 + j + (if j = 2 then 1 else 0)]) := by
  decide +kernel

/-! ### Witnesses: transforms -/

theorem views_here : Sys2Proof.Claims.Views (views 8 8 corner) 0 1 8 8 corner :=
  ⟨⟨_, rfl, rfl, rfl, rfl⟩, ⟨_, rfl, rfl, rfl, rfl⟩, by decide +kernel, holds_of (by decide +kernel)⟩

theorem witness_TransformTiles :
    isIdctPair 8 8 = true ∧ Sys2Proof.Claims.Views (views 8 8 corner) 0 1 8 8 corner ∧ isIdctPair 16 8 = true ∧
    Sys2Proof.Claims.Views (views 8 16 (List.replicate 128 0)) 0 1 16 8 (List.replicate 128 0) :=
  ⟨by decide +kernel, views_here, by decide +kernel,
    ⟨⟨_, rfl, rfl, rfl, rfl⟩, ⟨_, rfl, rfl, rfl, rfl⟩, by decide +kernel, holds_of (by decide +kernel)⟩⟩

theorem witness_TransformErrors :
    isIdctPair 64 8 = false ∧ assocGet (views 8 8 corner).img.bufs 0 = some (full 8 8 .float (floats corner)) ∧
    (assocGet (views 8 8 corner).img.bufs 1).isSome = true ∧
    ¬ ((full 8 8 .float (floats corner)).width = 16 ∧ (full 8 8 .float (floats corner)).height = 16) ∧
    (assocGet squeezeH.img.bufs 0 = some (full 2 1 .int (ints [12, 19])) ∧
      (full 2 1 .int (ints [12, 19])).ty ≠ .float) ∧
    (xtype params 27 = none ∧ params.catalog = some usualCatalog) := by decide +kernel

theorem witness_DcLaws :
    ¬ ((Sys2Proof.Claims.isZero 0x3F800000 && Sys2Proof.Claims.isZero 0 && Sys2Proof.Claims.isZero 0) = true) ∧
    Sys2Proof.Claims.isZero 0x3F800000 = false := by
  decide +kernel

/-! ### Witnesses: render pipeline and image buffers -/

/-- The pipeline of `pipeline`, with these outputs of a stage in progress. -/
def pipe (next : List (Nat × Nat)) : Render :=
  { stages := [], chans := [0], next := next, ready := [[0]], rendered := 0, checked := false }

/-- `pipeline` with a reference frame in slot 1, whose plane is buffer 0. -/
def referring : State := { pipeline with img := { pipeline.img with refs := [(1, [0])] } }

theorem segments_here : Sys2Proof.Claims.Segments referring [0] 1 0 (1 + 1 - 0) [ints [0, 2]] :=
  ⟨rfl, fun x hx => by rw [List.mem_singleton] at hx; subst hx; exact holds_of (by decide +kernel), fun x hx => by
    rw [List.mem_singleton] at hx; subst hx; rfl⟩

theorem witness_PipelineStages_inplace :
    (referring.rnd = some (pipe [(0, 1)]) ∧ Sys2Proof.Claims.channelsOf (pipe [(0, 1)]) [0] = some [0]) ∧
    Sys2Proof.Claims.Segments referring [0] 1 0 (1 + 1 - 0) [ints [0, 2]] ∧
    (Sys2Proof.Claims.RefsAre referring (.named 5) [] ∧ Sys2Proof.Claims.RefsAre referring (.spot 5) [] ∧
      Sys2Proof.Claims.RefsAre referring (.withRef 5 1) [[ints [3, 1], ints [0, 2]]]) ∧
    assocGet referring.img.refs 0 = none :=
  ⟨⟨rfl, rfl⟩, segments_here, ⟨rfl, rfl, [0], rfl, by decide +kernel⟩, rfl⟩

/-- A pipeline of a colour channel of floats and an alpha channel. -/
def floating : State :=
  let s := withBufs (with_ pipeline fun p => { p with isAlpha := .table [(7, true)] })
    [full 2 2 .float (floats [1, 2, 3, 4]), full 2 2 .float (floats [5, 6, 7, 8])]
  { s with
    par := { s.par with imageHeader := some { image with extra := [7] } }
    rnd := some { pipe [] with chans := [0, 1] } }

theorem floating_segments : Sys2Proof.Claims.Segments floating [0] 1 0 (1 + 1 - 0) [floats [3, 4]] :=
  ⟨by decide +kernel, fun x hx => by rw [List.mem_singleton] at hx; subst hx; exact holds_of (by decide +kernel),
    fun x hx => by rw [List.mem_singleton] at hx; subst hx; rfl⟩

theorem witness_PipelineStages_colour :
    (Sys2Proof.Claims.channelsOf { pipe [] with chans := [0, 1] }
        (Sys2Proof.Claims.colours { pipe [] with chans := [0, 1] } { image with extra := [7] } [0, 1]) = some [0] ∧
      floating.ctl.opt.cms = none ∧ cmsState.ctl.opt.cms = some 9 ∧
      Sys2Proof.Claims.channelsOf (pipe []) (Sys2Proof.Claims.colours (pipe []) image [0]) = some [0]) ∧
    Sys2Proof.Claims.Segments floating [0] 1 0 (1 + 1 - 0) [floats [3, 4]] ∧
    Sys2Proof.Claims.Segments referring [0] 1 0 (1 + 1 - 0) [ints [0, 2]] ∧
    (image.extra.findIdx? (Cfg.isAlpha pipeline.inp.params) = none ∧
      [7].findIdx? (Cfg.isAlpha floating.inp.params) = some 0 ∧ floating.row 1 1 0 (1 + 1 - 0) = some (floats [7, 8])) ∧
    Sys2Proof.Claims.Owned floating 0 ∧ Sys2Proof.Claims.Typed floating [0] [floats [3, 4]] :=
  ⟨by decide +kernel, floating_segments, segments_here, by decide +kernel, ⟨_, rfl, rfl⟩, by
    unfold Sys2Proof.Claims.Typed; decide +kernel⟩

/-- A stage over channel 0, of 2×2 samples, into buffer 1 of ow × oh samples. -/
theorem staged_here (b : Buffer) (hb : b.ownership = .owned)
    (hr : (withBufs pipeline [full 2 2 .int (ints [3, 1, 0, 2]), b]).holds b.ty 1 0 0 b.width b.height) :
    Sys2Proof.Claims.Staged (withBufs pipeline [full 2 2 .int (ints [3, 1, 0, 2]), b]) (pipe [(0, 1)]) [0] [0] [1]
      b.width b.height :=
  ⟨rfl, by decide, rfl, rfl, rfl,
    fun x hx => by rw [List.mem_singleton] at hx; subst hx; exact ⟨_, rfl, rfl⟩,
    fun x hx => by rw [List.mem_singleton] at hx; subst hx; exact ⟨⟨_, rfl, hb⟩, hr⟩, by decide⟩

theorem pipeline_full : ∀ x, x < 2 → ∀ y, y < 2 → (pipeline.sample 0 x y).isSome = true := by decide +kernel

/-- An upsampling stage with one output sample to each side of the border, in the last part and not; a downsampling
one. -/
theorem witness_PipelineStages_inout :
    (Sys2Proof.Claims.Staged pipeline (pipe [(0, 1)]) [0] [0] [1] (scaled 1 true 2) (scaled 1 true 2) ∧
      Sys2Proof.Claims.Sized pipeline [0] 2 2 ∧
      (1 < (if true then 2 else scaled 1 true 2) ∧ 0 + (1 + 1 - 0) ≤ (if true then 2 else scaled 1 true 2)) ∧
      Sys2Proof.Claims.Seen pipeline [0] 2 2 1 1 1 1 true (outputRange 1 true 1 1) (outputRange 1 true 0 (1 + 1 - 0)) ∧
      Sys2Proof.Claims.RefsAre pipeline (.named 6) []) ∧
    (Sys2Proof.Claims.Staged (withBufs pipeline [full 2 2 .int (ints [3, 1, 0, 2]), full 1 1 .int []]) (pipe [(0, 1)])
        [0] [0] [1] (scaled 1 false 2) (scaled 1 false 2) ∧
      0 < (if false then 2 else scaled 1 false 2) ∧ 0 + (0 + 1 - 0) ≤ (if false then 2 else scaled 1 false 2)) := by
  refine ⟨⟨staged_here (full 4 4 .int []) rfl (holds_of (by decide +kernel)),
      fun x hx => by rw [List.mem_singleton] at hx; subst hx; exact ⟨_, rfl, rfl, rfl⟩, by decide, ?_, rfl⟩,
    staged_here (full 1 1 .int []) rfl (holds_of (by decide +kernel)), by decide, by decide⟩
  intro h hh _ _ _ _ x y hx hy _ _
  rw [List.mem_singleton] at hh
  subst hh
  exact pipeline_full x hx y hy

theorem witness_PipelineStages_extend :
    (Sys2Proof.Claims.Staged pipeline (pipe [(0, 1)]) (List.range [0].length) [0] [1] 4 4 ∧
      Sys2Proof.Claims.RefsAre pipeline (.named 1) []) ∧
    (1 < (⟨0, 2, 2, 2⟩ : Place).h ∧ 0 ≤ (2 : Int) + (1 : Nat) ∧ (2 : Int) + (1 : Nat) < (4 : Nat) ∧
      allSome ([0].map fun h => Sys2Proof.Claims.frameSamples pipeline h 1 2) = some [ints [0, 2]] ∧
      allSome ([0, 1].map fun h => Sys2Proof.Claims.frameSamples uneven h 1 2) = some [ints [4, 5], []] ∧
      Sys2Proof.Claims.Typed pipeline [0] [ints [0, 2]] ∧
      Sys2Proof.Claims.typeOf pipeline 1 = Sys2Proof.Claims.typeOf pipeline 0) ∧
    (3 : Int) + (1 : Nat) ≥ (4 : Nat) :=
  ⟨⟨staged_here (full 4 4 .int []) rfl (holds_of (by decide +kernel)), rfl⟩, by
    unfold Sys2Proof.Claims.Typed; decide +kernel, by decide⟩

theorem witness_PipelineStages_first :
    (({ pipeline with rnd := some (pipe []) } : State).rnd = some (pipe []) ∧ ([0] : List Nat) ≠ [] ∧
      (pipe []).next = [] ∧ Sys2Proof.Claims.channelsOf (pipe []) [0] = some [0]) ∧
    (0 < pipeline.img.next ∧ assocGet pipeline.img.bufs 0 = some (full 2 2 .int (ints [3, 1, 0, 2]))) ∧
    pipeline.grants (pipeline.img.next + 0) (4, 4, Sys2Proof.Claims.typeOf pipeline 0) = true ∧ (pipe []).chans ≠ [] := by
  decide +kernel

theorem witness_SaveRow :
    (base.ctl.out = none ∧ pipeline.ctl.out = some [⟨100, 8, 2, 2⟩] ∧ pipeline.par.imageHeader = some image ∧
      Cfg.expectedPlanes pipeline.inp.params image pipeline.ctl.opt.pixelFormat = [(2, 2)] ∧
      pipeline.row 0 0 0 (1 + 1 - 0) = some (ints [3, 1])) ∧
    Sys2Proof.Claims.PlanesOk [⟨100, 8, 2, 2⟩] [(2, 2)] ∧ ¬ Sys2Proof.Claims.PlanesOk [⟨100, 8, 2, 1⟩] [(2, 2)] ∧
    (Sys2Proof.Claims.outSample pipeline image 0 0 0 (.int 3)).inside ⟨100, 8, 2, 2⟩ 0 ∧
    (Sys2Proof.Claims.outSample pipeline image 0 0 0 (.int 3)).off +
      (Sys2Proof.Claims.outSample pipeline image 0 0 0 (.int 3)).len ≤
        (Sys2Proof.Claims.outSample pipeline image 0 0 1 (.int 1)).off :=
  ⟨by decide +kernel, ⟨rfl, by
      intro i pl e hp he
      match i with
      | 0 => cases hp; cases he; decide
      | n + 1 => exact nomatch hp⟩, fun h => absurd (h.2 0 _ _ rfl rfl).2.1 (by decide),
    ⟨by decide, by decide +kernel⟩, by decide +kernel⟩

/-- `pipeline` with its section decoded, and these planes, channels and stages. -/
def decoded (planes chans : List Nat) (stages : List RStage) : State :=
  { pipeline with
    par := { pipeline.par with sect := [{ pending (.hf 0 0) 3 0 0 0 [] with state := .decoded }] }
    grp := { pipeline.grp with planes := planes }, ctl := { pipeline.ctl with out := none }
    rnd := some { pipe [] with chans := chans, stages := stages } }

/-- The state R.GROUP renders: a plane that is there, saved. -/
def grouped : State := (decoded [0] [] [.save 0 0]).setRnd (some { pipe [] with
  chans := [], stages := [.save 0 0]
  ready := Sys2Proof.Claims.readyAfter (decoded [0] [] [.save 0 0]) { pipe [] with chans := [], stages := [.save 0 0] } 0 })

theorem witness_GroupAndOutside :
    (commonPasses (Sys2Proof.Claims.readyAfter (decoded [] [0] []) { pipe [] with ready := [[0], [0]] } 0) = none ∧
      commonPasses (Sys2Proof.Claims.readyAfter (decoded [1] [0] []) (pipe []) 0) = some 1 ∧
      planeWritten (decoded [1] [0] []) frameM 1 = false) ∧
    (planeWritten (decoded [0] [] [.save 0 0]) frameM 0 = true ∧
      (decoded [0] [] [.save 0 0]).par.frame = some frameM) ∧
    renderFrame grouped = .ok () (ran renderFrame grouped) ∧ (ran renderFrame grouped).rnd.isSome = true ∧
    ((decoded [] [0] []).grp.planes = [] ∧ (decoded [] [0] []).rnd = some (pipe []) ∧ (pipe []).stages = []) :=
  ⟨by decide +kernel, by decide +kernel, ran_of (by decide +kernel), by decide +kernel, rfl, rfl, rfl⟩

/-- A canvas of 2×2 whose row 0 is outside the frame, with an Extend and a Save in the stage list. -/
def outer : State := decoded [] [0] [.extend (.named 1) ⟨0, 1, 2, 1⟩ 2 2, .save 0 0]

theorem witness_GroupAndOutside_outside :
    (outer.rnd = some { pipe [] with stages := [.extend (.named 1) ⟨0, 1, 2, 1⟩ 2 2, .save 0 0] } ∧
      Sys2Proof.Claims.rowsOutside 2 ⟨0, 1, 2, 1⟩ = [0] ∧
      afterExtend [.extend (.named 1) ⟨0, 1, 2, 1⟩ 2 2, .save 0 0] = [.save 0 0] ∧ outer.ctl.out = none) ∧
    Sys2Proof.Claims.RefsAre outer (.named 1) [] ∧
    (∀ h ∈ [0], (assocGet outer.img.bufs h).isSome = true ∧ ∀ y ∈ [0],
      outer.holds (Sys2Proof.Claims.typeOf outer h) h 0 y 2 1) ∧
    each (someRows none [2] [[0]] [.save 0 0]) runStage (Sys2Proof.Claims.padded outer [0] (.named 1) [] 2 [0]) =
      .ok () (ran (each (someRows none [2] [[0]] [.save 0 0]) runStage)
        (Sys2Proof.Claims.padded outer [0] (.named 1) [] 2 [0])) ∧
    (outer.par.imageHeader.bind fun ih => firstAlpha outer.inp.params ih 1) = none ∧
    [0].map (Sys2Proof.Claims.heightOf outer) = [2] := by
  refine ⟨by decide +kernel, rfl, ?_, ran_of (by decide +kernel), by decide +kernel, by decide +kernel⟩
  intro h hh
  rw [List.mem_singleton] at hh
  subst hh
  refine ⟨rfl, fun y hy => ?_⟩
  rw [List.mem_singleton] at hy
  subst hy
  exact holds_of (by decide +kernel)

theorem witness_GroupAndOutside_rows :
    [[5]].length = [12].length ∧
    ((someRows none [12] [[5]] [.inout (.named 8) [0] 0 1 0 0 true, .save 0 0])[0]?).isSome = true ∧
    ((someRows none [12] [[5]] [.inout (.named 8) [0] 0 1 0 0 true, .save 0 0])[0 + 1]?).isSome = true := by decide

/-- V-IB-2 and V-IB-3 at a small size, with a live WRITE view of columns 1 and 2. -/
def viewing : State := nextState (exec (.iRect 0 1 0 2 2 .write) (withBufs base [full 3 2 .int (ints [1, 2, 3, 4, 5, 6])]))

theorem free_of (l : List (Nat × Buffer)) (root : Nat) (rect : Rect) (mode : Access)
    (h : (l.all fun e => !e.2.forbids root rect mode) = true) : ∀ e ∈ l, e.2.forbids root rect mode = false := by
  intro e he
  have := List.all_eq_true.mp h e he
  simpa using this

theorem witness_ImageBuffers :
    (sizesFit params 100 50 .float = true ∧ sizesFit params (2 ^ 30) 1 .float = false ∧
      base.outOfMemory 0 (100, 50, .float) = false ∧
      (with_ base fun p => { p with allocRefused := some [(0, 0)] }).outOfMemory 0 (100, 50, .float) = true) ∧
    (assocGet viewing.img.bufs 0 = some (full 3 2 .int (ints [1, 2, 3, 4, 5, 6])) ∧ (1 : Nat) < 2 ∧ 2 ≤ (50 : Nat) ∧
      0 + 1 ≤ 3 ∧ 0 + 2 ≤ 2 ∧ 0 < viewing.img.next ∧ [0, 1].Nodup ∧ ¬ [1, 1].Nodup ∧
      (rootOf 0 (full 3 2 .int (ints [1, 2, 3, 4, 5, 6]))).1 < viewing.img.next ∧ viewing.img.handlesOk = true ∧
      (viewing.cell 1 0 0 .write).isSome = true ∧ viewing.cell 0 0 0 .read ≠ viewing.cell 1 0 0 .write) ∧
    Sys2Proof.Claims.ViewFree viewing 0 (full 3 2 .int (ints [1, 2, 3, 4, 5, 6])) 0 0 1 2 .write ∧
    ¬ Sys2Proof.Claims.ViewFree viewing 0 (full 3 2 .int (ints [1, 2, 3, 4, 5, 6])) 0 0 2 1 .write ∧
    Sys2Proof.Claims.ViewFree (withBufs base [full 3 2 .int (ints [1, 2, 3, 4, 5, 6])]) 0
      (full 3 2 .int (ints [1, 2, 3, 4, 5, 6])) 0 1 3 1 .write ∧
    (((withBufs base [full 3 2 .int []]).img.bufs.all fun e => !e.2.borrowsFrom 0) = true ∧
      (viewing.img.bufs.any fun e => e.2.borrowsFrom 0) = true ∧
      (assocGet viewing.img.bufs 1).map (fun b => decide (b.ownership = .owned)) = some false) :=
  ⟨by decide +kernel, by decide +kernel, free_of _ _ _ _ (by decide +kernel), by
      intro h
      have hv : (1, (assocGet viewing.img.bufs 1).getD (full 0 0 .int [])) ∈ viewing.img.bufs := by decide +kernel
      exact absurd (h _ hv) (by decide +kernel),
    free_of _ _ _ _ (by decide +kernel), by decide +kernel⟩

theorem witness_OutAndReferencesChangeOnlyByNamedOperations :
    nextHas (exec (.rSave 0 0 0 0 1) pipeline) (fun t => t.host.outMem != pipeline.host.outMem) = true ∧
    nextHas (exec .pFrameDone ((rendering 1).setCtl fun c => { c with fCanRef := true }))
      (fun t => t.img.refs != midFrame.img.refs) = true := by decide +kernel

/-! ### Control steps -/

/-- Program P1: after the colour profile the command returns Ok(IMAGE_INFO). -/
theorem test_color_profile : nextHas (exec .pColorProfile (midFrame.setCtl fun c => { c with busy := true, infoValid := false }))
    (fun t => t.ctl.infoValid && !t.ctl.busy && t.ret == .result (.ok .imageInfo) && t.ctl.phase == .needFrameHeaderToc) =
    true := by decide +kernel
/-- Program P3: flags F_CAN_REF give MODE = DECODE. -/
theorem test_frame_header : nextHas (exec .pFrameHeader (headers 4))
    (fun t => t.ctl.mode == .decode && t.ctl.fCanRef && !t.ctl.fLast && t.par.frame == some frameM) = true := by
  decide +kernel
/-- Program P1's TOC, here at bit 3: the section starts at byte 1. -/
theorem test_toc : nextHas (exec .pToc ((headers 4).setCtl fun c => { c with bitpos := 3 }))
    (fun t => t.par.sect == [pending .combined 0 1 4 0 []] && t.ctl.bitpos == 8 && t.ctl.phase == .awaitingSections) =
    true := by decide +kernel
/-- 40_parser.md R168, R170, R171: the slot receives what the pipeline leaves, the frame is destroyed and counted,
FRAME_READY raised. -/
theorem test_frame_done : nextHas (exec .pFrameDone ((saving none).setCtl fun c =>
      { c with fCanRef := true, fDisplay := true, busy := true }))
    (fun t => t.img.refs == [(1, [1])] && grid t 1 == [1, 2, 3, 4] && t.img.bufs.length == 1 && t.ctl.frameCount == 1 &&
      t.par.frame == none && !t.ctl.busy && t.ret == .result (.ok .frameReady) &&
      t.ctl.phase == .needFrameHeaderToc) = true := by decide +kernel
theorem test_finish : nextHas (exec .pFinish base) (fun t => t.ctl.phase == .finished) = true := by decide +kernel
/-- The only section of a frame: LfGroup, then FRAME_DONE. -/
theorem test_dispatch : nextHas (exec .pDispatch (oneSection (.lf 0) frameM id))
    (fun t => t.ctl.phase == .frameDone && t.par.sect.map Section.state == [.decoded]) = true := by decide +kernel
theorem test_lf_global : nextHas (exec (.sLfGlobal 0) (oneSection .lfGlobal frameM id))
    (fun t => t.grp.planes == [0] && t.grp.lfGlobal == some lfg && t.rnd.map Render.ready == some [[0]]) = true := by
  decide +kernel
theorem test_hf_global : nextHas (exec (.sHfGlobal 0) (oneSection .hfGlobal frameV id))
    (fun t => t.grp.hfGlobal == some { dequant := [], order := [[]] }) = true := by decide +kernel
/-- 43_group_decoder.md R243: the LF value, the block's three map entries, the tile's factors. -/
theorem test_lf_group : nextHas (exec (.sLfGroup 0 0) (lfState (maps8 0 [block8 0])))
    (fun t => [9, 12, 13, 14, 15, 16].map (values t) ==
      [ints [1], nats [0], nats [1, 0], nats [4], ints [5], ints [6]] && t.grp.hfMeta == some side8.maps) = true := by
  decide +kernel
/-- 43_group_decoder.md R243 where new buffers read as zero (47_image_buffer.md R391): the same. -/
theorem test_lf_group_zero_filled : nextHas (exec (.sLfGroup 0 0) (with_ (withBufs (lfState (maps8 0 [block8 0]))
      (buffers8.map fun b => { b with samples := freshSamples { params with allocZeroFill := true } b.width b.height b.ty }))
      fun p => { p with allocZeroFill := true }))
    (fun t => [12, 13, 14].map (values t) == [nats [0, 0], nats [1, 0], nats [4, 0]]) = true := by decide +kernel
/-- 43_group_decoder.md R245: a group of one block without nonzeros is its LF value. -/
theorem test_hf_group_block : nextHas (exec (.sHfGroup 0 0 0) (hfState buffers8))
    (fun t => t.ret == .none && [0, 1, 2].all fun h => values t h == List.replicate 64 (.flt 0x3F800000)) = true := by
  decide +kernel
theorem test_hf_group : nextHas (exec (.sHfGroup 0 0 0) (oneSection (.hf 0 0) frameM id)) (fun t => t.ret == .none) = true := by
  decide +kernel
/-- A step runs the operation at the fetch port: the word of SRC.AVAIL. HOST may not issue it (60_exceptions.md R430). -/
theorem test_step_fetch : nextHas (step (fed.withFetchWord 8 0x10)) (fun t => t.ret == .nat 3 && t.inp.fetch == []) = true := by
  decide +kernel
theorem test_step_issue : step (issued [0x10]) = .refused .notHostCommand ∧
    step (issued [0x02]) = .refused .noInfo := ⟨by rfl, by rfl⟩
theorem test_decode_table_word : decodeTableWord 8 0x20 = some .pFileHeader ∧ decodeTableWord 8 0x13 = none := by
  decide +kernel

end Sys2Proof.Tests
end

/-! Proofs about the parser (40_parser.md). -/

namespace Sys2Proof.Machine

/-- The source an operation reads is the one HOST holds under the handle of the PROCESS in progress. -/
theorem State.source_of_getElem? {s : State} {x : Source} (h : s.host.sources[s.ctl.src]? = some x) :
    s.source = x := by
  rw [State.source, h, Option.getD_some]

theorem State.available_of_getElem? {s : State} {x : Source} (h : s.host.sources[s.ctl.src]? = some x) :
    s.available = x.availEnd - x.pos := by
  rw [State.available, State.source_of_getElem? h]

/-- SRC.AVAIL completes in every state, and only the returned value changes. -/
theorem exec_srcAvail (s : State) : exec .srcAvail s = .next (s.setRet (.nat s.available)) := rfl

/-- Settles O10: SRC.AVAIL returns what is available, which is counted on HOST's source (R135). -/
theorem sourceAvailable : Obligations.SourceAvailable := by
  intro s x hsource
  rw [exec_srcAvail, State.available_of_getElem? hsource, State.setRet]

end Sys2Proof.Machine

/-! Proofs about the ANS histograms (41_ans.md R191 to R196). -/

namespace Sys2Proof.Machine

open Sys2Proof.Claims

variable {α β : Type}

/-! ### How operations end -/

/-- A sequence completes exactly where its first operation does and the second does after it. -/
theorem Op.bind_eq_ok {x : Op α} {f : α → Op β} {s t : State} {b : β} :
    (x >>= f) s = .ok b t ↔ ∃ a u, x s = .ok a u ∧ f a u = .ok b t := by
  rw [Op.bind_apply]
  cases x s <;> simp

/-- A failed check raises its kind where it stands, whatever follows. -/
theorem Op.check_bind_of_not {c : Bool} (hc : ¬ c = true) (k : Kind) (f : Unit → Op β) (s : State) :
    (check c k >>= f) s = .error (.fatal k) s := by
  rw [Bool.not_eq_true] at hc
  rw [hc]
  exact Op.bind_error (check_false k s) f

/-- A step that completes is an operation that completed. -/
theorem of_commitOrAbandon_ok {op : Op α} {s t : State} {a : α} (h : commitOrAbandon op s = .ok a t) :
    op s = .ok a t := by
  unfold commitOrAbandon at h
  cases hop : op s with
  | ok b u => rwa [hop] at h
  | error e u => rw [hop] at h; cases e <;> cases h

/-- An instruction whose returned value is no result of a command has completed its operation with that value: both
errors that are taken return a result. -/
theorem run_next_ret {op : Op OpValue} {s t : State} (h : run op s = .next t) (hret : ∀ r, t.ret ≠ .result r) :
    ∃ u, op s = .ok t.ret u := by
  unfold run at h
  cases hop : op s with
  | ok v u =>
    rw [hop] at h
    cases h
    exact ⟨u, rfl⟩
  | error e u =>
    rw [hop] at h
    cases e with
    | incomplete n => cases h; exact absurd rfl (hret _)
    | fatal k => cases h; exact absurd rfl (hret _)
    | fault f => cases h
    | refuse r => cases h

/-- Moving over no bits changes nothing. -/
@[simp] theorem moved_zero (s : State) : s.moved 0 = s := by
  unfold State.moved
  split
  · next r hr => simp only [State.setPar, Nat.add_zero, ← hr]
  · rfl

/-! ### Fields that are rejected -/

/-- What a function rejects whose every rejection is Format is a Format error where the bits begin. -/
theorem parse_rejects {f : Bits → Answer α} {s : State} (h : Rejects s f)
    (hf : ∀ b k, f b = .malformed k → k = .format) : parse f s = .error (.fatal .format) s := by
  obtain ⟨k, hk⟩ := h
  obtain ⟨seen, hseen⟩ := firstAnswer_malformed hk
  rw [parse_malformed hk, hf seen k hseen]

/-! ### The two halves of a histogram operation: decode a table, store it -/

/-- The histogram of an encoding. -/
def histDecode (k : HistKind) (las : Nat) : Op (List Nat) :=
  match k with
  | .single => histSingle las
  | .two => histTwo las
  | .flat => histFlat las
  | .complex => histComplex las

/-- Decode a table of an encoding, append it to a scope under the sum rule, and go on with the table and its index. -/
def histThen (k : HistKind) (sc : ScopeId) (las : Nat) (f : List Nat → Nat → Op β) : Op β := do
  let d ← histDecode k las
  let i ← storeHist sc las d
  f d i

/-- Each encoding's own operation decodes, stores and returns the table. -/
theorem exec_histOp (k : HistKind) (sc : ScopeId) (las : Nat) (s : State) :
    exec (histOp k sc las) s = run (commitOrAbandon (histThen k sc las fun d _ => pure (.nats d))) s := by
  cases k <;> rfl

/-- ANS.HIST reads the selector, decodes and stores as that encoding, and compiles the table it stored (R191). -/
theorem ansHist_eq (sc : ScopeId) (las : Nat) :
    ansHist sc las = (do
      let p ← getParams
      let k ← parse (Cfg.ansHistKind p)
      histThen k sc las fun d i => do
        compileAlias sc i las
        pure d) := by
  unfold ansHist
  congr 1; funext p; congr 1; funext k
  cases k <;> rfl

theorem exec_ansHist (sc : ScopeId) (las : Nat) (s : State) :
    exec (.ansHist sc las) s = run (commitOrAbandon (ansHist sc las >>= fun d => pure (.nats d))) s := rfl

/-- The sum rule as numbers (R196). -/
theorem histOk_iff {las : Nat} {d : List Nat} : histOk las d = true ↔ las ≤ 12 ∧ d.length = 2 ^ las ∧ d.sum = 4096 := by
  simp [histOk, and_assoc]

/-- A table that breaks the sum rule is a Format error, and nothing is stored. -/
theorem storeHist_rejects {las : Nat} {d : List Nat} (hd : ¬ histOk las d = true) (sc : ScopeId) (s : State) :
    storeHist sc las d s = .error (.fatal .format) s :=
  Op.check_bind_of_not hd .format _ s

theorem histThen_of_error {k : HistKind} {las : Nat} {s t : State} {e : Stop} (h : histDecode k las s = .error e t)
    (sc : ScopeId) (f : List Nat → Nat → Op β) : histThen k sc las f s = .error e t :=
  Op.bind_error h _

theorem histThen_of_not_histOk {k : HistKind} {las : Nat} {s t : State} {d : List Nat}
    (h : histDecode k las s = .ok d t) (hd : ¬ histOk las d = true) (sc : ScopeId) (f : List Nat → Nat → Op β) :
    histThen k sc las f s = .error (.fatal .format) t := by
  unfold histThen
  rw [Op.bind_ok h, Op.bind_error (storeHist_rejects hd sc t)]

/-- Where the storing completes, what follows ran on a table that satisfies the sum rule. -/
theorem histOk_of_histThen {k : HistKind} {sc : ScopeId} {las : Nat} {f : List Nat → Nat → Op β} {s t : State} {b : β}
    (h : histThen k sc las f s = .ok b t) : ∃ d i u, histOk las d = true ∧ f d i u = .ok b t := by
  obtain ⟨d, v, -, hd⟩ := Op.bind_eq_ok.1 h
  obtain ⟨i, u, hi, hf⟩ := Op.bind_eq_ok.1 hd
  refine ⟨d, i, u, ?_, hf⟩
  by_contra hn
  cases (storeHist_rejects hn sc v).symm.trans hi

/-! ### A table that completes satisfies the sum rule -/

theorem histOk_of_exec_histOp {k : HistKind} {sc : ScopeId} {las : Nat} {s t : State} {d : List Nat}
    (h : exec (histOp k sc las) s = .next t) (hret : t.ret = .nats d) : histOk las d = true := by
  rw [exec_histOp] at h
  obtain ⟨u, hu⟩ := run_next_ret h (by simp [hret])
  obtain ⟨d', i, v, hok, hv⟩ := histOk_of_histThen (of_commitOrAbandon_ok hu)
  rw [hret] at hv
  cases hv
  exact hok

theorem histOk_of_ansHist {sc : ScopeId} {las : Nat} {s t : State} {d : List Nat} (h : ansHist sc las s = .ok d t) :
    histOk las d = true := by
  rw [ansHist_eq, Op.bind_ok (getParams_apply s)] at h
  obtain ⟨k, _, -, hk⟩ := Op.bind_eq_ok.1 h
  obtain ⟨d', i, _, hok, hv⟩ := histOk_of_histThen hk
  obtain ⟨_, _, -, hw⟩ := Op.bind_eq_ok.1 hv
  cases hw
  exact hok

theorem histOk_of_exec_ansHist {sc : ScopeId} {las : Nat} {s t : State} {d : List Nat}
    (h : exec (.ansHist sc las) s = .next t) (hret : t.ret = .nats d) : histOk las d = true := by
  rw [exec_ansHist] at h
  obtain ⟨u, hu⟩ := run_next_ret h (by simp [hret])
  obtain ⟨d', v, hd, hv⟩ := Op.bind_eq_ok.1 (of_commitOrAbandon_ok hu)
  rw [hret] at hv
  cases hv
  exact histOk_of_ansHist hd

/-! ### Bits that are no histogram are a Format error -/

theorem histSingle_rejects {s : State} {las n : Nat} (h : NoHistogramHere s las .single n) :
    histSingle las s = .error (.fatal .format) (s.moved n) := by
  unfold histSingle
  rw [Op.bind_ok (getParams_apply s)]
  rcases h with ⟨x, hx, hlas⟩ | ⟨rfl, hr⟩
  · rw [Op.bind_ok (parse_ok hx), Op.check_bind_of_not (by simpa using hlas)]
  · rw [moved_zero, Op.bind_error (parse_rejects hr fun _ _ => asFormat_malformed)]

theorem histTwo_rejects {s : State} {las n : Nat} (h : NoHistogramHere s las .two n) :
    histTwo las s = .error (.fatal .format) (s.moved n) := by
  unfold histTwo
  rw [Op.bind_ok (getParams_apply s)]
  rcases h with ⟨a, b, m1, m2, ha, hb, rfl, hbad⟩ | ⟨rfl, hr⟩ | ⟨a, ha, hr⟩
  · rw [Op.bind_ok (parse_ok ha), Op.bind_ok (parse_ok hb), moved_moved, Op.check_bind_of_not]
    simp only [Bool.and_eq_true, decide_eq_true_eq]
    omega
  · rw [moved_zero, Op.bind_error (parse_rejects hr fun _ _ => asFormat_malformed)]
  · rw [Op.bind_ok (parse_ok ha), Op.bind_error (parse_rejects hr fun _ _ => asFormat_malformed)]

theorem histFlat_rejects {s : State} {las n : Nat} (h : NoHistogramHere s las .flat n) :
    histFlat las s = .error (.fatal .format) (s.moved n) := by
  unfold histFlat
  rw [Op.bind_ok (getParams_apply s)]
  rcases h with ⟨m, hm, hbad⟩ | ⟨rfl, hr⟩
  · rw [Op.bind_ok (parse_ok hm), Op.check_bind_of_not]
    simp only [Bool.and_eq_true, decide_eq_true_eq]
    omega
  · rw [moved_zero, Op.bind_error (parse_rejects hr fun _ _ => asFormat_malformed)]

/-- The complex encoding has no operand to check: its counts are rejected by their reader, or break the sum rule when
they are stored. -/
theorem histComplex_rejects {s : State} {las n : Nat} (h : NoHistogramHere s las .complex n) :
    histComplex las s = .error (.fatal .format) (s.moved n) ∨
      ∃ d, histComplex las s = .ok d (s.moved n) ∧ ¬ histOk las d = true := by
  unfold histComplex
  rw [Op.bind_ok (getParams_apply s)]
  rcases h with ⟨d, hd, hbad⟩ | ⟨rfl, hr⟩
  · exact .inr ⟨d, parse_ok hd, fun hok => hbad (histOk_iff.1 hok).2⟩
  · rw [moved_zero]
    exact .inl (parse_rejects hr fun _ _ => asFormat_malformed)

/-- In each encoding, bits that are no histogram stop the decoding, or give a table that breaks the sum rule. -/
theorem histDecode_rejects {s : State} {las n : Nat} {k : HistKind} (h : NoHistogramHere s las k n) :
    histDecode k las s = .error (.fatal .format) (s.moved n) ∨
      ∃ d, histDecode k las s = .ok d (s.moved n) ∧ ¬ histOk las d = true := by
  cases k with
  | single => exact .inl (histSingle_rejects h)
  | two => exact .inl (histTwo_rejects h)
  | flat => exact .inl (histFlat_rejects h)
  | complex => exact histComplex_rejects h

theorem histThen_rejects {s : State} {las n : Nat} {k : HistKind} (h : NoHistogramHere s las k n) (sc : ScopeId)
    (f : List Nat → Nat → Op β) : histThen k sc las f s = .error (.fatal .format) (s.moved n) := by
  rcases histDecode_rejects h with he | ⟨d, hd, hbad⟩
  · exact histThen_of_error he sc f
  · exact histThen_of_not_histOk hd hbad sc f

theorem exec_histOp_rejects {s : State} {las n : Nat} {k : HistKind} (h : NoHistogramHere s las k n) (sc : ScopeId) :
    exec (histOp k sc las) s = .next (trapEntry .format (s.moved n)) := by
  rw [exec_histOp]
  exact run_fatal (commitOrAbandon_fatal (histThen_rejects h sc _))

/-- A fatal error of the histogram of ANS.HIST is the trap of ANS.HIST. -/
theorem exec_ansHist_fatal {sc : ScopeId} {las : Nat} {s t : State} {k : Kind}
    (h : ansHist sc las s = .error (.fatal k) t) : exec (.ansHist sc las) s = .next (trapEntry k t) := by
  rw [exec_ansHist]
  exact run_fatal (commitOrAbandon_fatal (Op.bind_error h _))

theorem exec_ansHist_rejects {s : State} {las m n : Nat} {k : HistKind}
    (hk : s.answers (Cfg.ansHistKind s.inp.params) k m) (h : NoHistogramHere (s.moved m) las k n) (sc : ScopeId) :
    exec (.ansHist sc las) s = .next (trapEntry .format (s.moved (m + n))) := by
  apply exec_ansHist_fatal
  rw [ansHist_eq, Op.bind_ok (getParams_apply s), Op.bind_ok (parse_ok hk), histThen_rejects h, moved_moved]

theorem exec_ansHist_rejects_selector {s : State} (h : Rejects s (Cfg.ansHistKind s.inp.params)) (sc : ScopeId)
    (las : Nat) : exec (.ansHist sc las) s = .next (trapEntry .format s) := by
  apply exec_ansHist_fatal
  rw [ansHist_eq, Op.bind_ok (getParams_apply s), Op.bind_error (parse_rejects h fun _ _ => asFormat_malformed)]

/-- Settles O31: a stored table has passed the sum rule of R196, and each way to break it ends in Format, by the
encoding's own operation and through ANS.HIST. -/
theorem histogramSumRule : Obligations.HistogramSumRule := by
  refine ⟨?_, ?_, ?_, ?_⟩
  · intro s t sc las i d hi h hret
    rcases hi with rfl | ⟨k, rfl⟩
    · exact (histOk_iff.1 (histOk_of_exec_ansHist h hret)).2
    · exact (histOk_iff.1 (histOk_of_exec_histOp h hret)).2
  · exact fun s sc las k n h => exec_histOp_rejects h sc
  · exact fun s sc las k m n hk h => exec_ansHist_rejects hk h sc
  · exact fun s sc las h => exec_ansHist_rejects_selector h sc las

end Sys2Proof.Machine

/-! What reading a value can touch (20_memory.md R79, 40_parser.md R139 to R144, 41_ans.md R200 to R202, 42_huffman.md
R228). -/

namespace Sys2Proof.Machine

variable {α : Type}

theorem Keeps.of_ok {P : State → Prop} {op : Op α} {s t : State} {a : α} (hop : Keeps P op) (hs : P s)
    (h : op s = .ok a t) : P t := by
  have ht := hop s hs
  rwa [h] at ht

/-- A property of states that no update of reading from scope `sc` can break: the position, STAGE and its source, the
draws, the tables of the scope. -/
structure KeptByReading (sc : ScopeId) (P : State → Prop) : Prop where
  bitpos : ∀ s n, P s → P (s.setCtl fun c => { c with bitpos := n })
  stage : ∀ s g, P s → P (s.setPar fun p => { p with stage := g })
  reader : ∀ s r, P s → P (s.setPar fun p => { p with reader := r })
  source : ∀ s f, P s → P (s.setSource f)
  drawn : ∀ s, P s → P s.drawn
  tables : ∀ s e, P s → P (s.setEnt fun l => assocSet l sc e)

/-- The tables and buffers of the groups are no part of the reading. -/
theorem keptByReading_grp (sc : ScopeId) (g : Groups) : KeptByReading sc fun s => s.grp = g where
  bitpos _ _ h := h
  stage _ _ h := h
  reader _ _ h := h
  source _ _ h := h
  drawn _ h := h
  tables _ _ h := h

namespace KeptByReading

section

variable {sc : ScopeId} {P : State → Prop} (hP : KeptByReading sc P)
include hP

/-! ### Draws and the source -/

theorem draw : Keeps P draw := by
  intro s hs
  rw [draw_ok]
  exact hP.drawn s hs

theorem drawRange (lo hi : Nat) : Keeps P (drawRange lo hi) := .bind hP.draw fun _ => .pure _

theorem incomplete : Keeps P (incomplete : Op α) := .bind (.bind hP.draw fun _ => .pure _) fun _ => .stop _

theorem sourceRead (cap : Nat) : Keeps P (sourceRead cap) :=
  .bind .getState fun _ => .bind (hP.drawRange _ _) fun _ =>
    .bind (.upd fun s h => hP.source _ _ (hP.stage s _ h)) fun _ => .pure _

theorem fillLoop (want fuel : Nat) : Keeps P (fillLoop want fuel) := by
  induction fuel with
  | zero => exact hP.incomplete
  | succ fuel ih =>
    refine .bind .getState fun s => ?_
    dsimp only
    split
    · exact .pure ()
    · split
      · exact hP.incomplete
      · refine .bind hP.draw fun _ => .bind (hP.sourceRead _) fun k => ?_
        split
        · exact hP.incomplete
        · exact ih

theorem fill (want : Nat) : Keeps P (fill want) :=
  .bind (.upd fun s h => hP.stage s _ h) fun _ => .bind .getState fun _ => hP.fillLoop _ _

/-! ### Bits and parsed values -/

theorem setBitpos (n : Nat) : Keeps P (setBitpos n) := by
  intro s hs
  unfold Machine.setBitpos
  split
  · next heq => split at heq <;> cases heq; exact hP.bitpos s n hs
  · next heq => split at heq <;> cases heq; exact hs

theorem advance (n : Nat) : Keeps P (advance n) := by
  refine .bind .getState fun s => ?_
  cases s.par.reader with
  | some r => exact .upd fun t h => hP.reader t _ h
  | none => exact hP.setBitpos _

theorem needBits (n : Nat) : Keeps P (needBits n) := by
  refine .bind .getState fun s => ?_
  split
  · exact .pure ()
  · cases s.par.reader with
    | some r => exact .raise _
    | none => exact hP.fill _

theorem readBits (n : Nat) : Keeps P (readBits n) :=
  .bind (hP.needBits n) fun _ => .bind .getState fun _ => .bind (hP.advance n) fun _ => .pure _

theorem peekBits (n : Nat) : Keeps P (peekBits n) := by
  refine .bind .getState fun s => ?_
  cases s.par.reader with
  | some r => exact .bind .getState fun _ => .pure _
  | none => exact .bind (hP.needBits n) fun _ => .bind .getState fun _ => .pure _

theorem askLoop (f : Bits → Answer α) (fuel : Nat) : Keeps P (askLoop f fuel) := by
  induction fuel with
  | zero => exact hP.incomplete
  | succ fuel ih =>
    refine .bind .getState fun s => ?_
    cases firstAnswer f s.bitsHere with
    | parsed v n => exact .pure _
    | malformed k => exact .raise k
    | needMore =>
      cases s.par.reader with
      | some r => exact .raise _
      | none => exact .bind (hP.fill _) fun _ => ih

theorem parse (f : Bits → Answer α) : Keeps P (parse f) :=
  .bind (.bind .getState fun _ => hP.askLoop f _) fun _ => .bind (hP.advance _) fun _ => .pure _

/-! ### Symbols and values of the scope -/

theorem setScope (f : ScopeTables → ScopeTables) : Keeps P (setScope sc f) := .upd fun s h => hP.tables s _ h

theorem ansState : Keeps P (ansState sc) := by
  refine .bind .getState fun s => ?_
  cases (s.scope sc).ansState with
  | some w => exact .pure w
  | none =>
    dsimp only
    split
    · exact .bind (hP.readBits 32) fun _ => .bind (hP.setScope _) fun _ => .pure _
    · exact .stop _

theorem ansRefill (x : Nat) : Keeps P (ansRefill x) := by
  unfold Machine.ansRefill
  split
  · exact .bind (hP.readBits 16) fun _ => .pure _
  · exact .pure x

theorem ansRead (ctx : Nat) : Keeps P (ansRead sc ctx) :=
  .bind .getState fun _ => .bind (.present _ _) fun _ => .bind (.present _ _) fun _ => .bind hP.ansState fun _ =>
    .bind (hP.ansRefill _) fun _ => .bind (hP.setScope _) fun _ => .pure _

theorem consume (n : Nat) : Keeps P (consume n) := .bind (hP.needBits n) fun _ => hP.advance n

theorem huffReadTable (t : HuffTable) : Keeps P (huffReadTable t) := by
  refine .bind (hP.peekBits _) fun _ => .bind (.present _ _) fun e => ?_
  split
  · exact .bind (hP.consume _) fun _ => .bind (hP.peekBits _) fun _ => .bind (.present _ _) fun _ =>
      .bind (.present _ _) fun _ => .bind (hP.consume _) fun _ => .pure _
  · exact .bind (hP.consume _) fun _ => .pure _

theorem readSymbol (ctx : Nat) : Keeps P (readSymbol sc ctx) := by
  refine .bind .getState fun s => ?_
  cases (s.scope sc).coder with
  | ans => exact hP.ansRead ctx
  | huff => exact .bind .getState fun _ => .bind (.present _ _) fun _ => hP.huffReadTable _

theorem readValue (ctx : Nat) : Keeps P (readValue sc ctx) :=
  .bind (hP.readSymbol ctx) fun _ => .bind .getParams fun _ => hP.parse _

end

end KeptByReading

/-- What a block step has found is still there once it has read a value. -/
theorem readValue_grp {sc : ScopeId} {ctx v : Nat} {s t : State} (h : readValue sc ctx s = .ok v t) : t.grp = s.grp :=
  ((keptByReading_grp sc s.grp).readValue ctx).of_ok rfl h

end Sys2Proof.Machine

/-! Proofs about the block steps of the group decoder (43_group_decoder.md). -/

namespace Sys2Proof.Machine

open Sys2Proof.Claims

/-! ### What a block covers -/

theorem coveredBlocks_of_xtype {p : Params} {t : Nat} {x : XType} (hx : xtype p t = some x) :
    coveredBlocks p t = x.w / 8 * (x.h / 8) := by
  simp only [coveredBlocks, hx]

/-- A block covers the rectangle of positions from its corner on (R246). -/
theorem mem_coveredPositions {p : Params} {t bx byy : Nat} {x : XType} (hx : xtype p t = some x) {b : Nat × Nat} :
    b ∈ coveredPositions p t bx byy ↔ ∃ i j, i < x.w / 8 ∧ j < x.h / 8 ∧ b = (bx + i, byy + j) := by
  simp only [coveredPositions, hx, List.mem_map, List.mem_range]
  constructor
  · rintro ⟨k, hk, rfl⟩
    have hw : 0 < x.w / 8 := Nat.pos_of_mul_pos_right (Nat.zero_lt_of_lt hk)
    exact ⟨k % (x.w / 8), k / (x.w / 8), Nat.mod_lt _ hw, Nat.div_lt_of_lt_mul hk, rfl⟩
  · rintro ⟨i, j, hi, hj, rfl⟩
    refine ⟨i + x.w / 8 * j, ?_, ?_⟩
    · calc i + x.w / 8 * j < x.w / 8 * (j + 1) := by rw [Nat.mul_succ]; omega
        _ ≤ x.w / 8 * (x.h / 8) := Nat.mul_le_mul_left _ hj
    · rw [Nat.add_mul_mod_self_left, Nat.mod_eq_of_lt hi, Nat.add_mul_div_left _ _ (Nat.zero_lt_of_lt hi),
        Nat.div_eq_of_lt hi, Nat.zero_add]

/-- NZ_MAP after a count is recorded: the value at the listed positions of the channel, what it held elsewhere. -/
theorem assocGet_recordNz (m : List ((Nat × Nat × Nat) × Nat)) (c v : Nat) (l : List (Nat × Nat))
    (key : Nat × Nat × Nat) :
    assocGet (recordNz m c v l) key = if key.1 = c ∧ key.2 ∈ l then some v else assocGet m key := by
  induction l generalizing m with
  | nil => simp [recordNz]
  | cons b rest ih =>
    rw [recordNz, ih, assocGet_assocSet]
    by_cases hrest : key.1 = c ∧ key.2 ∈ rest
    · rw [if_pos hrest, if_pos ⟨hrest.1, .tail _ hrest.2⟩]
    · rw [if_neg hrest]
      exact if_congr (by simp only [Prod.ext_iff, List.mem_cons]; tauto) rfl rfl

/-! ### What a block step finds -/

theorem getHf_ok {s : State} {hf : HfBlock} (h : s.grp.hf = some hf) : getHf s = .ok hf s := by
  unfold getHf
  rw [Op.bind_ok (getState_apply s), h, present_some]

theorem getLfGlobal_ok {s : State} {g : LfGlobal} (h : s.grp.lfGlobal = some g) : getLfGlobal s = .ok g s := by
  unfold getLfGlobal
  rw [Op.bind_ok (getState_apply s), h, present_some]

theorem getHfMeta_ok {s : State} {m : HfMeta} (h : s.grp.hfMeta = some m) : getHfMeta s = .ok m s := by
  unfold getHfMeta
  rw [Op.bind_ok (getState_apply s), h, present_some]

theorem getFrame_ok {s : State} {fh : FrameHeader} (h : s.par.frame = some fh) : getFrame s = .ok fh s := by
  unfold getFrame
  rw [Op.bind_ok (getState_apply s), h, present_some]

theorem catalogued_ok {s : State} {t : Nat} {x : XType} (h : xtype s.inp.params t = some x) :
    catalogued t s = .ok x s := by
  unfold catalogued
  rw [Op.bind_ok (getParams_apply s), h]
  rfl

section

variable {s : State} {b : Nat × Nat} {hf : HfBlock} {fh : FrameHeader} {r : Rect} {m : HfMeta} {q : Nat} {g : LfGlobal}
  {side : Side}

theorem groupRect_ok (hb : BlockAt s b hf fh r m q g side) : groupRect s = .ok r s := by
  unfold groupRect
  rw [Op.bind_ok (getHf_ok hb.hfHere), Op.bind_ok (getFrame_ok hb.frameHere), hb.rectHere, present_some]

theorem blockQuant_ok (hb : BlockAt s b hf fh r m q g side) : blockQuant b s = .ok q s := by
  unfold blockQuant
  rw [Op.bind_ok (groupRect_ok hb), Op.bind_ok (getHfMeta_ok hb.metaHere)]
  exact Op.bind_ok (readSample_ok hb.quantHere) _

theorem blockContextOf_ok (hb : BlockAt s hf.blk hf fh r m q g side) (c t : Nat) :
    blockContextOf c t s = .ok (Cfg.blockContext s.inp.params c t q g.blockCtx) s := by
  unfold blockContextOf
  rw [Op.bind_ok (getHf_ok hb.hfHere), Op.bind_ok (blockQuant_ok hb), Op.bind_ok (getLfGlobal_ok hb.lfHere),
    Op.bind_ok (getParams_apply s), Op.pure_apply]

/-! ### B.NZ -/

/-- The HF block state after a count is accepted (R249, R257). -/
def HfBlock.counted (p : Params) (c t nz : Nat) (h : HfBlock) : HfBlock :=
  { h with
    nzLeft := nz
    nzMap := recordNz h.nzMap c (Cfg.nzStored p nz (coveredBlocks p t)) (coveredPositions p t h.blk.1 h.blk.2) }

/-- What B.NZ does once the count is read. -/
def acceptCount (p : Params) (c t nz : Nat) : Op Nat := do
  check (decide (nz ≤ Cfg.capacity p t)) .format
  setHf (HfBlock.counted p c t nz)
  pure nz

theorem decodeNz_of_readValue {u : State} {c pred t nz : Nat} {x : XType} (hx : xtype s.inp.params t = some x)
    (hb : BlockAt s hf.blk hf fh r m q g side)
    (hr : readValue (.ac hf.pass) (Cfg.nonZeroContext s.inp.params pred
      (Cfg.blockContext s.inp.params c t q g.blockCtx) g.blockCtx) s = .ok nz u) :
    decodeNz c pred t s = acceptCount s.inp.params c t nz u := by
  unfold decodeNz
  rw [Op.bind_ok (catalogued_ok hx), Op.bind_ok (blockContextOf_ok hb c t), Op.bind_ok (getHf_ok hb.hfHere),
    Op.bind_ok (getLfGlobal_ok hb.lfHere), Op.bind_ok (getParams_apply s), Op.bind_ok hr]
  rfl

end

theorem acceptCount_above {p : Params} {t nz : Nat} (h : Cfg.capacity p t < nz) (c : Nat) (u : State) :
    acceptCount p c t nz u = .error (.fatal .format) u :=
  Op.check_bind_of_not (by simpa using h) _ _ u

theorem acceptCount_within {p : Params} {t nz : Nat} (h : nz ≤ Cfg.capacity p t) (c : Nat) (u : State) :
    acceptCount p c t nz u =
      .ok nz (u.setGrp fun g => { g with hf := g.hf.map (HfBlock.counted p c t nz) }) := by
  unfold acceptCount
  rw [decide_eq_true h]
  rfl

theorem exec_bNz_ok {s u : State} {c pred t nz : Nat} (h : decodeNz c pred t s = .ok nz u) :
    exec (.bNz c pred t) s = .next (u.setRet (.nat nz)) :=
  run_ok (commitOrAbandon_ok (Op.bind_ok h _))

theorem exec_bNz_fatal {s u : State} {c pred t : Nat} {k : Kind} (h : decodeNz c pred t s = .error (.fatal k) u) :
    exec (.bNz c pred t) s = .next (trapEntry k u) :=
  run_fatal (commitOrAbandon_fatal (Op.bind_error h _))

/-- Changing an HF block state that is there, and returning a value. -/
theorem setHf_setRet {u : State} {hf : HfBlock} (h : u.grp.hf = some hf) (f : HfBlock → HfBlock) (v : OpValue) :
    (u.setGrp fun g => { g with hf := g.hf.map f }).setRet v = withHf u (f hf) v := by
  simp only [State.setGrp, State.setRet, withHf, h, Option.map_some]

/-- Settles O41: the count read is the budget and NZ_MAP's value over the rectangle the block covers, where the capacity
admits it; reading it keeps the HF block state it goes to. -/
theorem nonzeroCount : Obligations.NonzeroCount := by
  refine ⟨?_, fun p t => Nat.min_le_right _ _⟩
  intro s u c pred t nz x hf fh r m q g side hx hb hr
  have hdecode := decodeNz_of_readValue hx hb hr
  have hhf : u.grp.hf = some hf := by rw [readValue_grp hr, hb.hfHere]
  refine ⟨fun habove => ?_, fun hwithin => ⟨(hf.counted s.inp.params c t nz).nzMap, ?_, ?_, ?_⟩⟩
  · exact exec_bNz_fatal (hdecode.trans (acceptCount_above habove c u))
  · rw [exec_bNz_ok (hdecode.trans (acceptCount_within hwithin c u)), setHf_setRet hhf]
    rfl
  · intro i j hi hj
    rw [HfBlock.counted, assocGet_recordNz, if_pos ⟨rfl, (mem_coveredPositions hx).2 ⟨i, j, hi, hj, rfl⟩⟩,
      coveredBlocks_of_xtype hx, Cfg.nzStored]
    split <;> rfl
  · intro key hkey
    rw [HfBlock.counted, assocGet_recordNz, if_neg]
    rintro ⟨hc, hmem⟩
    obtain ⟨i, j, hi, hj, hpos⟩ := (mem_coveredPositions hx).1 hmem
    exact hkey i j hi hj (Prod.ext hc hpos)

end Sys2Proof.Machine

/-! Proofs about the walk of the tree (44_modular.md R288). -/

namespace Sys2Proof.Machine

open Sys2Proof.Claims

variable {t : Tree} {props : List Int} {n : Nat}

/-! ### One step of the walk -/

@[simp] theorem walkFrom_zero (t : Tree) (props : List Int) (n : Nat) : walkFrom t props 0 n = none := rfl

theorem walkFrom_leaf {l : Leaf} (h : t[n]? = some (.leaf l)) (k : Nat) : walkFrom t props (k + 1) n = some l := by
  simp only [walkFrom, h]

theorem walkFrom_split {p a b : Nat} {th : Int} (h : t[n]? = some (.split p th a b)) (k : Nat) :
    walkFrom t props (k + 1) n = walkFrom t props k (if propAt props p > th then a else b) := by
  simp only [walkFrom, h]

/-- A walk ends somewhere from nodes of the tree only. -/
theorem lt_length_of_walkFrom {k : Nat} {l : Leaf} (h : walkFrom t props k n = some l) : n < t.length := by
  by_contra hn
  cases k with
  | zero => cases h
  | succ k => simp [walkFrom, List.getElem?_eq_none (Nat.le_of_not_lt hn)] at h

theorem propAt_of_getElem? {p : Nat} {v : Int} (h : props[p]? = some v) : propAt props p = v := by
  rw [propAt, h, Option.getD_some]

/-! ### More fuel does not change where the walk ends -/

theorem walkFrom_succ {k : Nat} {l : Leaf} (h : walkFrom t props k n = some l) :
    walkFrom t props (k + 1) n = some l := by
  induction k generalizing n with
  | zero => cases h
  | succ k ih =>
    cases hn : t[n]? with
    | none => simp only [walkFrom, hn] at h; cases h
    | some node =>
      cases node with
      | leaf m => rwa [walkFrom_leaf hn] at h ⊢
      | split p th a b =>
        rw [walkFrom_split hn] at h ⊢
        exact ih h

theorem walkFrom_mono {j k : Nat} {l : Leaf} (h : walkFrom t props j n = some l) (hjk : j ≤ k) :
    walkFrom t props k n = some l := by
  induction hjk with
  | refl => exact h
  | step _ ih => exact walkFrom_succ ih

/-! ### The number of nodes is fuel enough -/

/-- The walk from node `n` ends after `k + 1` nodes and not before. -/
def EndsAfter (t : Tree) (props : List Int) (l : Leaf) (k n : Nat) : Prop :=
  walkFrom t props k n = none ∧ walkFrom t props (k + 1) n = some l

/-- A walk passes a node that is `i` nodes before the end, for every `i` up to its length. -/
theorem EndsAfter.passes {l : Leaf} {k : Nat} (h : EndsAfter t props l k n) {i : Nat} (hi : i ≤ k) :
    ∃ m, EndsAfter t props l i m := by
  induction k generalizing n with
  | zero => exact ⟨n, by rwa [Nat.le_zero.1 hi]⟩
  | succ k ih =>
    rcases Nat.le_succ_iff.1 hi with hik | rfl
    · obtain ⟨hnone, hsome⟩ := h
      cases hn : t[n]? with
      | none => simp only [walkFrom, hn] at hsome; cases hsome
      | some node =>
        cases node with
        | leaf m => rw [walkFrom_leaf hn] at hnone; cases hnone
        | split p th a b =>
          rw [walkFrom_split hn] at hnone hsome
          exact ih ⟨hnone, hsome⟩ hik
    · exact ⟨n, h⟩

/-- A node is one number of nodes from the end. -/
theorem EndsAfter.unique {l : Leaf} {i j m : Nat} (hi : EndsAfter t props l i m) (hj : EndsAfter t props l j m) :
    i = j := by
  obtain ⟨hi, hi'⟩ := hi
  obtain ⟨hj, hj'⟩ := hj
  by_contra hne
  rcases Nat.lt_or_gt_of_ne hne with hlt | hlt
  · cases hj.symm.trans (walkFrom_mono hi' hlt)
  · cases hi.symm.trans (walkFrom_mono hj' hlt)

/-- The nodes of a walk are different nodes of the tree, so that it has no more nodes than the tree. -/
theorem EndsAfter.lt_length {l : Leaf} {k : Nat} (h : EndsAfter t props l k n) : k < t.length := by
  choose node hnode using fun i : Fin (k + 1) => h.passes (Nat.le_of_lt_succ i.isLt)
  have hinj : Function.Injective fun i => (⟨node i, lt_length_of_walkFrom (hnode i).2⟩ : Fin t.length) := by
    intro i j hij
    have hnodes : node i = node j := congrArg Fin.val hij
    exact Fin.ext ((hnode i).unique (hnodes ▸ hnode j))
  simpa using Fintype.card_le_of_injective _ hinj

/-- What the walk finds with any fuel it finds with as much as the tree has nodes. -/
theorem walkFrom_length {k : Nat} {l : Leaf} (h : walkFrom t props k n = some l) :
    walkFrom t props t.length n = some l := by
  induction k with
  | zero => cases h
  | succ k ih =>
    cases hk : walkFrom t props k n with
    | none => exact walkFrom_mono h (EndsAfter.lt_length ⟨hk, h⟩)
    | some m =>
      have hm : m = l := Option.some.inj ((walkFrom_succ hk).symm.trans h)
      exact ih (hm ▸ hk)

/-! ### M.WALK -/

theorem exists_walkFrom_of_leads {l : Leaf} (h : Leads t props n l) : ∃ k, walkFrom t props k n = some l := by
  induction h with
  | leaf hn => exact ⟨1, walkFrom_leaf hn 0⟩
  | left hn hv _ ih =>
    obtain ⟨v, hv, hlt⟩ := hv
    obtain ⟨k, hk⟩ := ih
    exact ⟨k + 1, by rw [walkFrom_split hn, propAt_of_getElem? hv, if_pos hlt, hk]⟩
  | right hn hv _ ih =>
    obtain ⟨v, hv, hle⟩ := hv
    obtain ⟨k, hk⟩ := ih
    exact ⟨k + 1, by rw [walkFrom_split hn, propAt_of_getElem? hv, if_neg (not_lt.2 hle), hk]⟩

theorem walk_of_leads {l : Leaf} (h : Leads t props 0 l) : walk t props = some l := by
  obtain ⟨k, hk⟩ := exists_walkFrom_of_leads h
  exact walkFrom_length hk

theorem walkTree_ok {s : State} {l : Leaf} (ht : s.mod.tree = some t) (h : walk t props = some l) :
    walkTree props s = .ok l s := by
  have htree : getTree s = .ok t s := by
    unfold getTree
    rw [Op.bind_ok (getState_apply s), ht, present_some]
  unfold walkTree
  rw [Op.bind_ok htree, h, present_some]

theorem exec_mWalk_ok {s u : State} {l : Leaf} (h : walkTree props s = .ok l u) :
    exec (.mWalk props) s = .next (u.setRet (.leaf l)) :=
  run_ok (Op.bind_ok h _)

/-- Settles O46: a walk that leads to a leaf passes no node twice, so that the model's fuel, the number of nodes, is
enough for it. -/
theorem walkReachesLeaf : Obligations.WalkReachesLeaf := by
  intro s tree props l htree hleads
  exact exec_mWalk_ok (walkTree_ok htree (walk_of_leads hleads))

end Sys2Proof.Machine

/-! Proofs about writing samples into a buffer of one's own (47_image_buffer.md R393 to R396). -/

namespace Sys2Proof.Machine

variable {α β : Type} {s : State} {h w ht : Nat}

/-! ### Lists of answers -/

theorem mem_of_assocGet {κ : Type} [DecidableEq κ] {l : List (κ × β)} {a : κ} {b : β} (h : assocGet l a = some b) :
    (a, b) ∈ l := by
  induction l with
  | nil => cases h
  | cons e rest ih =>
    obtain ⟨k, v⟩ := e
    rw [assocGet] at h
    split at h
    · next hk => cases h; subst hk; exact .head _
    · exact .tail _ (ih h)

theorem mem_assocSet {κ : Type} [DecidableEq κ] {l : List (κ × β)} {a : κ} {b : β} {e : κ × β}
    (h : e ∈ assocSet l a b) : e = (a, b) ∨ e ∈ l := by
  induction l with
  | nil => exact .inl (List.mem_singleton.1 h)
  | cons x rest ih =>
    obtain ⟨k, v⟩ := x
    rw [assocSet] at h
    split at h
    · next hk =>
      subst hk
      exact (List.mem_cons.1 h).imp_right (.tail _)
    · rcases List.mem_cons.1 h with rfl | hr
      · exact .inr (.head _)
      · exact (ih hr).imp_right (.tail _)

theorem assocGet_filter {κ : Type} [DecidableEq κ] (f : κ → Bool) (l : List (κ × β)) {a : κ} (ha : f a = true) :
    assocGet (l.filter fun e => f e.1) a = assocGet l a := by
  induction l with
  | nil => rfl
  | cons e rest ih =>
    obtain ⟨k, v⟩ := e
    by_cases hk : k = a
    · subst hk
      simp only [List.filter_cons, ha, assocGet, if_true]
    · rw [assocGet, if_neg hk, ← ih, List.filter_cons]
      split
      · rw [assocGet, if_neg hk]
      · rfl

/-- A list whose every entry is answered. -/
theorem allSome_range {f : Nat → Option α} {l : List α} {n : Nat} (hn : l.length = n) (hf : ∀ k, k < n → f k = l[k]?) :
    allSome ((List.range n).map f) = some l := by
  subst hn
  induction l generalizing f with
  | nil => rfl
  | cons a rest ih =>
    have hrest : allSome ((List.range rest.length).map (f ∘ Nat.succ)) = some rest :=
      ih fun k hk => hf (k + 1) (Nat.succ_lt_succ hk)
    rw [List.length_cons, List.range_succ_eq_map, List.map_cons, List.map_map, hf 0 (Nat.succ_pos _)]
    simp only [List.getElem?_cons_zero, allSome, hrest]

/-- Answers in two stages are the answers of the second stage to those of the first. -/
theorem allSome_bind {γ : Type} {f : γ → Option α} {g : α → Option β} {xs : List γ} {l : List β}
    (h : allSome (xs.map fun x => (f x).bind g) = some l) :
    ∃ vs, allSome (xs.map f) = some vs ∧ allSome (vs.map g) = some l := by
  induction xs generalizing l with
  | nil => exact ⟨[], rfl, h⟩
  | cons x rest ih =>
    rw [List.map_cons] at h ⊢
    cases hv : f x with
    | none => rw [hv] at h; cases h
    | some v =>
      rw [hv, Option.bind_some] at h
      cases hz : g v with
      | none => rw [hz] at h; cases h
      | some z =>
        rw [hz] at h
        cases hr : allSome (rest.map fun x => (f x).bind g) with
        | none => simp only [allSome, hr] at h; cases h
        | some zs =>
          obtain ⟨vs, hvs, hgs⟩ := ih hr
          refine ⟨v :: vs, by simp only [allSome, hvs], ?_⟩
          simp only [allSome, hr] at h
          simpa only [List.map_cons, allSome, hz, hgs] using h

/-! ### A buffer of one's own -/

/-- `h` is an owned integer buffer of `w` columns and `ht` rows, and no live view looks at it. -/
structure State.Sole (s : State) (h w ht : Nat) : Prop where
  buffer : ∃ b, assocGet s.img.bufs h = some b ∧ b.width = w ∧ b.height = ht ∧ b.ty = .int ∧ b.ownership = .owned
  alone : ∀ e ∈ s.img.bufs, (rootOf e.1 e.2).1 = h → e.1 = h

theorem rootOf_owned {b : Buffer} (hb : b.ownership = .owned) (h : Nat) : rootOf h b = (h, 0, 0) := by
  rw [rootOf, hb]

theorem forbids_root {v : Buffer} {root : Nat} {r : Rect} {mode : Access} (h : v.forbids root r mode = true) (k : Nat) :
    (rootOf k v).1 = root := by
  unfold Buffer.forbids at h
  unfold rootOf
  split at h
  · cases h
  · simp only [Bool.and_eq_true, decide_eq_true_eq] at h
    exact h.1.1

theorem State.Sole.cell (hs : s.Sole h w ht) {x y : Nat} (hx : x < w) (hy : y < ht) (mode : Access) :
    s.cell h x y mode = some (h, y * w + x) := by
  obtain ⟨⟨b, hb, rfl, rfl, -, hown⟩, halone⟩ := hs
  have hfree : ∀ x y, clashes s.img.bufs h h x y mode = false := by
    intro x y
    rw [clashes, List.any_eq_false]
    intro e he hclash
    simp only [Bool.and_eq_true, decide_eq_true_eq] at hclash
    exact hclash.1 (halone e he (forbids_root hclash.2 e.1))
  have hwritable : b.writable = true := by rw [Buffer.writable, hown]
  simp [State.cell, hb, hx, hy, rootOf_owned hown, hfree, hwritable]

theorem State.Sole.canWrite (hs : s.Sole h w ht) {x y : Nat} (hx : x < w) (hy : y < ht) :
    s.canWrite .int h x y = true := by
  obtain ⟨b, hb, -, -, hty, -⟩ := hs.buffer
  simp [State.canWrite, hs.cell hx hy, hb, hty]

/-- A cell lies in the root of the buffer or view it is reached through. -/
theorem exists_root_of_cell {k x y : Nat} {mode : Access} {c : Nat × Nat} (hc : s.cell k x y mode = some c) :
    ∃ b, (k, b) ∈ s.img.bufs ∧ c.1 = (rootOf k b).1 := by
  unfold State.cell at hc
  cases hb : assocGet s.img.bufs k with
  | none => rw [hb] at hc; cases hc
  | some b =>
    refine ⟨b, mem_of_assocGet hb, ?_⟩
    rw [hb] at hc
    dsimp only at hc
    repeat' split at hc
    all_goals cases hc
    rfl

/-- No other holder reads one's own buffer. -/
theorem State.Sole.cell_other (hs : s.Sole h w ht) {k x y : Nat} {mode : Access} {c : Nat × Nat} (hk : k ≠ h)
    (hc : s.cell k x y mode = some c) : c.1 ≠ h := by
  obtain ⟨b, hb, hroot⟩ := exists_root_of_cell hc
  exact fun hch => hk (hs.alone _ hb (hroot.symm.trans hch))

/-! ### One sample -/

/-- A sample written into one's own buffer. -/
theorem State.Sole.putSample_eq (hs : s.Sole h w ht) {x y : Nat} (hx : x < w) (hy : y < ht) (v : Sample) :
    ∃ b, assocGet s.img.bufs h = some b ∧ s.putSample h x y v = s.setImg fun i =>
      { i with bufs := assocSet i.bufs h { b with samples := storeWrite b.samples (y * w + x) v } } := by
  obtain ⟨b, hb, -⟩ := hs.buffer
  exact ⟨b, hb, by simp only [State.putSample, hs.cell hx hy, hb]⟩

theorem State.Sole.putSample (hs : s.Sole h w ht) {x y : Nat} (hx : x < w) (hy : y < ht) (v : Sample) :
    (s.putSample h x y v).Sole h w ht := by
  obtain ⟨b, hb, heq⟩ := hs.putSample_eq hx hy v
  obtain ⟨⟨c, hc, hshape⟩, halone⟩ := hs
  cases hb.symm.trans hc
  rw [heq]
  refine ⟨⟨_, (assocGet_assocSet _ _ _ _).trans (if_pos rfl), hshape⟩, fun e he hroot => ?_⟩
  rcases mem_assocSet he with rfl | he
  · rfl
  · exact halone e he hroot

theorem intAt_eq_bind (s : State) (k x y : Nat) : s.intAt k x y = (s.sample k x y).bind Sample.int? := by
  unfold State.intAt
  cases s.sample k x y <;> rfl

theorem State.Sole.sample (hs : s.Sole h w ht) {x y : Nat} (hx : x < w) (hy : y < ht) :
    s.sample h x y = s.sampleIn (h, y * w + x) := by
  rw [State.sample, hs.cell hx hy]

theorem index_inj {w x y x' y' : Nat} (hx : x < w) (hx' : x' < w) (h : y * w + x = y' * w + x') : x = x' ∧ y = y' := by
  have hxx : x = x' := by simpa only [Nat.mul_add_mod_of_lt hx, Nat.mul_add_mod_of_lt hx'] using congrArg (· % w) h
  subst hxx
  exact ⟨rfl, Nat.eq_of_mul_eq_mul_right (Nat.zero_lt_of_lt hx) (Nat.add_right_cancel h)⟩

/-- What one's own buffer holds after a write. -/
theorem State.Sole.sample_putSample (hs : s.Sole h w ht) {x y x' y' : Nat} (hx : x < w) (hy : y < ht) (v : Sample)
    (hx' : x' < w) (hy' : y' < ht) :
    (s.putSample h x y v).sample h x' y' = if x' = x ∧ y' = y then some v else s.sample h x' y' := by
  rw [(hs.putSample hx hy v).sample hx' hy', hs.sample hx' hy']
  obtain ⟨b, hb, heq⟩ := hs.putSample_eq hx hy v
  simp only [State.sampleIn, heq, State.setImg_img, assocGet_assocSet, if_true, hb]
  split
  · next hxy =>
    obtain ⟨rfl, rfl⟩ := hxy
    exact storeRead_write_same _ _ _
  · next hne => exact storeRead_write_other _ _ _ _ fun hidx => hne (index_inj hx' hx hidx)

/-- A write into one's own buffer is seen by no other holder. -/
theorem State.Sole.sample_putSample_other (hs : s.Sole h w ht) {x y k : Nat} (hx : x < w) (hy : y < ht) (v : Sample)
    (hk : k ≠ h) (x' y' : Nat) : (s.putSample h x y v).sample k x' y' = s.sample k x' y' := by
  unfold State.sample
  rw [putSample_cell]
  cases hc : s.cell k x' y' .read with
  | none => rfl
  | some c =>
    obtain ⟨b, hb, heq⟩ := hs.putSample_eq hx hy v
    simp only [State.sampleIn, heq, State.setImg_img, assocGet_assocSet, if_neg (hs.cell_other hk hc)]

/-! ### Many samples -/

/-- The state with the integers of `g` written at these positions in order. -/
def State.paint (s : State) (h : Nat) (g : Nat × Nat → Int) (ps : List (Nat × Nat)) : State :=
  ps.foldl (fun t p => t.putSample h p.1 p.2 (.int (g p))) s

variable {g : Nat × Nat → Int}

theorem paint_cons (p : Nat × Nat) (ps : List (Nat × Nat)) :
    s.paint h g (p :: ps) = (s.putSample h p.1 p.2 (.int (g p))).paint h g ps := rfl

theorem paint_append (ps qs : List (Nat × Nat)) : s.paint h g (ps ++ qs) = (s.paint h g ps).paint h g qs :=
  List.foldl_append

@[simp] theorem paint_nil : s.paint h g [] = s := rfl

@[simp] theorem putSample_inp (x y : Nat) (v : Sample) : (s.putSample h x y v).inp = s.inp := by
  unfold State.putSample
  split
  · rfl
  · split <;> rfl

@[simp] theorem paint_inp (ps : List (Nat × Nat)) : (s.paint h g ps).inp = s.inp := by
  induction ps generalizing s with
  | nil => rfl
  | cons p rest ih => rw [paint_cons, ih, putSample_inp]

/-- Positions of a buffer of `w` columns and `ht` rows. -/
def Inside (w ht : Nat) (ps : List (Nat × Nat)) : Prop := ∀ p ∈ ps, p.1 < w ∧ p.2 < ht

theorem State.Sole.paint (hs : s.Sole h w ht) {ps : List (Nat × Nat)} (hps : Inside w ht ps) :
    (s.paint h g ps).Sole h w ht := by
  induction ps generalizing s with
  | nil => exact hs
  | cons p rest ih =>
    obtain ⟨⟨hx, hy⟩, hrest⟩ := List.forall_mem_cons.1 hps
    exact ih (hs.putSample hx hy _) hrest

/-- A painted buffer reads as the painting where it has been painted. -/
theorem State.Sole.intAt_paint (hs : s.Sole h w ht) {ps : List (Nat × Nat)} (hps : Inside w ht ps) {p : Nat × Nat}
    (hp : p ∈ ps ∨ s.intAt h p.1 p.2 = some (g p)) (hx : p.1 < w) (hy : p.2 < ht) :
    (s.paint h g ps).intAt h p.1 p.2 = some (g p) := by
  induction ps generalizing s with
  | nil => exact hp.resolve_left (by simp)
  | cons q rest ih =>
    obtain ⟨⟨hqx, hqy⟩, hrest⟩ := List.forall_mem_cons.1 hps
    refine ih (hs.putSample hqx hqy _) hrest (or_iff_not_imp_left.2 fun hnot => ?_)
    rw [intAt_eq_bind, hs.sample_putSample hqx hqy _ hx hy]
    split
    · next hpq => rw [show p = q from Prod.ext hpq.1 hpq.2]; rfl
    · next hpq =>
      rw [← intAt_eq_bind]
      refine hp.resolve_left fun hmem => ?_
      rcases List.mem_cons.1 hmem with rfl | hmem
      · exact hpq ⟨rfl, rfl⟩
      · exact hnot hmem

theorem State.Sole.intAt_paint_other (hs : s.Sole h w ht) {ps : List (Nat × Nat)} (hps : Inside w ht ps) {k : Nat}
    (hk : k ≠ h) : (s.paint h g ps).intAt k = s.intAt k := by
  induction ps generalizing s with
  | nil => rfl
  | cons q rest ih =>
    obtain ⟨⟨hx, hy⟩, hrest⟩ := List.forall_mem_cons.1 hps
    rw [paint_cons, ih (hs.putSample hx hy _) hrest]
    funext x y
    rw [intAt_eq_bind, hs.sample_putSample_other hx hy _ hk, ← intAt_eq_bind]

/-! ### The operations -/

theorem State.Sole.putInt_ok (hs : s.Sole h w ht) {x y : Nat} (hx : x < w) (hy : y < ht) {v : Int}
    (hv : fitsSample s.inp.params v = true) : putInt h x y v s = .ok () (s.putSample h x y (.int v)) := by
  unfold putInt
  rw [Op.bind_ok (getParams_apply s), hv, Op.bind_ok (check_true _ s)]
  exact writeSample_ok (hs.canWrite hx hy)

/-- The places `place k` of a line of samples from index `k` on. -/
def linePlaces (place : Nat → Nat × Nat) (k : Nat) (l : List Int) : List (Nat × Nat) :=
  (List.range' k l.length).map place

/-- Storing a line of samples, each at the place of its index, paints those places. -/
theorem State.Sole.each_putInt_ok (hs : s.Sole h w ht) {place : Nat → Nat × Nat} {l : List Int} {k : Nat}
    (hl : ∀ e ∈ l.zipIdx k, (place e.2).1 < w ∧ (place e.2).2 < ht ∧ fitsSample s.inp.params e.1 = true ∧
      g (place e.2) = e.1) :
    each (l.zipIdx k) (fun e => putInt h (place e.2).1 (place e.2).2 e.1) s =
      .ok () (s.paint h g (linePlaces place k l)) := by
  induction l generalizing s k with
  | nil => rfl
  | cons v rest ih =>
    rw [List.zipIdx_cons] at hl ⊢
    obtain ⟨⟨hx, hy, hv, hg⟩, hrest⟩ := List.forall_mem_cons.1 hl
    rw [each, Op.bind_ok (hs.putInt_ok hx hy hv), linePlaces, List.length_cons, List.range'_succ, List.map_cons,
      paint_cons, hg]
    exact ih (hs.putSample hx hy _) (by simpa only [putSample_inp] using hrest)

theorem putRow_eq_each (y k : Nat) (l : List Int) :
    putRow h y k l = each (l.zipIdx k) fun e => putInt h (e.2, y).1 (e.2, y).2 e.1 := by
  induction l generalizing k with
  | nil => rfl
  | cons v rest ih => rw [putRow, ih, List.zipIdx_cons, each]

theorem putColumn_eq_each (x k : Nat) (l : List Int) :
    putColumn h x k l = each (l.zipIdx k) fun e => putInt h (x, e.2).1 (x, e.2).2 e.1 := by
  induction l generalizing k with
  | nil => rfl
  | cons v rest ih => rw [putColumn, ih, List.zipIdx_cons, each]

/-- A loop whose every round paints paints what its rounds do. -/
theorem each_paint_ok {js : List Nat} {body : Nat → Op Unit} {places : Nat → List (Nat × Nat)}
    (hin : ∀ j ∈ js, Inside w ht (places j))
    (hbody : ∀ j ∈ js, ∀ ps, Inside w ht ps →
      body j (s.paint h g ps) = .ok () ((s.paint h g ps).paint h g (places j))) :
    ∀ ps, Inside w ht ps →
      each js body (s.paint h g ps) = .ok () (s.paint h g (ps ++ js.flatMap places)) := by
  induction js with
  | nil => intro ps _; rw [List.flatMap_nil, List.append_nil]; rfl
  | cons j rest ih =>
    intro ps hps
    obtain ⟨hj, hrest⟩ := List.forall_mem_cons.1 hin
    obtain ⟨hbj, hbrest⟩ := List.forall_mem_cons.1 hbody
    rw [each, Op.bind_ok (hbj ps hps), ← paint_append, List.flatMap_cons, ← List.append_assoc]
    exact ih hrest hbrest _ (List.forall_mem_append.2 ⟨hps, hj⟩)

theorem intRow_ok {k n y : Nat} {l : List Int} (hl : s.intRow k n y = some l) : intRow k n y s = .ok l s := by
  unfold State.intRow at hl
  simp only [intAt_eq_bind] at hl
  obtain ⟨vs, hvs, hints⟩ := allSome_bind hl
  have hrow : s.row k y 0 n = some vs := by simpa only [State.row, Nat.zero_add] using hvs
  unfold intRow
  rw [Op.bind_ok (readRow_ok hrow)]
  exact collect_ok (g := Sample.int?) vs (fun _ _ _ h => asInt_ok h) hints

theorem intColumn_ok {k n x : Nat} {l : List Int} (hl : s.intColumn k n x = some l) : intColumn k n x s = .ok l s :=
  collect_ok (g := fun y => s.intAt k x y) _ (fun _ _ _ h => getInt_ok h) hl

theorem intRow_congr {t : State} {k : Nat} (h : t.intAt k = s.intAt k) (n y : Nat) :
    t.intRow k n y = s.intRow k n y := by
  rw [State.intRow, State.intRow, h]

theorem intColumn_congr {t : State} {k : Nat} (h : t.intAt k = s.intAt k) (n x : Nat) :
    t.intColumn k n x = s.intColumn k n x := by
  rw [State.intColumn, State.intColumn, h]

/-! ### Allocating and releasing -/

theorem handles_lt (hs : s.img.handlesOk = true) {e : Nat × Buffer} (he : e ∈ s.img.bufs) :
    e.1 < s.img.next ∧ (rootOf e.1 e.2).1 < s.img.next := by
  simpa using List.all_eq_true.1 hs e he

/-- An allocated buffer is one's own. -/
theorem sole_allocated (hs : s.img.handlesOk = true) (w ht : Nat) : (s.allocated w ht .int).Sole s.img.next w ht := by
  refine ⟨⟨_, (assocGet_assocSet _ _ _ _).trans (if_pos rfl), rfl, rfl, rfl, rfl⟩, ?_⟩
  intro e he hroot
  rcases mem_assocSet he with rfl | he
  · rfl
  · exact absurd hroot (handles_lt hs he).2.ne

theorem assocSet_of_assocGet_none {κ : Type} [DecidableEq κ] {l : List (κ × β)} {a : κ} (h : assocGet l a = none)
    (b : β) : assocSet l a b = l ++ [(a, b)] := by
  induction l with
  | nil => rfl
  | cons e rest ih =>
    obtain ⟨k, v⟩ := e
    rw [assocGet] at h
    split at h
    · cases h
    · next hk => rw [assocSet, if_neg hk, ih h, List.cons_append]

theorem assocGet_next (hs : s.img.handlesOk = true) : assocGet s.img.bufs s.img.next = none := by
  cases h : assocGet s.img.bufs s.img.next with
  | none => rfl
  | some b => exact absurd (handles_lt hs (mem_of_assocGet h)).1 (Nat.lt_irrefl _)

theorem clashes_allocated (hs : s.img.handlesOk = true) (w ht : Nat) (ty : SampleType) (k root x y : Nat)
    (mode : Access) :
    clashes (s.allocated w ht ty).img.bufs k root x y mode = clashes s.img.bufs k root x y mode := by
  simp [clashes, State.allocated, assocSet_of_assocGet_none (assocGet_next hs), Buffer.forbids]

theorem assocGet_allocated_other {k : Nat} (hk : k ≠ s.img.next) (w ht : Nat) (ty : SampleType) :
    assocGet (s.allocated w ht ty).img.bufs k = assocGet s.img.bufs k := by
  rw [State.allocated, State.setImg_img, assocGet_assocSet, if_neg hk]

/-- No cell lies in a buffer that is yet to be allocated. -/
theorem cell_ne_next {k x y : Nat} {mode : Access} {c : Nat × Nat} (hs : s.img.handlesOk = true)
    (hc : s.cell k x y mode = some c) : c.1 ≠ s.img.next := by
  obtain ⟨b, hb, hroot⟩ := exists_root_of_cell hc
  exact hroot ▸ (handles_lt hs hb).2.ne

/-- An allocation moves no cell of another buffer. -/
theorem cell_allocated_other (hs : s.img.handlesOk = true) (w ht : Nat) (ty : SampleType) {k : Nat}
    (hk : k ≠ s.img.next) (x y : Nat) (mode : Access) :
    (s.allocated w ht ty).cell k x y mode = s.cell k x y mode := by
  unfold State.cell
  rw [assocGet_allocated_other hk]
  cases hb : assocGet s.img.bufs k with
  | none => rfl
  | some b =>
    have hroot : (rootOf k b).1 ≠ s.img.next := (handles_lt hs (mem_of_assocGet hb)).2.ne
    simp only [assocGet_allocated_other hroot, clashes_allocated hs]

theorem intAt_allocated_other (hs : s.img.handlesOk = true) (w ht : Nat) (ty : SampleType) {k : Nat}
    (hk : k ≠ s.img.next) : (s.allocated w ht ty).intAt k = s.intAt k := by
  funext x y
  rw [intAt_eq_bind, intAt_eq_bind]
  unfold State.sample
  rw [cell_allocated_other hs w ht ty hk]
  cases hc : s.cell k x y .read with
  | none => rfl
  | some c => simp only [State.sampleIn, assocGet_allocated_other (cell_ne_next hs hc)]

theorem assocGet_released {k : Nat} {l : List Nat} (hk : k ∉ l) :
    assocGet (s.released l).img.bufs k = assocGet s.img.bufs k := by
  induction l generalizing s with
  | nil => rfl
  | cons h rest ih =>
    obtain ⟨hkh, hrest⟩ := not_or.1 (mt List.mem_cons.2 hk)
    rw [State.released, ih hrest]
    exact assocGet_filter (fun a => a != h) _ (by simpa using hkh)

theorem mem_released {e : Nat × Buffer} {l : List Nat} (he : e ∈ (s.released l).img.bufs) : e ∈ s.img.bufs := by
  induction l generalizing s with
  | nil => exact he
  | cons h rest ih => exact List.mem_of_mem_filter (ih he)

/-- One's own buffer outlives the release of others, with what it holds. -/
theorem State.Sole.released (hs : s.Sole h w ht) {l : List Nat} (hl : h ∉ l) : (s.released l).Sole h w ht :=
  ⟨by rw [assocGet_released hl]; exact hs.buffer, fun e he => hs.alone e (mem_released he)⟩

theorem State.Sole.intAt_released (hs : s.Sole h w ht) {l : List Nat} (hl : h ∉ l) {x y : Nat} (hx : x < w)
    (hy : y < ht) : (s.released l).intAt h x y = s.intAt h x y := by
  rw [intAt_eq_bind, intAt_eq_bind, (hs.released hl).sample hx hy, hs.sample hx hy]
  simp only [State.sampleIn, assocGet_released hl]

end Sys2Proof.Machine

/-! Proofs about the squeeze transforms (44_modular.md R306 to R311). -/

namespace Sys2Proof.Machine

open Sys2Proof.Claims

variable {s : State}

/-! ### One line -/

theorem sar_one (a : Int) : sar a 1 = a / 2 := Int.fdiv_eq_ediv_of_nonneg a (by decide)

/-- The pair rule inverts the forward rule: `2a + d` is `2 * first` but for the parity bit that the average's rounding
dropped or added (R309). -/
theorem pairFirst_pairAverage (f g : Int) : pairFirst (pairAverage f g) (f - g) = f := by
  unfold pairFirst pairAverage lowBit
  rw [sar_one, sar_one]
  split <;> split <;> omega

/-- The inverse sees the neighbours the forward transform saw, so that it adds the tendency that was taken off. -/
theorem unsqueeze_averages_residuals (before : Option Int) (l : List Int) :
    unsqueeze before (averages l) (residuals before l) = l := by
  induction before, l using residuals.induct with
  | case1 before f g rest ih =>
    rw [averages, residuals, unsqueeze, sub_add_cancel, pairFirst_pairAverage, sub_sub_cancel, ih]
  | case2 before x => rfl
  | case3 before => rfl

/-- The line `l` of `n` samples that fit is rebuilt from a line of averages and one of residuals. -/
def Rebuilds (p : Params) (n : Nat) (avg res : Option (List Int)) (l : List Int) : Prop :=
  l.length = n ∧ (∀ v ∈ l, fitsSample p v = true) ∧ ∃ la lr, avg = some la ∧ res = some lr ∧ unsqueeze none la lr = l

theorem rebuilds_of_forward {p : Params} {n : Nat} {avg res : Option (List Int)} {l : List Int}
    (h : l.length = n ∧ (∀ v ∈ l, fitsSample p v = true) ∧ avg = some (averages l) ∧ res = some (residuals none l)) :
    Rebuilds p n avg res l := by
  obtain ⟨hn, hfits, havg, hres⟩ := h
  exact ⟨hn, hfits, _, _, havg, hres, unsqueeze_averages_residuals none l⟩

/-! ### The operands -/

/-- The operands of a squeeze: two different channels of the image. -/
structure Operands (s : State) (img : ModImage) (a r : Nat) (ca cr : Channel) (ba br : Buffer) : Prop where
  image : s.mod.image = some img
  handles : s.img.handlesOk = true
  different : a ≠ r
  averages : ChannelIs s img a ca ba
  residuals : ChannelIs s img r cr br

theorem operandChannel_ok {img : ModImage} {i : Nat} {c : Channel} {b : Buffer} (himg : s.mod.image = some img)
    (hc : ChannelIs s img i c b) : operandChannel i s = .ok (c, b) s := by
  have hget : getModImage s = .ok img s := by
    unfold getModImage
    rw [Op.bind_ok (getState_apply s), himg, present_some]
  unfold operandChannel
  rw [Op.bind_ok hget, hc.here]
  exact Op.bind_ok (getBuf_ok hc.buffer) _

/-! ### All lines -/

/-- The output of a transform in the making: the next handle allocated, and painted at these places. -/
def State.canvas (s : State) (w ht : Nat) (g : Nat × Nat → Int) (ps : List (Nat × Nat)) : State :=
  (s.allocated w ht .int).paint s.img.next g ps

section

variable {w ht : Nat} {g : Nat × Nat → Int} {ps : List (Nat × Nat)}

theorem canvas_sole (hs : s.img.handlesOk = true) (hps : Inside w ht ps) :
    (s.canvas w ht g ps).Sole s.img.next w ht :=
  (sole_allocated hs w ht).paint hps

@[simp] theorem canvas_inp : (s.canvas w ht g ps).inp = s.inp := paint_inp ps

theorem canvas_intAt_old (hs : s.img.handlesOk = true) (hps : Inside w ht ps) {k : Nat} (hk : k < s.img.next) :
    (s.canvas w ht g ps).intAt k = s.intAt k := by
  rw [State.canvas, (sole_allocated hs w ht).intAt_paint_other hps hk.ne, intAt_allocated_other hs w ht .int hk.ne]

/-- The output reads as the painting, once the operands are released too. -/
theorem intAt_finished (hs : s.img.handlesOk = true) (hps : Inside w ht ps) {p : Nat × Nat} (hp : p ∈ ps)
    {gone : List Nat} (hgone : s.img.next ∉ gone) (f : Modular → Modular) :
    (((s.canvas w ht g ps).setMod f).released gone).intAt s.img.next p.1 p.2 = some (g p) := by
  obtain ⟨hx, hy⟩ := hps p hp
  have hcanvas := canvas_sole (g := g) hs hps
  have hsole : ((s.canvas w ht g ps).setMod f).Sole s.img.next w ht := ⟨hcanvas.buffer, hcanvas.alone⟩
  rw [hsole.intAt_released hgone hx hy]
  exact (sole_allocated hs w ht).intAt_paint hps (.inl hp) hx hy

end

/-! ### The loop over the lines -/

/-- A round of a squeeze: read a line of averages and one of residuals, store the line they give. -/
def rebuildLine (avg res : Op (List Int)) (put : List Int → Op Unit) : Op Unit := do
  let la ← avg
  let lr ← res
  put (unsqueeze none la lr)

theorem rebuildLine_ok {p : Params} {n : Nat} {oa or : Option (List Int)} {l : List Int} (h : Rebuilds p n oa or l)
    {avg res : Op (List Int)} (ha : ∀ la, oa = some la → avg s = .ok la s) (hr : ∀ lr, or = some lr → res s = .ok lr s)
    (put : List Int → Op Unit) : rebuildLine avg res put s = put l s := by
  obtain ⟨-, -, la, lr, hla, hlr, rfl⟩ := h
  unfold rebuildLine
  rw [Op.bind_ok (ha la hla), Op.bind_ok (hr lr hlr)]

/-- The lines `x` are those of the image `g` of `w` columns and `ht` rows: `n` lines of `len` samples, sample `k` of
line `j` at `place j k`. -/
structure Lines (w ht n len : Nat) (place : Nat → Nat → Nat × Nat) (x : Nat → List Int) (g : Nat × Nat → Int) :
    Prop where
  inside : ∀ j k, j < n → k < len → (place j k).1 < w ∧ (place j k).2 < ht
  value : ∀ j k v, (x j)[k]? = some v → g (place j k) = v

/-- The places of lines of `len` samples, line by line. -/
def allPlaces (n : Nat) (place : Nat → Nat → Nat × Nat) (x : Nat → List Int) : List (Nat × Nat) :=
  (List.range n).flatMap fun j => linePlaces (place j) 0 (x j)

section

variable {w ht n len : Nat} {place : Nat → Nat → Nat × Nat} {x : Nat → List Int} {g : Nat × Nat → Int}

theorem mem_linePlaces {at_ : Nat → Nat × Nat} {l : List Int} {p : Nat × Nat} :
    p ∈ linePlaces at_ 0 l ↔ ∃ k, k < l.length ∧ at_ k = p := by
  simp [linePlaces, List.mem_range'_1]

theorem mem_allPlaces {p : Nat × Nat} : p ∈ allPlaces n place x ↔ ∃ j k, j < n ∧ k < (x j).length ∧ place j k = p := by
  simp [allPlaces, mem_linePlaces]

theorem Lines.inside_line (hl : Lines w ht n len place x g) {j : Nat} (hj : j < n) (hlen : (x j).length = len) :
    Inside w ht (linePlaces (place j) 0 (x j)) := by
  intro p hp
  obtain ⟨k, hk, rfl⟩ := mem_linePlaces.1 hp
  exact hl.inside j k hj (hlen ▸ hk)

theorem Lines.inside_all (hl : Lines w ht n len place x g) (hlen : ∀ j, j < n → (x j).length = len) :
    Inside w ht (allPlaces n place x) := by
  intro p hp
  obtain ⟨j, k, hj, hk, rfl⟩ := mem_allPlaces.1 hp
  exact hl.inside j k hj (hlen j hj ▸ hk)

/-- Storing a line paints it. -/
theorem Lines.each_putInt_ok (hl : Lines w ht n len place x g) {h j : Nat} (hs : s.Sole h w ht) (hj : j < n)
    (hlen : (x j).length = len) (hfits : ∀ v ∈ x j, fitsSample s.inp.params v = true) :
    each ((x j).zipIdx 0) (fun e => putInt h (place j e.2).1 (place j e.2).2 e.1) s =
      .ok () (s.paint h g (linePlaces (place j) 0 (x j))) := by
  refine hs.each_putInt_ok fun e he => ?_
  have hget : (x j)[e.2]? = some e.1 := List.mem_zipIdx_iff_getElem?.1 he
  obtain ⟨hx, hy⟩ := hl.inside j e.2 hj (hlen ▸ (List.getElem?_eq_some_iff.1 hget).1)
  exact ⟨hx, hy, hfits _ (List.mem_of_getElem? hget), hl.value j e.2 e.1 hget⟩

/-- The loop of a squeeze paints all the lines, where reading an operand's line sees what was there before it. -/
theorem Lines.each_rebuildLine_ok (hl : Lines w ht n len place x g) (hs : s.img.handlesOk = true)
    {oa or : Nat → Option (List Int)} {avg res : Nat → Op (List Int)} {put : Nat → List Int → Op Unit}
    (hx : ∀ j, j < n → Rebuilds s.inp.params len (oa j) (or j) (x j))
    (havg : ∀ t j la, (∀ k, k < s.img.next → t.intAt k = s.intAt k) → oa j = some la → avg j t = .ok la t)
    (hres : ∀ t j lr, (∀ k, k < s.img.next → t.intAt k = s.intAt k) → or j = some lr → res j t = .ok lr t)
    (hput : ∀ j l, put j l = each (l.zipIdx 0) fun e => putInt s.img.next (place j e.2).1 (place j e.2).2 e.1) :
    each (List.range n) (fun j => rebuildLine (avg j) (res j) (put j)) (s.allocated w ht .int) =
      .ok () (s.canvas w ht g (allPlaces n place x)) := by
  refine each_paint_ok (w := w) (ht := ht) (fun j hj => ?_) (fun j hj ps hps => ?_) [] (by simp [Inside])
  · exact hl.inside_line (List.mem_range.1 hj) (hx j (List.mem_range.1 hj)).1
  · have hjn := List.mem_range.1 hj
    have hold : ∀ k, k < s.img.next → (s.canvas w ht g ps).intAt k = s.intAt k := fun k hk => canvas_intAt_old hs hps hk
    obtain ⟨hlen, hfits, -⟩ := hx j hjn
    calc rebuildLine (avg j) (res j) (put j) (s.canvas w ht g ps)
      _ = put j (x j) (s.canvas w ht g ps) :=
        rebuildLine_ok (hx j hjn) (fun la => havg _ j la hold) (fun lr => hres _ j lr hold) _
      _ = _ := by
        rw [hput]
        exact hl.each_putInt_ok (canvas_sole hs hps) hjn hlen (by simpa only [canvas_inp] using hfits)

end

/-! ### M.HSQUEEZE and M.VSQUEEZE -/

/-- The image whose rows are `x`. -/
def ofRows (x : Nat → List Int) (p : Nat × Nat) : Int := ((x p.2)[p.1]?).getD 0

/-- The image whose columns are `x`. -/
def ofColumns (x : Nat → List Int) (p : Nat × Nat) : Int := ((x p.1)[p.2]?).getD 0

theorem lines_ofRows (w ht : Nat) (x : Nat → List Int) : Lines w ht ht w (fun y k => (k, y)) x (ofRows x) where
  inside _ _ hj hk := ⟨hk, hj⟩
  value _ _ _ hv := by rw [ofRows, hv, Option.getD_some]

theorem lines_ofColumns (w ht : Nat) (x : Nat → List Int) : Lines w ht w ht (fun j k => (j, k)) x (ofColumns x) where
  inside _ _ hj hk := ⟨hj, hk⟩
  value _ _ _ hv := by rw [ofColumns, hv, Option.getD_some]

/-- Channel `at_` of the Modular image replaced by `c`, channel `gone` removed. -/
def replaced (at_ gone : Nat) (c : Channel) (m : Modular) : Modular :=
  { m with image := m.image.map fun i => { i with channels := splice at_ gone [c] 0 i.channels } }

section

variable {img : ModImage} {a r : Nat} {ca cr : Channel} {ba br : Buffer} {x : Nat → List Int}

theorem undoHsqueeze_ok (ho : Operands s img a r ca cr ba br) {w : Nat} (hwa : ba.width = (w + 1) / 2)
    (hwr : br.width = w / 2) (hh : ba.height = br.height) (hg : s.grants s.img.next (w, ba.height, .int) = true)
    (hx : ∀ y, y < ba.height →
      Rebuilds s.inp.params w (s.intRow ca.buf ba.width y) (s.intRow cr.buf br.width y) (x y)) :
    undoHsqueeze a r w s = .ok ()
      (((s.canvas w ba.height (ofRows x) (allPlaces ba.height (fun y k => (k, y)) x)).setMod
        (replaced a r { ca with buf := s.img.next, hshift := ca.hshift - 1 })).released [ca.buf, cr.buf]) := by
  have hshape : (decide (a ≠ r) && decide (ba.width = (w + 1) / 2) && decide (br.width = w / 2) &&
      decide (ba.height = br.height)) = true := by simp [ho.different, ← hwa, ← hwr, hh]
  have hloop := (lines_ofRows w ba.height x).each_rebuildLine_ok ho.handles hx
    (fun t y la hold hla => intRow_ok ((intRow_congr (hold _ ho.averages.old) _ y).trans hla))
    (fun t y lr hold hlr => intRow_ok ((intRow_congr (hold _ ho.residuals.old) _ y).trans hlr))
    (fun y l => putRow_eq_each y 0 l)
  unfold undoHsqueeze
  rw [Op.bind_ok (operandChannel_ok ho.image ho.averages), Op.bind_ok (operandChannel_ok ho.image ho.residuals)]
  simp only [hshape]
  rw [Op.bind_ok (check_true _ s), Op.bind_ok (alloc_ok hg)]
  exact Op.bind_ok hloop _

theorem undoVsqueeze_ok (ho : Operands s img a r ca cr ba br) {h : Nat} (hha : ba.height = (h + 1) / 2)
    (hhr : br.height = h / 2) (hw : ba.width = br.width) (hg : s.grants s.img.next (ba.width, h, .int) = true)
    (hx : ∀ j, j < ba.width →
      Rebuilds s.inp.params h (s.intColumn ca.buf ba.height j) (s.intColumn cr.buf br.height j) (x j)) :
    undoVsqueeze a r h s = .ok ()
      (((s.canvas ba.width h (ofColumns x) (allPlaces ba.width (fun j k => (j, k)) x)).setMod
        (replaced a r { ca with buf := s.img.next, vshift := ca.vshift - 1 })).released [ca.buf, cr.buf]) := by
  have hshape : (decide (a ≠ r) && decide (ba.height = (h + 1) / 2) && decide (br.height = h / 2) &&
      decide (ba.width = br.width)) = true := by simp [ho.different, ← hha, ← hhr, hw]
  have hloop := (lines_ofColumns ba.width h x).each_rebuildLine_ok ho.handles hx
    (fun t j la hold hla => intColumn_ok ((intColumn_congr (hold _ ho.averages.old) _ j).trans hla))
    (fun t j lr hold hlr => intColumn_ok ((intColumn_congr (hold _ ho.residuals.old) _ j).trans hlr))
    (fun j l => putColumn_eq_each j 0 l)
  unfold undoVsqueeze
  rw [Op.bind_ok (operandChannel_ok ho.image ho.averages), Op.bind_ok (operandChannel_ok ho.image ho.residuals)]
  simp only [hshape]
  rw [Op.bind_ok (check_true _ s), Op.bind_ok (alloc_ok hg)]
  exact Op.bind_ok hloop _

/-- The output is none of the operands. -/
theorem Operands.output_new (ho : Operands s img a r ca cr ba br) : s.img.next ∉ [ca.buf, cr.buf] := by
  simpa using ⟨ho.averages.old.ne', ho.residuals.old.ne'⟩

/-- Sample `k` of line `j` in the finished output. -/
theorem Operands.intAt_line (ho : Operands s img a r ca cr ba br) {w ht n len : Nat} {place : Nat → Nat → Nat × Nat}
    {g : Nat × Nat → Int} (hl : Lines w ht n len place x g) (hlen : ∀ j, j < n → (x j).length = len)
    (f : Modular → Modular) {j k : Nat} (hj : j < n) (hk : k < (x j).length) :
    (((s.canvas w ht g (allPlaces n place x)).setMod f).released [ca.buf, cr.buf]).intAt s.img.next (place j k).1
      (place j k).2 = (x j)[k]? := by
  rw [intAt_finished ho.handles (hl.inside_all hlen) (mem_allPlaces.2 ⟨j, k, hj, hk, rfl⟩) ho.output_new,
    List.getElem?_eq_getElem hk, hl.value j k _ (List.getElem?_eq_getElem hk)]

/-- M.HSQUEEZE stores the rows it rebuilds. -/
theorem exec_mHsqueeze_rebuilds (ho : Operands s img a r ca cr ba br) {w : Nat} (hwa : ba.width = (w + 1) / 2)
    (hwr : br.width = w / 2) (hh : ba.height = br.height) (hg : s.grants s.img.next (w, ba.height, .int) = true)
    (hx : ∀ y, y < ba.height →
      Rebuilds s.inp.params w (s.intRow ca.buf ba.width y) (s.intRow cr.buf br.width y) (x y)) :
    ∃ t, exec (.mHsqueeze a r w) s = .next t ∧ t.ret = .none ∧
      ∀ y, y < ba.height → t.intRow s.img.next w y = some (x y) := by
  refine ⟨_, runUnit_ok (undoHsqueeze_ok ho hwa hwr hh hg hx), rfl, fun y hy => ?_⟩
  have hlen := fun y hy => (hx y hy).1
  exact allSome_range (hlen y hy) fun k hk => ho.intAt_line (lines_ofRows w ba.height x) hlen _ hy (hlen y hy ▸ hk)

/-- M.VSQUEEZE stores the columns it rebuilds. -/
theorem exec_mVsqueeze_rebuilds (ho : Operands s img a r ca cr ba br) {h : Nat} (hha : ba.height = (h + 1) / 2)
    (hhr : br.height = h / 2) (hw : ba.width = br.width) (hg : s.grants s.img.next (ba.width, h, .int) = true)
    (hx : ∀ j, j < ba.width →
      Rebuilds s.inp.params h (s.intColumn ca.buf ba.height j) (s.intColumn cr.buf br.height j) (x j)) :
    ∃ t, exec (.mVsqueeze a r h) s = .next t ∧ t.ret = .none ∧
      ∀ j, j < ba.width → t.intColumn s.img.next h j = some (x j) := by
  refine ⟨_, runUnit_ok (undoVsqueeze_ok ho hha hhr hw hg hx), rfl, fun j hj => ?_⟩
  have hlen := fun j hj => (hx j hj).1
  exact allSome_range (hlen j hj) fun k hk => ho.intAt_line (lines_ofColumns ba.width h x) hlen _ hj (hlen j hj ▸ hk)

end

/-- Settles O52: each line is rebuilt because the pair rule inverts the forward rule and the inverse sees the neighbours
the forward transform saw; the operation reads the operands, which no write to the output touches, and stores the
line. -/
theorem squeezeRoundTrip : Obligations.SqueezeRoundTrip := by
  refine ⟨?_, ?_⟩
  · intro s img a r w ca cr ba br x himg hhandles har ha hr _ hwa hwr hh hg hx
    exact exec_mHsqueeze_rebuilds ⟨himg, hhandles, har, ha, hr⟩ hwa hwr hh hg fun y hy => rebuilds_of_forward (hx y hy)
  · intro s img a r h ca cr ba br x himg hhandles har ha hr _ hha hhr hw hg hx
    exact exec_mVsqueeze_rebuilds ⟨himg, hhandles, har, ha, hr⟩ hha hhr hw hg fun j hj => rebuilds_of_forward (hx j hj)

end Sys2Proof.Machine

/-! Proofs about the start of decoding (40_parser.md R130, R142, 60_exceptions.md R433, 70_reset_and_hazards.md R451). -/

namespace Sys2Proof.Machine

/-- The state the first step of PROCESS leaves: BUSY, an INCOMPLETE_INPUT in ERR cleared, the operands taken (R130). -/
def State.processing (s : State) (src : Nat) (opts : Options) (out : Option (List Plane)) : State :=
  (s.setCtl fun c =>
    { c with busy := true, err := c.err.atStart, opt := opts, optValid := true, src := src, out := out }).setRet .none

@[simp] theorem State.processing_bitpos (s : State) (src : Nat) (opts : Options) (out : Option (List Plane)) :
    (s.processing src opts out).ctl.bitpos = s.ctl.bitpos := rfl

@[simp] theorem State.processing_phase (s : State) (src : Nat) (opts : Options) (out : Option (List Plane)) :
    (s.processing src opts out).ctl.phase = s.ctl.phase := rfl

/-- HOST's contract (R433) is silent on the operands while no earlier PROCESS has fixed the options and the source, and
no frame in progress the presence of output buffers. -/
theorem processRefusal_eq_none_of_first {s : State} (hbusy : s.ctl.busy = false) (hphase : s.ctl.phase ≠ .finished)
    (hopt : s.ctl.optValid = false) (hframe : s.frameInProgress = false) (src : Nat) (opts : Options)
    (out : Option (List Plane)) : processRefusal src opts out s = none := by
  simp [processRefusal, hbusy, hphase, hopt, hframe]

/-- PROCESS inside the contract and outside FAULTED is accepted. -/
theorem exec_process_of_accepted {s : State} {src : Nat} {opts : Options} {out : Option (List Plane)}
    (haccepted : processRefusal src opts out s = none) (hphase : s.ctl.phase ≠ .faulted) :
    exec (.process src opts out) s = .next (s.processing src opts out) := by
  simp only [exec, execProcess, haccepted, if_neg hphase, State.processing]

/-- The row of NEED_FILE_HEADER in the selection table (R142). -/
theorem select_of_needFileHeader {s : State} (hphase : s.ctl.phase = .needFileHeader) :
    select s = some .pFileHeader := by
  rw [select, hphase]

/-- Settles O7: reset leaves nothing that fixes an operand of the first PROCESS, which is therefore accepted, and
PROCESS moves neither BITPOS nor PHASE from their reset values, which select P.FILE_HEADER. -/
theorem decodingStartsAtBitZero : Obligations.DecodingStartsAtBitZero := by
  intro src opts out
  have haccepted : processRefusal src opts out State.reset = none :=
    processRefusal_eq_none_of_first rfl (by decide) rfl rfl src opts out
  refine ⟨State.reset.processing src opts out, exec_process_of_accepted haccepted (by decide), ?_, ?_⟩
  · exact State.processing_bitpos State.reset src opts out
  · exact select_of_needFileHeader (State.processing_phase State.reset src opts out)

end Sys2Proof.Machine

/-! Proofs about the words of operations (30_encoding.md R100 to R106). -/

namespace Sys2Proof.Laws.Operands

/-- Every operation's operands are read back by the decoder of its code. -/
theorem statement (i : Instr) : Statement i := by
  cases i with
  | process src opts out => exact process _ _ _
  | reset => exact reset
  | outQuery => exact outQuery
  | srcAvail => exact srcAvail
  | srcRead caps => exact srcRead _
  | srcSkip n => exact srcSkip _
  | cmsXform input output => exact cmsXform _ _
  | cmsXformInplace buffer => exact cmsXformInplace _
  | pFileHeader => exact pFileHeader
  | pColorProfile => exact pColorProfile
  | pFrameHeader => exact pFrameHeader
  | pToc => exact pToc
  | pBuffer => exact pBuffer
  | pDispatch => exact pDispatch
  | pSkip => exact pSkip
  | pFrameDone => exact pFrameDone
  | pFinish => exact pFinish
  | pFill want => exact pFill _
  | sLfGlobal sec => exact sLfGlobal _
  | sLfGroup sec g => exact sLfGroup _ _
  | sHfGlobal sec => exact sHfGlobal _
  | sHfGroup sec g p => exact sHfGroup _ _ _
  | ansHist sc las => exact ansHist _ _
  | ansHistSingle sc las => exact ansHistSingle _ _
  | ansHistTwo sc las => exact ansHistTwo _ _
  | ansHistFlat sc las => exact ansHistFlat _ _
  | ansHistComplex sc las => exact ansHistComplex _ _
  | ansAlias sc hist las => exact ansAlias _ _ _
  | ansInit sc => exact ansInit _
  | ansRead sc ctx => exact ansRead _ _
  | ansFinal sc => exact ansFinal _
  | huffSimple sc a => exact huffSimple _ _
  | huffLengths sc a skip => exact huffLengths _ _ _
  | huffBuild sc lens => exact huffBuild _ _
  | huffRead sc ctx => exact huffRead _ _
  | bPredNz c bx byy => exact bPredNz _ _ _
  | bNz c pred t => exact bNz _ _ _
  | bCoeffs c t nz p => exact bCoeffs _ _ _ _
  | bDequant bx byy t => exact bDequant _ _ _
  | bXform bx byy t => exact bXform _ _ _
  | mTree => exact mTree
  | mProps ch x y => exact mProps _ _ _
  | mWalk props => exact mWalk _
  | mPredict leaf props => exact mPredict _ _
  | mWp x y => exact mWp _ _
  | mWpUpdate x y value => exact mWpUpdate _ _ _
  | mPalette index pal numColors numDeltas predictor bitDepth => exact mPalette _ _ _ _ _ _
  | mHsqueeze avg res w => exact mHsqueeze _ _ _
  | mVsqueeze avg res h => exact mVsqueeze _ _ _
  | xIdct h w coeff out => exact xIdct _ _ _ _
  | xAfv k coeff out => exact xAfv _ _ _
  | xIdentity coeff out => exact xIdentity _ _
  | xDct2x2 coeff out => exact xDct2x2 _ _
  | xDct4x4 coeff out => exact xDct4x4 _ _
  | xDct8x4 coeff out => exact xDct8x4 _ _
  | xDct4x8 coeff out => exact xDct4x8 _ _
  | rInplace f y x0 x1 => exact rInplace _ _ _ _
  | rInout f borderX borderY shiftX shiftY up part => exact rInout _ _ _ _ _ _ _
  | rSave channel plane y x0 x1 => exact rSave _ _ _ _ _
  | rExtend rect cw ch y => exact rExtend _ _ _ _
  | rGroup g => exact rGroup _
  | rOutside cw ch rect => exact rOutside _ _ _
  | iAlloc w h ty => exact iAlloc _ _ _
  | iRow b y mode => exact iRow _ _ _
  | iRows b rows mode => exact iRows _ _ _
  | iRect b x0 y0 w h mode => exact iRect _ _ _ _ _ _
  | iFree b => exact iFree _

/-- Bytes of zero after a well-formed operation are passed over. -/
theorem decode_encode_zeros {i : Instr} {zs : List Byte} (hi : i.wellFormed = true)
    (hz : (zs.all fun b => decide (b = 0)) = true) : decode (encode i ++ zs) = .ok i := by
  obtain ⟨opc, body, henc, hdec⟩ := statement i hi zs
  simp only [henc, List.cons_append, decode, hdec, hi, if_true]
  exact if_pos hz

/-- The decoder checks what it answers. -/
theorem wellFormed_of_decode {bs : List Byte} {i : Instr} (h : decode bs = .ok i) : i.wellFormed = true := by
  cases bs with
  | nil => cases h
  | cons opc rest =>
    rw [decode] at h
    split at h
    · cases h
    · split at h
      · split at h
        · next hwf => cases h; exact hwf
        · cases h
      · cases h

/-- Settles O3: the decoder of each operation's code reads its operands back and leaves the zeros; well-formedness is the
decoder's last check. -/
theorem encodeDecodeRoundTrip : Obligations.EncodeDecodeRoundTrip :=
  ⟨fun _ _ => decode_encode_zeros, fun _ _ => wellFormed_of_decode⟩

end Sys2Proof.Laws.Operands

/-! Proofs about ALIAS (41_ans.md R198, R199). -/

namespace Sys2Proof.Machine

/-! ### The rebalancing keeps every pair of symbol and offset in one bucket -/

@[simp] theorem nth_set (l : List Nat) (i j v : Nat) :
    nth (l.set i v) j = if i = j ∧ i < l.length then v else nth l j := by
  unfold nth
  rw [List.getElem?_set]
  grind

/-- The construction between two rounds, for the probabilities `d`: `S` holds the buckets that are settled. The two stacks
hold the others that are above and below the bucket size; what a symbol has given away of its offsets lies, each offset in
one place, in settled buckets; and counting a settled bucket as full the buckets hold all slots. -/
structure AliasInv (bs : Nat) (d : List Nat) (w : AliasWork) (S : Finset Nat) : Prop where
  lenCut : w.cut.length = d.length
  lenSym : w.sym.length = d.length
  lenOff : w.off.length = d.length
  bound : ∀ i ∈ S, i < d.length
  above : ∀ i, i ∈ w.overfull ↔ i < d.length ∧ i ∉ S ∧ bs < nth w.cut i
  below : ∀ i, i ∈ w.underfull ↔ i < d.length ∧ i ∉ S ∧ nth w.cut i < bs
  aboveOnce : w.overfull.Nodup
  belowOnce : w.underfull.Nodup
  settled : ∀ u ∈ S, nth w.cut u < bs ∧ nth w.sym u < d.length ∧ nth w.cut u ≤ nth w.off u ∧
    nth w.off u + (bs - nth w.cut u) ≤ nth d (nth w.sym u)
  kept : ∀ x, nth w.cut x ≤ nth d x
  given : ∀ x o, nth w.cut x ≤ o → o < nth d x →
    ∃ u ∈ S, nth w.sym u = x ∧ nth w.off u ≤ o ∧ o < nth w.off u + (bs - nth w.cut u)
  total : (∑ i ∈ Finset.range d.length, if i ∈ S then bs else nth w.cut i) = bs * d.length

/-- One round: bucket `u` takes what it lacks from the end of `o`'s share. -/
def aliasRound (bs : Nat) (w : AliasWork) (o u : Nat) (overfull underfull : List Nat) : AliasWork :=
  let cut := w.cut.set o (nth w.cut o - (bs - nth w.cut u))
  { overfull := if bs < nth cut o then o :: overfull else overfull
    underfull := if nth cut o < bs then o :: underfull else underfull
    cut := cut, sym := w.sym.set u o, off := w.off.set u (nth cut o) }

theorem aliasLoop_succ {bs fuel o u : Nat} {w : AliasWork} {overfull underfull : List Nat}
    (ho : w.overfull = o :: overfull) (hu : w.underfull = u :: underfull) :
    aliasLoop bs (fuel + 1) w = aliasLoop bs fuel (aliasRound bs w o u overfull underfull) := by
  rw [aliasLoop, ho, hu]
  rfl

theorem AliasInv.round {bs o u : Nat} {d : List Nat} {w : AliasWork} {S : Finset Nat} {overfull underfull : List Nat}
    (h : AliasInv bs d w S) (ho : w.overfull = o :: overfull) (hu : w.underfull = u :: underfull) :
    AliasInv bs d (aliasRound bs w o u overfull underfull) (insert u S) := by
  obtain ⟨holt, hoS, hobs⟩ := (h.above o).1 (by simp [ho])
  obtain ⟨hult, huS, hubs⟩ := (h.below u).1 (by simp [hu])
  have hne : o ≠ u := by rintro rfl; omega
  have hov := h.above
  have hun := h.below
  have ho1 := h.aboveOnce
  have hu1 := h.belowOnce
  rw [ho] at hov ho1
  rw [hu] at hun hu1
  rw [List.nodup_cons] at ho1 hu1
  have hlc := h.lenCut
  have hls := h.lenSym
  have hlo := h.lenOff
  constructor
  · simp [aliasRound, hlc]
  · simp [aliasRound, hls]
  · simp [aliasRound, hlo]
  · intro i hi
    rcases Finset.mem_insert.1 hi with rfl | hi
    · exact hult
    · exact h.bound i hi
  · intro i
    have := hov i
    have := hun i
    simp only [aliasRound, nth_set, Finset.mem_insert]
    grind
  · intro i
    have := hov i
    have := hun i
    simp only [aliasRound, nth_set, Finset.mem_insert]
    grind
  · simp only [aliasRound]; grind
  · simp only [aliasRound]
    have := hun o
    grind
  · intro v hv
    have := h.settled v
    have := h.kept o
    simp only [aliasRound, nth_set, Finset.mem_insert] at hv ⊢
    grind
  · intro x
    have := h.kept x
    simp only [aliasRound, nth_set]
    grind
  · intro x y hx hy
    simp only [aliasRound, nth_set] at hx ⊢
    by_cases hxy : nth w.cut x ≤ y
    · obtain ⟨v, hv, h1⟩ := h.given x y hxy hy
      refine ⟨v, Finset.mem_insert_of_mem hv, ?_⟩
      grind
    · refine ⟨u, Finset.mem_insert_self _ _, ?_⟩
      grind
  · have ht := h.total
    have hmo : o ∈ Finset.range d.length := by simpa using holt
    have hmu : u ∈ (Finset.range d.length).erase o := by simp [hult, hne.symm]
    rw [← Finset.add_sum_erase _ _ hmo, ← Finset.add_sum_erase _ _ hmu] at ht ⊢
    have hrest : ∀ i ∈ ((Finset.range d.length).erase o).erase u,
        (if i ∈ insert u S then bs else nth (aliasRound bs w o u overfull underfull).cut i) =
          if i ∈ S then bs else nth w.cut i := by
      intro i hi
      simp only [aliasRound, nth_set, Finset.mem_insert]
      grind
    rw [Finset.sum_congr rfl hrest]
    simp only [aliasRound, nth_set, Finset.mem_insert]
    grind

/-- A construction with no bucket too large, or none too small, has filled every bucket: the others that are not settled
would sum to less, or to more, than their slots. -/
theorem AliasInv.full {bs : Nat} {d : List Nat} {w : AliasWork} {S : Finset Nat} (h : AliasInv bs d w S)
    (hend : w.overfull = [] ∨ w.underfull = []) {i : Nat} (hi : i < d.length) (hiS : i ∉ S) : nth w.cut i = bs := by
  have hsum : (∑ i ∈ Finset.range d.length, if i ∈ S then bs else nth w.cut i) = ∑ _i ∈ Finset.range d.length, bs := by
    rw [h.total, Finset.sum_const, Finset.card_range, smul_eq_mul, Nat.mul_comm]
  have hi' : i ∈ Finset.range d.length := Finset.mem_range.2 hi
  rcases hend with he | he
  · have hle : ∀ j ∈ Finset.range d.length, (if j ∈ S then bs else nth w.cut j) ≤ bs := by
      intro j hj
      have := h.above j
      rw [he] at this
      grind
    have := (Finset.sum_eq_sum_iff_of_le hle).1 hsum i hi'
    rwa [if_neg hiS] at this
  · have hle : ∀ j ∈ Finset.range d.length, bs ≤ if j ∈ S then bs else nth w.cut j := by
      intro j hj
      have := h.below j
      rw [he] at this
      grind
    have := (Finset.sum_eq_sum_iff_of_le hle).1 hsum.symm i hi'
    rw [if_neg hiS] at this
    exact this.symm

/-- With as much fuel as there are buckets to settle, the loop ends with every bucket full. -/
theorem AliasInv.loop {bs fuel : Nat} {d : List Nat} {w : AliasWork} {S : Finset Nat} (h : AliasInv bs d w S)
    (hfuel : d.length ≤ S.card + fuel) :
    ∃ S', AliasInv bs d (aliasLoop bs fuel w) S' ∧
      ∀ i, i < d.length → i ∉ S' → nth (aliasLoop bs fuel w).cut i = bs := by
  induction fuel generalizing w S with
  | zero =>
    refine ⟨S, h, fun i hi hiS => absurd ?_ hiS⟩
    have hsub : S ⊆ Finset.range d.length := fun j hj => Finset.mem_range.2 (h.bound j hj)
    rw [Finset.eq_of_subset_of_card_le hsub (by simpa using hfuel)]
    exact Finset.mem_range.2 hi
  | succ fuel ih =>
    rcases ho : w.overfull with _ | ⟨o, overfull⟩
    · have hw : aliasLoop bs (fuel + 1) w = w := by simp [aliasLoop, ho]
      rw [hw]
      exact ⟨S, h, fun i => h.full (.inl ho)⟩
    · rcases hu : w.underfull with _ | ⟨u, underfull⟩
      · have hw : aliasLoop bs (fuel + 1) w = w := by simp [aliasLoop, ho, hu]
        rw [hw]
        exact ⟨S, h, fun i => h.full (.inr hu)⟩
      · have huS : u ∉ S := ((h.below u).1 (by simp [hu])).2.1
        rw [aliasLoop_succ ho hu]
        apply ih (h.round ho hu)
        rw [Finset.card_insert_of_notMem huS]
        omega

/-! ### The stacks at the start -/

theorem mem_aliasStacks {bs : Nat} (l : List Nat) (i : Nat) (a b : List Nat) (j : Nat) :
    (j ∈ (aliasStacks bs l i a b).1 ↔ j ∈ a ∨ (i ≤ j ∧ j < i + l.length ∧ bs < nth l (j - i))) ∧
    (j ∈ (aliasStacks bs l i a b).2 ↔ j ∈ b ∨ (i ≤ j ∧ j < i + l.length ∧ nth l (j - i) < bs)) := by
  induction l generalizing i a b with
  | nil => simp [aliasStacks]; grind
  | cons x rest ih =>
    have hx : nth (x :: rest) 0 = x := rfl
    have hrest : i + 1 ≤ j → nth (x :: rest) (j - i) = nth rest (j - (i + 1)) := by
      intro hj
      rw [show j - i = (j - (i + 1)) + 1 by omega]
      rfl
    rw [aliasStacks]
    grind

theorem nodup_aliasStacks {bs : Nat} (l : List Nat) (i : Nat) (a b : List Nat) (ha : a.Nodup) (hb : b.Nodup)
    (hai : ∀ j ∈ a, j < i) (hbi : ∀ j ∈ b, j < i) :
    (aliasStacks bs l i a b).1.Nodup ∧ (aliasStacks bs l i a b).2.Nodup := by
  induction l generalizing i a b with
  | nil => exact ⟨ha, hb⟩
  | cons x rest ih =>
    rw [aliasStacks]
    split
    · apply ih <;> grind
    · split
      · apply ih <;> grind
      · apply ih <;> grind

theorem sum_nth (d : List Nat) : (∑ i ∈ Finset.range d.length, nth d i) = d.sum := by
  rw [← Fin.sum_univ_getElem, Finset.sum_range]
  exact Finset.sum_congr rfl fun i _ => by simp [nth]

/-- The construction at its start. -/
def aliasStart (bs : Nat) (d : List Nat) : AliasWork :=
  { overfull := (aliasStacks bs d 0 [] []).1, underfull := (aliasStacks bs d 0 [] []).2, cut := d
    sym := List.replicate d.length 0, off := List.replicate d.length 0 }

theorem aliasInv_start {bs : Nat} {d : List Nat} (hsum : d.sum = bs * d.length) : AliasInv bs d (aliasStart bs d) ∅ := by
  have hmem := mem_aliasStacks (bs := bs) d 0 [] []
  have hnd := nodup_aliasStacks (bs := bs) d 0 [] [] (by simp) (by simp) (by simp) (by simp)
  constructor
  · rfl
  · simp [aliasStart]
  · simp [aliasStart]
  · simp
  · intro i; simpa [aliasStart] using (hmem i).1
  · intro i; simpa [aliasStart] using (hmem i).2
  · exact hnd.1
  · exact hnd.2
  · simp
  · intro x; exact Nat.le_refl _
  · intro x o h1 h2; exact absurd h1 (Nat.not_le.2 h2)
  · simpa [aliasStart, sum_nth] using hsum

/-! ### The lookup -/

/-- Where a slot of bucket `i` leads in a finished construction: a settled bucket gives its upper part to the symbol it was
settled with. -/
def AliasWork.target (w : AliasWork) (bs i pos : Nat) : Nat × Nat :=
  if nth w.cut i = bs ∨ pos < nth w.cut i then (i, pos) else (nth w.sym i, nth w.off i - nth w.cut i + pos)

theorem nth_map_range {n i : Nat} (f : Nat → Nat) (hi : i < n) : nth ((List.range n).map f) i = f i := by
  simp [nth, hi]

theorem two_pow_split {las : Nat} (hlas : las ≤ 12) : 2 ^ (12 - las) * 2 ^ las = 4096 ∧ 4096 / 2 ^ las = 2 ^ (12 - las) := by
  have h : 2 ^ (12 - las) * 2 ^ las = 4096 := by rw [← Nat.pow_add, Nat.sub_add_cancel hlas]
  exact ⟨h, by rw [← h, Nat.mul_div_cancel _ (Nat.two_pow_pos las)]⟩

/-- A slot is a bucket and a position in it. -/
theorem slot_lt {las r : Nat} (hlas : las ≤ 12) (hr : r < 4096) : r / 2 ^ (12 - las) < 2 ^ las := by
  rw [Nat.div_lt_iff_lt_mul (Nat.two_pow_pos _), Nat.mul_comm, (two_pow_split hlas).1]
  exact hr

/-- A histogram that is one symbol takes every slot to that symbol. -/
theorem aliasLookup_single {las x r : Nat} {d : List Nat} (hlas : las ≤ 12) (hx : d.idxOf? 4096 = some x)
    (hr : r < 4096) : aliasLookup (aliasTable d las) las r = (x, r) := by
  have hi := slot_lt hlas hr
  simp only [aliasTable, hx, aliasLookup, (two_pow_split hlas).2, nth_map_range _ hi]
  have hrep : ∀ v, nth (List.replicate (2 ^ las) v) (r / 2 ^ (12 - las)) = v := fun v => by simp [nth, hi]
  rw [hrep, hrep, if_pos (Nat.zero_le _), Nat.div_add_mod]

theorem aliasLookup_target {las r : Nat} {d : List Nat} (hlas : las ≤ 12) (hlen : d.length = 2 ^ las)
    (hx : d.idxOf? 4096 = none) (hr : r < 4096) :
    aliasLookup (aliasTable d las) las r =
      (aliasLoop (2 ^ (12 - las)) (2 ^ las) (aliasStart (2 ^ (12 - las)) d)).target (2 ^ (12 - las))
        (r / 2 ^ (12 - las)) (r % 2 ^ (12 - las)) := by
  have hi := slot_lt hlas hr
  simp only [aliasTable, hx, aliasLookup, (two_pow_split hlas).2, nth_map_range _ hi, AliasWork.target, aliasStart, hlen]
  grind

/-- A finished construction leads slots to pairs below the probabilities, and to every such pair. -/
theorem AliasInv.target_onto {bs : Nat} {d : List Nat} {w : AliasWork} {S : Finset Nat} (h : AliasInv bs d w S)
    (hfull : ∀ i, i < d.length → i ∉ S → nth w.cut i = bs) :
    (∀ i pos, i < d.length → pos < bs →
      (w.target bs i pos).1 < d.length ∧ (w.target bs i pos).2 < nth d (w.target bs i pos).1) ∧
    (∀ x o, x < d.length → o < nth d x → ∃ i pos, i < d.length ∧ pos < bs ∧ w.target bs i pos = (x, o)) := by
  refine ⟨fun i pos hi hpos => ?_, fun x o hx ho => ?_⟩
  · have hk := h.kept i
    by_cases hiS : i ∈ S
    · have hs := h.settled i hiS
      unfold AliasWork.target
      grind
    · have := hfull i hi hiS
      unfold AliasWork.target
      grind
  · rcases Nat.lt_or_ge o (nth w.cut x) with hc | hc
    · refine ⟨x, o, hx, ?_, by simp [AliasWork.target, hc]⟩
      by_cases hxS : x ∈ S
      · exact Nat.lt_trans hc (h.settled x hxS).1
      · rwa [← hfull x hx hxS]
    · obtain ⟨u, hu, hsym, hlo, hhi⟩ := h.given x o hc ho
      have hs := h.settled u hu
      refine ⟨u, o - nth w.off u + nth w.cut u, h.bound u hu, by omega, ?_⟩
      unfold AliasWork.target
      rw [if_neg (by omega), hsym]
      congr 1
      omega

/-! ### A map onto as many pairs as there are slots is one to one -/

/-- The pairs of a symbol and an offset below its probability. -/
def symbolOffsets (d : List Nat) : Finset ((_ : Nat) × Nat) := (Finset.range d.length).sigma fun x => Finset.range (nth d x)

theorem mem_symbolOffsets {d : List Nat} {e : (_ : Nat) × Nat} : e ∈ symbolOffsets d ↔ e.1 < d.length ∧ e.2 < nth d e.1 := by
  simp [symbolOffsets]

theorem card_symbolOffsets (d : List Nat) : (symbolOffsets d).card = d.sum := by
  simp [symbolOffsets, Finset.card_sigma, sum_nth]

theorem injective_of_onto {d : List Nat} {n : Nat} {f : Nat → Nat × Nat} (hsum : d.sum = n)
    (hinto : ∀ r, r < n → (f r).1 < d.length ∧ (f r).2 < nth d (f r).1)
    (honto : ∀ x o, x < d.length → o < nth d x → ∃ r, r < n ∧ f r = (x, o)) {r r' : Nat} (hr : r < n) (hr' : r' < n)
    (heq : f r = f r') : r = r' := by
  have hinj := Finset.injOn_of_surjOn_of_card_le (s := Finset.range n) (t := symbolOffsets d)
    (fun r => (⟨(f r).1, (f r).2⟩ : (_ : Nat) × Nat))
    (fun r hr => mem_symbolOffsets.2 (hinto r (by simpa using hr)))
    (fun e he => by
      obtain ⟨r, hr, hf⟩ := honto e.1 e.2 (mem_symbolOffsets.1 he).1 (mem_symbolOffsets.1 he).2
      exact ⟨r, by simpa using hr, by simp [hf]⟩)
    (by rw [card_symbolOffsets, hsum, Finset.card_range])
  exact hinj (by simpa using hr) (by simpa using hr') (by simp [heq])

theorem aliasLookup_onto {las : Nat} {d : List Nat} (hlas : las ≤ 12) (hlen : d.length = 2 ^ las) (hsum : d.sum = 4096) :
    (∀ r, r < 4096 → (aliasLookup (aliasTable d las) las r).1 < d.length ∧
      (aliasLookup (aliasTable d las) las r).2 < nth d (aliasLookup (aliasTable d las) las r).1) ∧
    (∀ x o, x < d.length → o < nth d x → ∃ r, r < 4096 ∧ aliasLookup (aliasTable d las) las r = (x, o)) := by
  cases hx : d.idxOf? 4096 with
  | some x =>
    have hxd : x < d.length ∧ nth d x = 4096 := by
      rw [List.idxOf?_eq_some_iff] at hx
      obtain ⟨hlt, hval, -⟩ := hx
      exact ⟨hlt, by simp [nth, hlt, hval]⟩
    have hother : ∀ y, y < d.length → 0 < nth d y → y = x := by
      intro y hy hpos
      by_contra hne
      have hle : nth d x + nth d y ≤ ∑ i ∈ Finset.range d.length, nth d i := by
        rw [← Finset.sum_pair (Ne.symm hne)]
        exact Finset.sum_le_sum_of_subset (by grind)
      rw [sum_nth, hsum] at hle
      omega
    refine ⟨fun r hr => ?_, fun y o hy ho => ?_⟩
    · rw [aliasLookup_single hlas hx hr]
      exact ⟨hxd.1, by simpa [hxd.2] using hr⟩
    · obtain rfl := hother y hy (by omega)
      exact ⟨o, by omega, aliasLookup_single hlas hx (by omega)⟩
  | none =>
    obtain ⟨hsplit, -⟩ := two_pow_split hlas
    have hpos : 0 < 2 ^ (12 - las) := Nat.two_pow_pos _
    obtain ⟨S, hinv, hfull⟩ := (aliasInv_start (bs := 2 ^ (12 - las)) (d := d) (by rw [hsum, hlen, hsplit])).loop
      (fuel := 2 ^ las) (by simp [hlen])
    obtain ⟨hinto, honto⟩ := hinv.target_onto hfull
    refine ⟨fun r hr => ?_, fun x o hxd ho => ?_⟩
    · rw [aliasLookup_target hlas hlen hx hr]
      exact hinto _ _ (hlen ▸ slot_lt hlas hr) (Nat.mod_lt _ hpos)
    · obtain ⟨i, pos, hi, hp, he⟩ := honto x o hxd ho
      have hdiv : (2 ^ (12 - las) * i + pos) / 2 ^ (12 - las) = i := by
        rw [Nat.mul_add_div hpos, Nat.div_eq_of_lt hp, Nat.add_zero]
      have hmod : (2 ^ (12 - las) * i + pos) % 2 ^ (12 - las) = pos := by
        rw [Nat.mul_add_mod, Nat.mod_eq_of_lt hp]
      have hr : 2 ^ (12 - las) * i + pos < 4096 := by
        calc 2 ^ (12 - las) * i + pos < 2 ^ (12 - las) * (i + 1) := by rw [Nat.mul_add, Nat.mul_one]; omega
          _ ≤ 2 ^ (12 - las) * 2 ^ las := Nat.mul_le_mul_left _ (hlen ▸ hi)
          _ = 4096 := hsplit
      exact ⟨_, hr, by rw [aliasLookup_target hlas hlen hx hr, hdiv, hmod, he]⟩

/-- Settles O33: the lookup reaches every pair, because what a symbol gives away lies in settled buckets, and there are
as many pairs as slots. -/
theorem aliasMapIsBijection : Obligations.AliasMapIsBijection := by
  intro las d hlas hlen hsum
  obtain ⟨hinto, honto⟩ := aliasLookup_onto hlas hlen hsum
  refine ⟨fun r hr => hlen ▸ hinto r hr, fun r r' hr hr' => injective_of_onto hsum hinto honto hr hr', fun x o hx ho => ?_⟩
  exact honto x o (hlen ▸ hx) ho

end Sys2Proof.Machine

/-! Proofs about canonical Huffman codes and their two-level table (42_huffman.md R226 to R228). -/

namespace Sys2Proof.Machine

/-! ### Reversing bits -/

theorem bitReverse_lt (n c : Nat) : bitReverse n c < 2 ^ n := by
  induction n generalizing c with
  | zero => simp [bitReverse]
  | succ n ih =>
    have := ih (c / 2)
    have : c % 2 * 2 ^ n ≤ 1 * 2 ^ n := Nat.mul_le_mul_right _ (by omega)
    rw [bitReverse, Nat.pow_succ]
    omega

/-- The last bit taken is the lowest of the reversed ones. -/
theorem bitReverse_succ (n c : Nat) : bitReverse (n + 1) c = 2 * bitReverse n c + c / 2 ^ n % 2 := by
  induction n generalizing c with
  | zero => simp [bitReverse]
  | succ n ih =>
    rw [bitReverse, ih, bitReverse, Nat.pow_succ, Nat.div_div_eq_div_mul, Nat.mul_comm 2 (2 ^ n)]
    ring

/-- Fewer bits reversed are the upper part of more bits reversed. -/
theorem bitReverse_add_div (a b c : Nat) : bitReverse (a + b) c / 2 ^ b = bitReverse a c := by
  induction b with
  | zero => simp
  | succ b ih =>
    rw [← Nat.add_assoc, bitReverse_succ, Nat.pow_succ, Nat.mul_comm (2 ^ b) 2, ← Nat.div_div_eq_div_mul, ← ih]
    congr 1
    omega

theorem bitReverse_mod (n c : Nat) : bitReverse n (c % 2 ^ n) = bitReverse n c := by
  induction n generalizing c with
  | zero => rfl
  | succ n ih =>
    rw [bitReverse, bitReverse, Nat.pow_succ, Nat.mul_comm (2 ^ n) 2, Nat.mod_mul_right_mod, Nat.mod_mul_right_div_self,
      ih]

theorem bitReverse_bitReverse (n c : Nat) : bitReverse n (bitReverse n c) = c % 2 ^ n := by
  induction n generalizing c with
  | zero => simp [bitReverse, Nat.mod_one]
  | succ n ih =>
    have hlt := bitReverse_lt n (c / 2)
    have hlow : (c % 2 * 2 ^ n + bitReverse n (c / 2)) % 2 ^ n = bitReverse n (c / 2) := by
      rw [Nat.mul_add_mod_self_right, Nat.mod_eq_of_lt hlt]
    have hhigh : (c % 2 * 2 ^ n + bitReverse n (c / 2)) / 2 ^ n = c % 2 := by
      rw [Nat.mul_comm, Nat.mul_add_div (Nat.two_pow_pos n), Nat.div_eq_of_lt hlt, Nat.add_zero]
    calc bitReverse (n + 1) (bitReverse (n + 1) c)
        = 2 * bitReverse n (bitReverse n (c / 2)) + c % 2 % 2 := by
          rw [bitReverse_succ, ← bitReverse_mod, show bitReverse (n + 1) c = c % 2 * 2 ^ n + bitReverse n (c / 2) from rfl,
            hlow, hhigh]
      _ = c % 2 ^ (n + 1) := by
          rw [ih, Nat.mod_mod, Nat.pow_succ, Nat.mul_comm (2 ^ n), Nat.mod_mul, Nat.add_comm]

/-! ### No codeword begins another -/

/-- Codeword `w` is the canonical code `c` of its length. -/
def Codeword.Has (w : Codeword) (c : Nat) : Prop := w.key = bitReverse w.len c ∧ c < 2 ^ w.len

/-- The bits of `n`, lowest first, begin with the codeword. -/
def Codeword.Begins (w : Codeword) (n : Nat) : Prop := n % 2 ^ w.len = w.key

/-- In the canonical order `a` comes before `b`. -/
def Codeword.Before (a b : Codeword) : Prop :=
  ∃ ca cb, a.Has ca ∧ b.Has cb ∧ a.len ≤ b.len ∧ (ca + 1) * 2 ^ (b.len - a.len) ≤ cb

theorem Codeword.Has.of_begins {w : Codeword} {c n : Nat} (h : w.Has c) (hn : w.Begins n) : bitReverse w.len n = c := by
  obtain ⟨hkey, hlt⟩ := h
  rw [← bitReverse_mod, hn, hkey, bitReverse_bitReverse, Nat.mod_eq_of_lt hlt]

theorem Codeword.Before.apart {a b : Codeword} (h : a.Before b) (n : Nat) : ¬ (a.Begins n ∧ b.Begins n) := by
  rintro ⟨ha, hb⟩
  obtain ⟨ca, cb, hca, hcb, hlen, hle⟩ := h
  have hca := hca.of_begins ha
  have hcb := hcb.of_begins hb
  have hdiv := bitReverse_add_div a.len (b.len - a.len) n
  rw [Nat.add_sub_cancel' hlen, hcb, hca] at hdiv
  have := (Nat.le_div_iff_mul_le (Nat.two_pow_pos _)).2 hle
  omega

/-- What the symbols of length `len` and more take of the code space, in units of `2^-16`. -/
def spaceFrom (lens : List Nat) (len : Nat) : Nat := (lens.map fun l => if len ≤ l then 2 ^ (16 - l) else 0).sum

theorem wordsOfLen_cons_same (len : Nat) (rest : List Nat) (i code : Nat) :
    wordsOfLen len (len :: rest) i code =
      ({ symbol := i, len := len, key := bitReverse len code } :: (wordsOfLen len rest (i + 1) (code + 1)).1,
        (wordsOfLen len rest (i + 1) (code + 1)).2) := by
  rw [wordsOfLen, if_pos rfl]

theorem wordsOfLen_cons_other {len l : Nat} (h : l ≠ len) (rest : List Nat) (i code : Nat) :
    wordsOfLen len (l :: rest) i code = wordsOfLen len rest (i + 1) code := by
  rw [wordsOfLen, if_neg h]

/-- The codes of one length move the next code over the space they take. -/
theorem wordsOfLen_next (len : Nat) (lens : List Nat) (i code : Nat) :
    (wordsOfLen len lens i code).2 * 2 ^ (16 - len) + spaceFrom lens (len + 1) =
      code * 2 ^ (16 - len) + spaceFrom lens len := by
  induction lens generalizing i code with
  | nil => rfl
  | cons l rest ih =>
    simp only [spaceFrom, List.map_cons, List.sum_cons] at ih ⊢
    by_cases h : l = len
    · subst h
      have := ih (i + 1) (code + 1)
      rw [wordsOfLen_cons_same, if_neg (by omega), if_pos (Nat.le_refl _)]
      rw [Nat.add_mul] at this
      dsimp only
      omega
    · have := ih (i + 1) code
      rw [wordsOfLen_cons_other h]
      by_cases hl : len ≤ l
      · rw [if_pos (by omega), if_pos hl]; omega
      · rw [if_neg (by omega), if_neg hl]; omega

theorem wordsOfLen_le (len : Nat) (lens : List Nat) (i code : Nat) : code ≤ (wordsOfLen len lens i code).2 := by
  induction lens generalizing i code with
  | nil => exact Nat.le_refl _
  | cons l rest ih =>
    by_cases h : l = len
    · subst h
      rw [wordsOfLen_cons_same]
      exact Nat.le_trans (Nat.le_succ _) (ih _ _)
    · rw [wordsOfLen_cons_other h]
      exact ih _ _

/-- Every word of one length has one of its codes. -/
theorem mem_wordsOfLen {len : Nat} {lens : List Nat} {i code : Nat} {w : Codeword}
    (hb : (wordsOfLen len lens i code).2 ≤ 2 ^ len) (hw : w ∈ (wordsOfLen len lens i code).1) :
    w.len = len ∧ ∃ c, w.Has c ∧ code ≤ c ∧ c < (wordsOfLen len lens i code).2 := by
  induction lens generalizing i code with
  | nil => cases hw
  | cons l rest ih =>
    by_cases h : l = len
    · subst h
      rw [wordsOfLen_cons_same] at hw hb ⊢
      dsimp only at hw hb ⊢
      have hle := wordsOfLen_le l rest (i + 1) (code + 1)
      rcases List.mem_cons.1 hw with rfl | hw
      · exact ⟨rfl, code, ⟨rfl, Nat.lt_of_lt_of_le hle hb⟩, Nat.le_refl _, hle⟩
      · obtain ⟨hlen, c, hc, hlo, hhi⟩ := ih hb hw
        exact ⟨hlen, c, hc, by omega, hhi⟩
    · rw [wordsOfLen_cons_other h] at hw hb ⊢
      exact ih hb hw

theorem pairwise_wordsOfLen {len : Nat} {lens : List Nat} {i code : Nat}
    (hb : (wordsOfLen len lens i code).2 ≤ 2 ^ len) : (wordsOfLen len lens i code).1.Pairwise Codeword.Before := by
  induction lens generalizing i code with
  | nil => exact .nil
  | cons l rest ih =>
    by_cases h : l = len
    · subst h
      rw [wordsOfLen_cons_same] at hb ⊢
      refine .cons (fun w hw => ?_) (ih hb)
      obtain ⟨hlen, c, hc, hlo, hhi⟩ := mem_wordsOfLen hb hw
      have := Nat.lt_of_lt_of_le (Nat.lt_of_le_of_lt hlo hhi) hb
      refine ⟨code, c, ⟨rfl, ?_⟩, hc, Nat.le_of_eq hlen.symm, ?_⟩
      · show code < 2 ^ l
        omega
      · simpa [hlen] using hlo
    · rw [wordsOfLen_cons_other h] at hb ⊢
      exact ih hb

/-- The words of length `len` and more, with the codes from `code` on, while these fit what is left of the space. -/
theorem wordsFrom_ordered {lens : List Nat} {len code fuel : Nat} (hf : len + fuel = 16)
    (hs : code * 2 ^ (16 - len) + spaceFrom lens len ≤ 2 ^ 16) :
    (wordsFrom lens len code fuel).Pairwise Codeword.Before ∧
      ∀ w ∈ wordsFrom lens len code fuel, len ≤ w.len ∧ ∃ c, w.Has c ∧ code * 2 ^ (w.len - len) ≤ c := by
  induction fuel generalizing len code with
  | zero => exact ⟨.nil, fun w hw => by cases hw⟩
  | succ fuel ih =>
    have hnext := wordsOfLen_next len lens 0 code
    have hle := wordsOfLen_le len lens 0 code
    have hbound : (wordsOfLen len lens 0 code).2 ≤ 2 ^ len := by
      apply Nat.le_of_mul_le_mul_right _ (Nat.two_pow_pos (16 - len))
      rw [← Nat.pow_add, Nat.add_sub_cancel' (by omega)]
      omega
    have hhalf : 2 * (wordsOfLen len lens 0 code).2 * 2 ^ (16 - (len + 1)) =
        (wordsOfLen len lens 0 code).2 * 2 ^ (16 - len) := by
      rw [show 16 - len = 16 - (len + 1) + 1 by omega, Nat.pow_succ]
      ring
    obtain ⟨hpair, hmem⟩ := ih (len := len + 1) (code := 2 * (wordsOfLen len lens 0 code).2) (by omega) (by omega)
    have hlater : ∀ w ∈ wordsFrom lens (len + 1) (2 * (wordsOfLen len lens 0 code).2) fuel,
        len ≤ w.len ∧ ∃ c, w.Has c ∧ (wordsOfLen len lens 0 code).2 * 2 ^ (w.len - len) ≤ c := by
      intro w hw
      obtain ⟨hlen, c, hc, hcode⟩ := hmem w hw
      refine ⟨by omega, c, hc, ?_⟩
      rw [show w.len - len = w.len - (len + 1) + 1 by omega, Nat.pow_succ]
      calc _ = 2 * (wordsOfLen len lens 0 code).2 * 2 ^ (w.len - (len + 1)) := by ring
        _ ≤ c := hcode
    rw [wordsFrom]
    refine ⟨List.pairwise_append.2 ⟨pairwise_wordsOfLen hbound, hpair, fun a ha b hb => ?_⟩, fun w hw => ?_⟩
    · obtain ⟨hla, ca, hca, -, hhi⟩ := mem_wordsOfLen hbound ha
      obtain ⟨hlb, cb, hcb, hcode⟩ := hlater b hb
      exact ⟨ca, cb, hca, hcb, hla ▸ hlb, Nat.le_trans (Nat.mul_le_mul_right _ hhi) (hla ▸ hcode)⟩
    · rcases List.mem_append.1 hw with hw | hw
      · obtain ⟨hlen, c, hc, hlo, -⟩ := mem_wordsOfLen hbound hw
        exact ⟨Nat.le_of_eq hlen.symm, c, hc, by simpa [hlen] using hlo⟩
      · obtain ⟨hlen, c, hc, hcode⟩ := hlater w hw
        exact ⟨hlen, c, hc, Nat.le_trans (Nat.mul_le_mul_right _ hle) hcode⟩

/-- Lengths that pass the check fill the code space. -/
theorem spaceFrom_one {lens : List Nat} (h : lengthsOk lens = true) : spaceFrom lens 1 = 2 ^ 16 := by
  obtain ⟨hall, hsum⟩ := Bool.and_eq_true_iff.1 h
  simp only [List.all_eq_true, decide_eq_true_eq] at hall
  have hmap : ∀ l ∈ lens, (if 1 ≤ l then 2 ^ (16 - l) else 0) = 2 * (if l = 0 then 0 else 2 ^ (15 - l)) := by
    intro l hl
    have := hall l hl
    by_cases h0 : l = 0
    · simp [h0]
    · rw [if_pos (by omega), if_neg h0, show 16 - l = 15 - l + 1 by omega, Nat.pow_succ, Nat.mul_comm]
  rw [spaceFrom, List.map_congr_left hmap, List.sum_map_mul_left]
  have hnat : (lens.map fun l => if l = 0 then 0 else 2 ^ (15 - l)).sum = 2 ^ 15 := by
    have := of_decide_eq_true hsum
    unfold codeSpace at this
    generalize (lens.map fun l => if l = 0 then 0 else 2 ^ (15 - l)).sum = n at this ⊢
    omega
  rw [hnat]
  rfl

/-- No string of bits begins with two codewords. -/
theorem codewords_prefixFree {lens : List Nat} (h : lengthsOk lens = true) {a b : Codeword} {n : Nat}
    (ha : a ∈ codewords lens) (hb : b ∈ codewords lens) (hna : a.Begins n) (hnb : b.Begins n) : a = b := by
  have hpair := (wordsFrom_ordered (lens := lens) (len := 1) (code := 0) (fuel := 15) rfl
    (by rw [spaceFrom_one h]; omega)).1
  obtain ⟨i, hi, rfl⟩ := List.mem_iff_getElem.1 ha
  obtain ⟨j, hj, rfl⟩ := List.mem_iff_getElem.1 hb
  rcases Nat.lt_trichotomy i j with hij | rfl | hij
  · exact absurd ⟨hna, hnb⟩ ((List.pairwise_iff_getElem.1 hpair i j hi hj hij).apart n)
  · rfl
  · exact absurd ⟨hnb, hna⟩ ((List.pairwise_iff_getElem.1 hpair j i hj hi hij).apart n)

theorem codewords_key_lt {lens : List Nat} (h : lengthsOk lens = true) {w : Codeword} (hw : w ∈ codewords lens) :
    w.key < 2 ^ w.len := by
  obtain ⟨-, c, ⟨hkey, -⟩, -⟩ := (wordsFrom_ordered (lens := lens) (len := 1) (code := 0) (fuel := 15) rfl
    (by rw [spaceFrom_one h]; omega)).2 w hw
  rw [hkey]
  exact bitReverse_lt _ _

/-! ### Every symbol with a length has a codeword -/

theorem exists_mem_wordsOfLen {len : Nat} {lens : List Nat} {k : Nat} (i code : Nat) (hk : lens[k]? = some len) :
    ∃ w ∈ (wordsOfLen len lens i code).1, w.symbol = i + k ∧ w.len = len := by
  induction lens generalizing i code k with
  | nil => cases hk
  | cons l rest ih =>
    cases k with
    | zero =>
      obtain rfl : l = len := by simpa using hk
      rw [wordsOfLen_cons_same]
      exact ⟨_, .head _, rfl, rfl⟩
    | succ k =>
      by_cases h : l = len
      · subst h
        rw [wordsOfLen_cons_same]
        obtain ⟨w, hw, hs, hl⟩ := ih (i + 1) (code + 1) (k := k) (by simpa using hk)
        exact ⟨w, .tail _ hw, by omega, hl⟩
      · rw [wordsOfLen_cons_other h]
        obtain ⟨w, hw, hs, hl⟩ := ih (i + 1) code (k := k) (by simpa using hk)
        exact ⟨w, hw, by omega, hl⟩

theorem exists_mem_wordsFrom {lens : List Nat} {k l len code fuel : Nat} (hk : lens[k]? = some l) (hlo : len ≤ l)
    (hhi : l < len + fuel) : ∃ w ∈ wordsFrom lens len code fuel, w.symbol = k ∧ w.len = l := by
  induction fuel generalizing len code with
  | zero => omega
  | succ fuel ih =>
    rw [wordsFrom]
    rcases Nat.eq_or_lt_of_le hlo with rfl | hlt
    · obtain ⟨w, hw, hs, hl⟩ := exists_mem_wordsOfLen 0 code hk
      exact ⟨w, List.mem_append_left _ hw, by omega, hl⟩
    · obtain ⟨w, hw, hs⟩ := ih (len := len + 1) (code := 2 * (wordsOfLen len lens 0 code).2) hlt (by omega)
      exact ⟨w, List.mem_append_right _ hw, hs⟩

/-! ### The table -/

/-- The codewords that share the root index `j` and are longer than it. -/
def longWords (tb : Nat) (ws : List Codeword) (j : Nat) : List Codeword :=
  ws.filter fun w => decide (tb < w.len) && decide (w.key % 2 ^ tb = j)

/-- How many bits a second-level table is looked up with. -/
def subWidth (tb : Nat) (long : List Codeword) : Nat := (long.map Codeword.len).foldl max 0 - tb

theorem mem_longWords {tb j : Nat} {ws : List Codeword} {w : Codeword} :
    w ∈ longWords tb ws j ↔ w ∈ ws ∧ tb < w.len ∧ w.key % 2 ^ tb = j := by
  simp [longWords]

theorem le_foldl_max {l : List Nat} {x : Nat} (b : Nat) (hx : x ≤ b ∨ x ∈ l) : x ≤ l.foldl max b := by
  induction l generalizing b with
  | nil => simpa using hx
  | cons y rest ih =>
    rw [List.foldl_cons]
    apply ih
    grind

/-- The root entry of index `j + k`: an entry of the short codewords, or one that points to the second-level table of the
long ones. -/
theorem rootFrom_entry {tb : Nat} {ws : List Codeword} {fuel k : Nat} (next j : Nat) (hk : k < fuel) :
    (longWords tb ws (j + k) = [] → (rootFrom tb ws next j fuel).1[k]? =
      some (entryAt (ws.filter fun w => decide (w.len ≤ tb)) 0 (j + k))) ∧
    (longWords tb ws (j + k) ≠ [] → ∃ v, (rootFrom tb ws next j fuel).1[k]? =
        some { bits := tb + subWidth tb (longWords tb ws (j + k)), value := next + v } ∧
      (rootFrom tb ws next j fuel).2[v]? =
        some ((List.range (2 ^ subWidth tb (longWords tb ws (j + k)))).map (entryAt (longWords tb ws (j + k)) tb))) := by
  induction fuel generalizing next j k with
  | zero => omega
  | succ fuel ih =>
    rw [rootFrom, ← longWords]
    by_cases hl : longWords tb ws j = []
    · rw [if_pos (by simp [hl])]
      cases k with
      | zero => exact ⟨fun _ => rfl, fun h => absurd hl h⟩
      | succ k =>
        rw [show j + (k + 1) = j + 1 + k by omega]
        exact ih next (j + 1) (Nat.lt_of_succ_lt_succ hk)
    · rw [if_neg (by simpa using hl)]
      cases k with
      | zero => exact ⟨fun h => absurd h hl, fun _ => ⟨0, rfl, rfl⟩⟩
      | succ k =>
        rw [show j + (k + 1) = j + 1 + k by omega]
        obtain ⟨hshort, hlong⟩ := ih (next + 1) (j + 1) (Nat.lt_of_succ_lt_succ hk)
        refine ⟨hshort, fun h => ?_⟩
        obtain ⟨v, hv, hs⟩ := hlong h
        exact ⟨v + 1, by rw [show next + (v + 1) = next + 1 + v by omega]; exact hv, hs⟩

/-- The entry at an index that a codeword of the table leads to. -/
theorem entryAt_eq {ws : List Codeword} {skip j : Nat} {w : Codeword} (hw : w ∈ ws)
    (hj : j % 2 ^ (w.len - skip) = w.key / 2 ^ skip)
    (honly : ∀ v ∈ ws, j % 2 ^ (v.len - skip) = v.key / 2 ^ skip → v = w) :
    entryAt ws skip j = { bits := w.len - skip, value := w.symbol } := by
  unfold entryAt
  cases hf : ws.find? fun w => j % 2 ^ (w.len - skip) == w.key / 2 ^ skip with
  | none => exact absurd (List.find?_eq_none.1 hf w hw) (by simpa using hj)
  | some v =>
    rw [honly v (List.mem_of_find?_eq_some hf) (by simpa using List.find?_some hf)]

/-! ### Bits of the stream as a number -/

theorem bit_mod_div (x : Bool) (n : Nat) :
    ((if x then 1 else 0) + 2 * n) % 2 = (if x then 1 else 0) ∧ ((if x then 1 else 0) + 2 * n) / 2 = n := by
  cases x
  · simp
  · simp
    omega

theorem natOfBits_take (b : Bits) (n : Nat) : natOfBits (b.take n) = natOfBits b % 2 ^ n := by
  induction b generalizing n with
  | nil => simp [natOfBits]
  | cons x rest ih =>
    cases n with
    | zero => simp [natOfBits, Nat.mod_one]
    | succ n =>
      rw [List.take_succ_cons, natOfBits, natOfBits, ih, Nat.pow_succ, Nat.mul_comm (2 ^ n), Nat.mod_mul,
        (bit_mod_div x _).1, (bit_mod_div x _).2]

theorem natOfBits_drop (b : Bits) (n : Nat) : natOfBits (b.drop n) = natOfBits b / 2 ^ n := by
  induction b generalizing n with
  | nil => simp [natOfBits]
  | cons x rest ih =>
    cases n with
    | zero => simp
    | succ n =>
      rw [List.drop_succ_cons, natOfBits, ih, Nat.pow_succ, Nat.mul_comm (2 ^ n), ← Nat.div_div_eq_div_mul,
        (bit_mod_div x _).2]

theorem natOfBits_testBits (len key : Nat) (rest : Bits) :
    natOfBits ((List.range len).map (fun j => key.testBit j) ++ rest) = key % 2 ^ len + 2 ^ len * natOfBits rest := by
  induction len generalizing key with
  | zero => simp [Nat.mod_one]
  | succ len ih =>
    have hshift : (List.range len).map ((fun j => key.testBit j) ∘ Nat.succ) =
        (List.range len).map fun j => (key / 2).testBit j :=
      List.map_congr_left fun j _ => Nat.testBit_succ key j
    rw [List.range_succ_eq_map, List.map_cons, List.map_map, hshift, List.cons_append, natOfBits, ih, Nat.pow_succ,
      Nat.mul_comm (2 ^ len) 2, Nat.mod_mul, Nat.testBit_zero, Nat.mul_assoc]
    rcases Nat.mod_two_eq_zero_or_one key with h | h <;> simp [h] <;> ring

/-! ### Reading -/

section

variable {s : State} {r : Reader}

theorem bitsHere_moved (hr : s.par.reader = some r) (n : Nat) : (s.moved n).bitsHere = s.bitsHere.drop n := by
  simp [State.moved, hr, State.bitsHere, Reader.bits]

theorem reader_moved (hr : s.par.reader = some r) (n : Nat) :
    (s.moved n).par.reader = some { r with pos := r.pos + n } := by
  simp [State.moved, hr]

theorem peekBits_section (hr : s.par.reader = some r) (n : Nat) :
    peekBits n s = .ok (natOfBits s.bitsHere % 2 ^ n) s := by
  unfold peekBits
  rw [Op.bind_ok (getState_apply s), hr, ← natOfBits_take]
  rfl

theorem consume_ok {n : Nat} (h : s.canRead n) : consume n s = .ok () (s.moved n) := by
  unfold consume
  rw [Op.bind_ok (needBits_ok h.1), advance_ok h.2]

theorem canRead_section (hr : s.par.reader = some r) {n : Nat} (hn : n ≤ s.bitsHere.length) : s.canRead n :=
  ⟨hn, fun h => by rw [hr] at h; cases h⟩

/-- A codeword the root entry holds is read in one lookup. -/
theorem huffReadTable_root {t : HuffTable} {e : HuffEntry} (hr : s.par.reader = some r)
    (he : t.root[natOfBits s.bitsHere % 2 ^ t.tableBits]? = some e) (hle : e.bits ≤ t.tableBits)
    (hn : e.bits ≤ s.bitsHere.length) : huffReadTable t s = .ok e.value (s.moved e.bits) := by
  unfold huffReadTable
  rw [Op.bind_ok (peekBits_section hr _), he, Op.bind_ok (present_some _ _ s), if_neg (by omega),
    Op.bind_ok (consume_ok (canRead_section hr hn))]
  rfl

/-- A longer codeword is read in two. -/
theorem huffReadTable_sub {t : HuffTable} {e e2 : HuffEntry} {sub : List HuffEntry} (hr : s.par.reader = some r)
    (he : t.root[natOfBits s.bitsHere % 2 ^ t.tableBits]? = some e) (hlt : t.tableBits < e.bits)
    (hs : t.subs[e.value]? = some sub)
    (he2 : sub[natOfBits s.bitsHere / 2 ^ t.tableBits % 2 ^ (e.bits - t.tableBits)]? = some e2)
    (hn : t.tableBits + e2.bits ≤ s.bitsHere.length) :
    huffReadTable t s = .ok e2.value (s.moved (t.tableBits + e2.bits)) := by
  have hr' := reader_moved hr t.tableBits
  have hb := bitsHere_moved hr t.tableBits
  have hn2 : e2.bits ≤ (s.moved t.tableBits).bitsHere.length := by rw [hb, List.length_drop]; omega
  unfold huffReadTable
  rw [Op.bind_ok (peekBits_section hr _), he, Op.bind_ok (present_some _ _ s), if_pos hlt,
    Op.bind_ok (consume_ok (canRead_section hr (by omega))), Op.bind_ok (peekBits_section hr' _), hb, natOfBits_drop, hs,
    Op.bind_ok (present_some _ _ _), he2, Op.bind_ok (present_some _ _ _), Op.bind_ok (consume_ok (canRead_section hr' hn2)),
    moved_moved]
  rfl

/-- What the bits say to the two lookups, of a codeword longer than the root's index. -/
theorem begins_iff_of_long {tb n : Nat} {v : Codeword} (hv : tb < v.len) :
    v.Begins n ↔ v.key % 2 ^ tb = n % 2 ^ tb ∧ n / 2 ^ tb % 2 ^ (v.len - tb) = v.key / 2 ^ tb := by
  have hpow : 2 ^ v.len = 2 ^ tb * 2 ^ (v.len - tb) := by rw [← Nat.pow_add, Nat.add_sub_cancel' hv.le]
  unfold Codeword.Begins
  rw [hpow]
  constructor
  · intro h
    rw [← h, Nat.mod_mul_right_mod, Nat.mod_mul_right_div_self]
    exact ⟨rfl, rfl⟩
  · rintro ⟨hlow, hhigh⟩
    rw [Nat.mod_mul, hhigh, ← hlow, Nat.mod_add_div]

/-- No long codeword shares the root index of bits that begin with a short one. -/
theorem longWords_eq_nil {tb n : Nat} {lens : List Nat} {w : Codeword} (hok : lengthsOk lens = true)
    (hw : w ∈ codewords lens) (htb : w.len ≤ tb) (hb : w.Begins n) : longWords tb (codewords lens) (n % 2 ^ tb) = [] := by
  rw [List.eq_nil_iff_forall_not_mem]
  intro v hv
  obtain ⟨hv, hlen, hkey⟩ := mem_longWords.1 hv
  have hdvd : 2 ^ w.len ∣ 2 ^ tb := Nat.pow_dvd_pow 2 htb
  have hwv : w.Begins v.key := by
    have := congrArg (· % 2 ^ w.len) hkey
    simp only [Nat.mod_mod_of_dvd _ hdvd] at this
    exact this.trans hb
  have : v = w := codewords_prefixFree hok hv hw (Nat.mod_eq_of_lt (codewords_key_lt hok hv)) hwv
  subst this
  omega

/-- A stream that begins with a codeword decodes to its symbol and loses its bits. -/
theorem huffReadTable_buildTable {tb : Nat} {lens : List Nat} {w : Codeword} (hok : lengthsOk lens = true)
    (hw : w ∈ codewords lens) (hr : s.par.reader = some r) (hb : w.Begins (natOfBits s.bitsHere))
    (hn : w.len ≤ s.bitsHere.length) : huffReadTable (buildTable tb lens) s = .ok w.symbol (s.moved w.len) := by
  generalize hN : natOfBits s.bitsHere = n at hb
  have honly : ∀ v ∈ codewords lens, v.Begins n → v = w := fun v hv hvb => codewords_prefixFree hok hv hw hvb hb
  obtain ⟨hshort, hlong⟩ := rootFrom_entry (tb := tb) (ws := codewords lens) 0 0 (Nat.mod_lt n (Nat.two_pow_pos tb))
  rw [Nat.zero_add] at hshort hlong
  rcases Nat.lt_or_ge tb w.len with htb | htb
  · obtain ⟨hlow, hhigh⟩ := (begins_iff_of_long htb).1 hb
    have hmem : w ∈ longWords tb (codewords lens) (n % 2 ^ tb) := mem_longWords.2 ⟨hw, htb, hlow⟩
    generalize hl : longWords tb (codewords lens) (n % 2 ^ tb) = long at hlong hmem
    have hwidth : ∀ v ∈ long, v.len - tb ≤ subWidth tb long := fun v hv =>
      Nat.sub_le_sub_right (le_foldl_max 0 (.inr (List.mem_map_of_mem hv))) tb
    have hmod : ∀ v ∈ long, n / 2 ^ tb % 2 ^ subWidth tb long % 2 ^ (v.len - tb) = n / 2 ^ tb % 2 ^ (v.len - tb) :=
      fun v hv => Nat.mod_mod_of_dvd _ (Nat.pow_dvd_pow 2 (hwidth v hv))
    obtain ⟨i, he, hs⟩ := hlong (List.ne_nil_of_mem hmem)
    rw [Nat.zero_add] at he
    have hentry : entryAt long tb (n / 2 ^ tb % 2 ^ subWidth tb long) = { bits := w.len - tb, value := w.symbol } := by
      refine entryAt_eq hmem ((hmod w hmem).trans hhigh) fun v hv hvb => ?_
      obtain ⟨hvc, hvl, hvk⟩ := mem_longWords.1 (hl ▸ hv)
      exact honly v hvc ((begins_iff_of_long hvl).2 ⟨hvk, (hmod v hv).symm.trans hvb⟩)
    have hlt : tb < tb + subWidth tb long := by have := hwidth w hmem; omega
    have hread := huffReadTable_sub (t := buildTable tb lens)
      (e := { bits := tb + subWidth tb long, value := i }) (sub := (List.range (2 ^ subWidth tb long)).map (entryAt long tb))
      (e2 := { bits := w.len - tb, value := w.symbol }) hr
      (hN ▸ he) hlt hs
      (by
        have hk : n / 2 ^ tb % 2 ^ subWidth tb long < 2 ^ subWidth tb long := Nat.mod_lt _ (Nat.two_pow_pos _)
        simp only [hN, buildTable, Nat.add_sub_cancel_left, List.getElem?_map, List.getElem?_range hk, Option.map_some,
          hentry])
      (show tb + (w.len - tb) ≤ _ by omega)
    rw [hread]
    show EStateM.Result.ok _ (s.moved (tb + (w.len - tb))) = _
    rw [Nat.add_sub_cancel' htb.le]
  · have hmod : ∀ v : Codeword, v.len ≤ tb → n % 2 ^ tb % 2 ^ v.len = n % 2 ^ v.len :=
      fun v hv => Nat.mod_mod_of_dvd _ (Nat.pow_dvd_pow 2 hv)
    have hentry : entryAt ((codewords lens).filter fun w => decide (w.len ≤ tb)) 0 (n % 2 ^ tb) =
        { bits := w.len, value := w.symbol } := by
      refine entryAt_eq (by simp [hw, htb]) ?_ fun v hv hvb => ?_
      · rw [Nat.sub_zero, hmod w htb, Nat.pow_zero, Nat.div_one]
        exact hb
      · obtain ⟨hvc, hvl⟩ := List.mem_filter.1 hv
        rw [Nat.sub_zero, hmod v (by simpa using hvl), Nat.pow_zero, Nat.div_one] at hvb
        exact honly v hvc hvb
    have he := hshort (longWords_eq_nil hok hw htb hb)
    rw [hentry] at he
    exact huffReadTable_root (t := buildTable tb lens) hr (hN ▸ he) htb hn

end

/-- Settles O38: no codeword begins another, since its codes in order leave no code below an earlier one; so the
entry the bits lead to is the codeword's own. -/
theorem huffmanTableDecodesEveryCodeword : Obligations.HuffmanTableDecodesEveryCodeword := by
  intro tb lens hok
  refine ⟨fun i l hi hl => exists_mem_wordsFrom hi hl ?_, fun s sc ctx r w rest hw hr hbits ht => ?_⟩
  · have hall := (Bool.and_eq_true_iff.1 hok).1
    have := List.all_eq_true.1 hall l (List.mem_of_getElem? hi)
    simp only [decide_eq_true_eq] at this
    omega
  · have hkey := Nat.mod_eq_of_lt (codewords_key_lt hok hw)
    have hb : w.Begins (natOfBits s.bitsHere) := by
      rw [hbits, natOfBits_testBits, hkey]
      unfold Codeword.Begins
      rw [Nat.add_mul_mod_self_left, hkey]
    have hread : huffRead sc ctx s = .ok w.symbol (s.moved w.len) := by
      unfold huffRead
      rw [Op.bind_ok (getState_apply s), ht, Op.bind_ok (present_some _ _ s)]
      exact huffReadTable_buildTable hok hw hr hb (by simp [hbits])
    exact run_ok (commitOrAbandon_ok (Op.bind_ok hread _))

end Sys2Proof.Machine

/-! How operations end: a property that the updates of an operation keep holds wherever the operation ends, and only the
waiting for bytes reports Incomplete (40_parser.md R130, R139). -/

namespace Sys2Proof.Machine

variable {α β : Type} {P : State → Prop} {N : Nat → Prop}

/-- Started in `s` the operation ends in a state with the property `P`, and if it reports Incomplete then with a NEED that
satisfies `N`. -/
def EndsAt (P : State → Prop) (N : Nat → Prop) (op : Op α) (s : State) : Prop :=
  match op s with
  | .ok _ t => P t
  | .error (.incomplete n) t => P t ∧ N n
  | .error (.fatal _) t => P t
  | .error (.fault _) t => P t
  | .error (.refuse _) t => P t

/-- The operation keeps `P` however it ends, and reports only a NEED that satisfies `N`. -/
def Ends (P : State → Prop) (N : Nat → Prop) (op : Op α) : Prop := ∀ s, P s → EndsAt P N op s

namespace EndsAt

variable {s : State}

theorem of_ok {op : Op α} {a : α} {t : State} (h : op s = .ok a t) (ht : P t) : EndsAt P N op s := by
  unfold EndsAt
  rw [h]
  exact ht

/-- Sequencing: what follows is started where the first operation completes, with its answer. -/
theorem bind {x : Op α} {f : α → Op β} (hx : EndsAt P N x s)
    (hf : ∀ a t, x s = .ok a t → P t → EndsAt P N (f a) t) : EndsAt P N (x >>= f) s := by
  unfold EndsAt at *
  rw [Op.bind_apply]
  cases h : x s with
  | ok a t =>
    rw [h] at hx
    exact hf a t h hx
  | error e t =>
    rw [h] at hx
    cases e <;> exact hx

theorem getState {f : State → Op β} (h : EndsAt P N (f s) s) : EndsAt P N (Machine.getState >>= f) s := h

theorem post {op : Op α} {a : α} {t : State} (h : EndsAt P N op s) (hop : op s = .ok a t) : P t := by
  unfold EndsAt at h
  rwa [hop] at h

theorem post_error {op : Op α} {e : Stop} {t : State} (h : EndsAt P N op s) (hop : op s = .error e t) : P t := by
  unfold EndsAt at h
  rw [hop] at h
  cases e with
  | incomplete n => exact h.1
  | fatal k => exact h
  | fault f => exact h
  | refuse r => exact h

theorem mono {Q : State → Prop} {op : Op α} (h : EndsAt P N op s) (hPQ : ∀ t, P t → Q t) : EndsAt Q N op s := by
  unfold EndsAt at *
  cases hop : op s with
  | ok a t =>
    rw [hop] at h
    exact hPQ t h
  | error e t =>
    rw [hop] at h
    cases e with
    | incomplete n => exact ⟨hPQ t h.1, h.2⟩
    | fatal k => exact hPQ t h
    | fault f => exact hPQ t h
    | refuse r => exact hPQ t h

/-- Sequencing where more is known while the first operation runs. -/
theorem bind_of {Q : State → Prop} {x : Op α} {f : α → Op β} (hx : EndsAt Q N x s) (hQ : ∀ t, Q t → P t)
    (hf : ∀ a t, Q t → EndsAt P N (f a) t) : EndsAt P N (x >>= f) s :=
  (hx.mono hQ).bind fun a t ht _ => hf a t (hx.post ht)

theorem need {op : Op α} {n : Nat} {t : State} (h : EndsAt P N op s) (hop : op s = .error (.incomplete n) t) : N n := by
  unfold EndsAt at h
  rw [hop] at h
  exact h.2

end EndsAt

namespace Ends

theorem pure (a : α) : Ends P N (pure a : Op α) := fun _ h => h
theorem raise (k : Kind) : Ends P N (raise k : Op α) := fun _ h => h
theorem fault (f : Fault) : Ends P N (stop (.fault f) : Op α) := fun _ h => h
theorem refuse (r : Refusal) : Ends P N (stop (.refuse r) : Op α) := fun _ h => h
theorem getState : Ends P N getState := fun _ h => h
theorem getParams : Ends P N getParams := fun _ h => h

theorem upd {f : State → State} (h : ∀ s, P s → P (f s)) : Ends P N (upd f) := fun s hs => h s hs

theorem check (c : Bool) (k : Kind) : Ends P N (check c k) := by
  intro s h
  cases c <;> exact h

theorem present (x : Option α) (e : Element) : Ends P N (present x e) := by
  intro s h
  cases x <;> exact h

theorem bind {x : Op α} {f : α → Op β} (hx : Ends P N x) (hf : ∀ a, Ends P N (f a)) : Ends P N (x >>= f) :=
  fun s h => .bind (hx s h) fun a t _ ht => hf a t ht

theorem each {xs : List α} {f : α → Op Unit} (hf : ∀ a, Ends P N (f a)) : Ends P N (each xs f) := by
  induction xs with
  | nil => exact pure ()
  | cons x rest ih => exact bind (hf x) fun _ => ih

theorem collect {xs : List α} {f : α → Op β} (hf : ∀ a, Ends P N (f a)) : Ends P N (collect xs f) := by
  induction xs with
  | nil => exact pure []
  | cons x rest ih => exact bind (hf x) fun _ => bind ih fun _ => pure _

theorem ite {c : Prop} [Decidable c] {x y : Op α} (hx : Ends P N x) (hy : Ends P N y) : Ends P N (if c then x else y) := by
  split
  · exact hx
  · exact hy

end Ends

/-! ### The source -/

/-- `draw({k | lo <= k <= hi})` gives some number of the range, and each number of it is one it can give. -/
theorem drawRange_ok (s : State) {lo hi : Nat} (h : lo ≤ hi) :
    ∃ k, lo ≤ k ∧ k ≤ hi ∧ drawRange lo hi s = .ok k s.drawn := by
  have hlt : ∀ v, lo + v % (hi - lo + 1) ≤ hi := fun v => by
    have : v % (hi - lo + 1) < hi - lo + 1 := Nat.mod_lt v (Nat.succ_pos _)
    omega
  exact ⟨_, Nat.le_add_right lo _, hlt _, Op.bind_ok (draw_ok s) _⟩

/-- The source with its cursor `k` bytes on. -/
def State.sourceMoved (s : State) (k : Nat) : State := s.setSource fun x => { x with pos := x.pos + k }

/-- The state with `k` more bytes of the source staged. -/
def State.staged (s : State) (k : Nat) : State :=
  (s.setPar fun p => { p with stage := { p.stage with
    bytes := p.stage.bytes ++ (s.source.bytes.drop s.source.pos).take k } }).sourceMoved k

@[simp] theorem available_drawn (s : State) : s.drawn.available = s.available := rfl

theorem sourceRead_ok (cap : Nat) (s : State) : ∃ k, min (min cap s.available) 1 ≤ k ∧ k ≤ min cap s.available ∧
    sourceRead cap s = .ok k (s.drawn.staged k) := by
  obtain ⟨k, hlo, hhi, hk⟩ := drawRange_ok s (lo := atLeastOne (min cap s.available)) (hi := min cap s.available)
    (Nat.min_le_left _ _)
  refine ⟨k, hlo, hhi, ?_⟩
  unfold sourceRead
  rw [Op.bind_ok (getState_apply s), Op.bind_ok hk]
  rfl

theorem sourceSkip_ok (n : Nat) (s : State) : ∃ k, min (min n s.available) 1 ≤ k ∧ k ≤ min n s.available ∧
    sourceSkip n s = .ok k (s.drawn.sourceMoved k) := by
  obtain ⟨k, hlo, hhi, hk⟩ := drawRange_ok s (lo := atLeastOne (min n s.available)) (hi := min n s.available)
    (Nat.min_le_left _ _)
  refine ⟨k, hlo, hhi, ?_⟩
  unfold sourceSkip
  rw [Op.bind_ok (getState_apply s), Op.bind_ok hk]
  rfl

theorem drawNeed_ok (s : State) : ∃ n, 1 ≤ n ∧ drawNeed s = .ok n s.drawn :=
  ⟨_, Nat.le_add_left 1 _, Op.bind_ok (draw_ok s) _⟩

theorem incomplete_ok (s : State) : ∃ n, 1 ≤ n ∧ (incomplete : Op α) s = .error (.incomplete n) s.drawn := by
  obtain ⟨n, hn, h⟩ := drawNeed_ok s
  exact ⟨n, hn, Op.bind_ok h _⟩

/-! ### Reading bits -/

/-- A property that the updates of reading bits keep: the position, STAGE, the source and the draws. Outside a section
bytes may be waited for. -/
structure KeptByBits (P : State → Prop) (N : Nat → Prop) : Prop where
  bitpos : ∀ s n, P s → P (s.setCtl fun c => { c with bitpos := n })
  stage : ∀ s g, P s → P (s.setPar fun p => { p with stage := g })
  advanced : ∀ s r n, P s → s.par.reader = some r →
    P (s.setPar fun p => { p with reader := some { r with pos := r.pos + n } })
  source : ∀ s k, P s → k ≤ s.available → P (s.sourceMoved k)
  drawn : ∀ s, P s → P s.drawn
  waits : ∀ s n, P s → s.par.reader = none → 1 ≤ n → N n

namespace KeptByBits

section

variable (hP : KeptByBits P N)
include hP

theorem draw : Ends P N draw := fun s hs => .of_ok (draw_ok s) (hP.drawn s hs)

theorem incomplete (hN : ∀ n, 1 ≤ n → N n) : Ends P N (incomplete : Op α) := by
  intro s hs
  obtain ⟨n, hn, h⟩ := incomplete_ok (α := α) s
  unfold EndsAt
  rw [h]
  exact ⟨hP.drawn s hs, hN n hn⟩

theorem staged {s : State} {k : Nat} (hs : P s) (hk : k ≤ s.available) : P (s.drawn.staged k) :=
  hP.source _ k (hP.stage _ _ (hP.drawn s hs)) hk

theorem sourceRead (cap : Nat) : Ends P N (sourceRead cap) := by
  intro s hs
  obtain ⟨k, -, hk, h⟩ := sourceRead_ok cap s
  exact .of_ok h (hP.staged hs (Nat.le_trans hk (Nat.min_le_right _ _)))

theorem sourceSkip (n : Nat) : Ends P N (sourceSkip n) := by
  intro s hs
  obtain ⟨k, -, hk, h⟩ := sourceSkip_ok n s
  exact .of_ok h (hP.source _ k (hP.drawn s hs) (Nat.le_trans hk (Nat.min_le_right _ _)))

theorem fillLoop (hN : ∀ n, 1 ≤ n → N n) (want fuel : Nat) : Ends P N (fillLoop want fuel) := by
  induction fuel with
  | zero => exact hP.incomplete hN
  | succ fuel ih =>
    exact .bind .getState fun _ => .ite (.pure ()) (.ite (hP.incomplete hN)
      (.bind hP.draw fun _ => .bind (hP.sourceRead _) fun _ => .ite (hP.incomplete hN) ih))

theorem fill (hN : ∀ n, 1 ≤ n → N n) (want : Nat) : Ends P N (fill want) :=
  .bind (.upd fun s h => hP.stage s _ h) fun _ => .bind .getState fun _ => hP.fillLoop hN _ _

theorem setBitpos (n : Nat) : Ends P N (setBitpos n) := by
  intro s hs
  unfold EndsAt Machine.setBitpos
  split_ifs
  · exact hP.bitpos s n hs
  · exact hs

theorem advance (n : Nat) : Ends P N (advance n) := by
  intro s hs
  refine .getState ?_
  cases hr : s.par.reader with
  | some r => exact hP.advanced s r n hs hr
  | none => exact hP.setBitpos _ s hs

theorem needBits (n : Nat) : Ends P N (needBits n) := by
  intro s hs
  refine .getState ?_
  split
  · exact hs
  · cases hr : s.par.reader with
    | some r => exact hs
    | none => exact hP.fill (fun m => hP.waits s m hs hr) _ s hs

theorem readBits (n : Nat) : Ends P N (readBits n) :=
  .bind (hP.needBits n) fun _ => .bind .getState fun _ => .bind (hP.advance n) fun _ => .pure _

theorem peekBits (n : Nat) : Ends P N (peekBits n) := by
  refine .bind .getState fun s => ?_
  cases s.par.reader with
  | some r => exact .bind .getState fun _ => .pure _
  | none => exact .bind (hP.needBits n) fun _ => .bind .getState fun _ => .pure _

theorem askLoop (hN : ∀ n, 1 ≤ n → N n) (f : Bits → Answer α) (fuel : Nat) : Ends P N (askLoop f fuel) := by
  induction fuel with
  | zero => exact hP.incomplete hN
  | succ fuel ih =>
    refine .bind .getState fun s => ?_
    cases firstAnswer f s.bitsHere with
    | parsed v n => exact .pure _
    | malformed k => exact .raise k
    | needMore =>
      cases s.par.reader with
      | some r => exact .raise _
      | none => exact .bind (hP.fill hN _) fun _ => ih

/-- Inside a section a parser function that needs more bits is a Format error at once. -/
theorem ask (f : Bits → Answer α) : Ends P N (ask f) := by
  intro s hs
  refine .getState ?_
  cases hr : s.par.reader with
  | none => exact hP.askLoop (fun m => hP.waits s m hs hr) f _ s hs
  | some r =>
    refine .getState ?_
    rw [hr]
    cases firstAnswer f s.bitsHere <;> exact hs

theorem parse (f : Bits → Answer α) : Ends P N (parse f) :=
  .bind (hP.ask f) fun _ => .bind (hP.advance _) fun _ => .pure _

theorem consume (n : Nat) : Ends P N (consume n) := .bind (hP.needBits n) fun _ => hP.advance n

theorem huffReadTable (t : HuffTable) : Ends P N (huffReadTable t) :=
  .bind (hP.peekBits _) fun _ => .bind (.present _ _) fun _ => .ite
    (.bind (hP.consume _) fun _ => .bind (hP.peekBits _) fun _ => .bind (.present _ _) fun _ =>
      .bind (.present _ _) fun _ => .bind (hP.consume _) fun _ => .pure _)
    (.bind (hP.consume _) fun _ => .pure _)

theorem huffRead (sc : ScopeId) (ctx : Nat) : Ends P N (huffRead sc ctx) :=
  .bind .getState fun _ => .bind (.present _ _) fun _ => hP.huffReadTable _

theorem ansRefill (x : Nat) : Ends P N (ansRefill x) := .ite (.bind (hP.readBits 16) fun _ => .pure _) (.pure x)

theorem simpleSelector (n : Nat) : Ends P N (simpleSelector n) := .ite (.bind (hP.readBits 1) fun _ => .pure _) (.pure _)

theorem huffLengths (a skip : Nat) : Ends P N (huffLengths a skip) :=
  .bind .getParams fun _ => .bind (hP.parse _) fun _ => .bind (.check _ _) fun _ => .bind (.check _ _) fun _ => .pure _

theorem histDecode (k : HistKind) (las : Nat) : Ends P N (histDecode k las) := by
  cases k with
  | single => exact .bind .getParams fun _ => .bind (hP.parse _) fun _ => .bind (.check _ _) fun _ => .pure _
  | two =>
    exact .bind .getParams fun _ => .bind (hP.parse _) fun _ => .bind (hP.parse _) fun _ => .bind (.check _ _) fun _ =>
      .bind (hP.readBits 12) fun _ => .pure _
  | flat => exact .bind .getParams fun _ => .bind (hP.parse _) fun _ => .bind (.check _ _) fun _ => .pure _
  | complex => exact .bind .getParams fun _ => hP.parse _

end

end KeptByBits

end Sys2Proof.Machine

/-! What the decoding of sections keeps: the buffers' operations, the entropy coders, the block steps and the Modular
subsystem (20_memory.md R79). -/

namespace Sys2Proof.Machine

variable {α β : Type} {P : State → Prop} {N : Nat → Prop}

/-! ### Operations that only look -/

namespace Ends

theorem getBuf (h : Nat) : Ends P N (getBuf h) := .bind .getState fun _ => .present _ _

theorem locate (h x y : Nat) (mode : Access) : Ends P N (locate h x y mode) :=
  .bind (getBuf h) fun _ => .ite
    (.bind (getBuf _) fun _ => .bind .getState fun _ => .ite (.fault _) (.ite (.fault _) (.pure _))) (.fault _)

theorem readSample (h x y : Nat) : Ends P N (readSample h x y) := by
  refine .bind (locate h x y .read) fun c => ?_
  cases storeRead c.2.1.samples c.2.2 with
  | some v => exact .pure v
  | none => exact .fault _

theorem isWritten (h x y : Nat) : Ends P N (isWritten h x y) := .bind (locate h x y .read) fun _ => .pure _

theorem readRow (h y x0 n : Nat) : Ends P N (readRow h y x0 n) := .collect fun _ => readSample _ _ _
theorem readAll (h : Nat) : Ends P N (readAll h) := .bind (getBuf h) fun _ => .collect fun _ => readSample _ _ _
theorem readTile (h w ht x0 y0 : Nat) : Ends P N (readTile h w ht x0 y0) := .collect fun _ => readSample _ _ _

theorem asInt (v : Sample) : Ends P N (asInt v) := by
  cases v with
  | flt f => exact .raise _
  | int z => exact .pure _
  | nat n => exact .pure _

theorem asNat (v : Sample) : Ends P N (asNat v) := by
  cases v with
  | flt f => exact .raise _
  | int z => exact .raise _
  | nat n => exact .pure _

theorem asFloat (v : Sample) : Ends P N (asFloat v) := by
  cases v with
  | flt f => exact .pure _
  | int z => exact .raise _
  | nat n => exact .raise _

theorem getFrame : Ends P N getFrame := .bind .getState fun _ => .present _ _
theorem getImageHeader : Ends P N getImageHeader := .bind .getState fun _ => .present _ _
theorem getModImage : Ends P N getModImage := .bind .getState fun _ => .present _ _
theorem getChannel (c : Nat) : Ends P N (getChannel c) := .bind getModImage fun _ => .present _ _
theorem getHf : Ends P N getHf := .bind .getState fun _ => .present _ _
theorem getLfGlobal : Ends P N getLfGlobal := .bind .getState fun _ => .present _ _
theorem getHfGlobal : Ends P N getHfGlobal := .bind .getState fun _ => .present _ _
theorem getHfMeta : Ends P N getHfMeta := .bind .getState fun _ => .present _ _
theorem getSide : Ends P N getSide := .bind .getState fun _ => .present _ _
theorem getRender : Ends P N getRender := .bind .getState fun _ => .present _ _
theorem getTree : Ends P N getTree := .bind .getState fun _ => .present _ _
theorem getWp : Ends P N getWp := .bind .getState fun _ => .present _ _
theorem groupRect : Ends P N groupRect := .bind getHf fun _ => .bind getFrame fun _ => .present _ _
theorem channelBuffer (l : List Nat) (c : Nat) : Ends P N (channelBuffer l c) := .present _ _
theorem nzAt (hf : HfBlock) (c bx byy : Nat) : Ends P N (nzAt hf c bx byy) := .present _ _

theorem getSect : Ends P N getSect := by
  refine .bind .getState fun s => ?_
  cases s.par.sect with
  | nil => exact .fault _
  | cons x rest => exact .pure _

theorem catalogued (t : Nat) : Ends P N (catalogued t) := by
  refine .bind .getParams fun p => ?_
  cases xtype p t with
  | some x => exact .pure x
  | none => exact .raise _

theorem blockQuant (b : Nat × Nat) : Ends P N (blockQuant b) :=
  .bind groupRect fun _ => .bind getHfMeta fun _ => .bind (readSample _ _ _) fun v => asNat v

theorem blockContextOf (c t : Nat) : Ends P N (blockContextOf c t) :=
  .bind getHf fun _ => .bind (blockQuant _) fun _ => .bind getLfGlobal fun _ => .bind .getParams fun _ => .pure _

theorem readCoeffs (c : Nat) (x : XType) (b : Nat × Nat) : Ends P N (readCoeffs c x b) :=
  .bind groupRect fun _ => .bind getSide fun _ => .bind (channelBuffer _ _) fun _ => .bind (readTile _ _ _ _ _) fun _ =>
    .collect asInt

theorem readDequantised (c : Nat) (x : XType) (b : Nat × Nat) : Ends P N (readDequantised c x b) :=
  .bind groupRect fun _ => .bind getSide fun _ => .bind (channelBuffer _ _) fun _ => .bind (readTile _ _ _ _ _) fun _ =>
    .collect asFloat

theorem tileFactor (h : Nat) (b : Nat × Nat) : Ends P N (tileFactor h b) :=
  .bind .getParams fun _ => .bind (isWritten _ _ _) fun _ => .bind (.check _ _) fun _ => .bind (readSample _ _ _) asInt

theorem lfAt (c : Nat) (b : Nat × Nat) : Ends P N (lfAt c b) :=
  .bind getSide fun _ => .bind (channelBuffer _ _) fun _ => .bind (isWritten _ _ _) fun _ => .bind (.check _ _) fun _ =>
    .bind (readSample _ _ _) asInt

theorem getInt (b x y : Nat) : Ends P N (getInt b x y) := .bind (readSample _ _ _) asInt

theorem getIntIf (c : Bool) (b x y : Nat) : Ends P N (getIntIf c b x y) :=
  .ite (.bind (getInt _ _ _) fun _ => .pure _) (.pure _)

theorem rawNeighbours (b w x y : Nat) : Ends P N (rawNeighbours b w x y) :=
  .bind (getIntIf _ _ _ _) fun _ => .bind (getIntIf _ _ _ _) fun _ => .bind (getIntIf _ _ _ _) fun _ =>
    .bind (getIntIf _ _ _ _) fun _ => .bind (getIntIf _ _ _ _) fun _ => .bind (getIntIf _ _ _ _) fun _ =>
      .bind (getIntIf _ _ _ _) fun _ => .pure _

theorem neighboursAt (ch b x y : Nat) : Ends P N (neighboursAt ch b x y) :=
  .bind (getBuf _) fun _ => .bind .getParams fun _ => .bind (rawNeighbours _ _ _ _) fun _ => .pure _

theorem intRow (b w y : Nat) : Ends P N (intRow b w y) := .bind (readRow _ _ _ _) fun _ => .collect asInt
theorem intColumn (b h x : Nat) : Ends P N (intColumn b h x) := .collect fun _ => getInt _ _ _

theorem walkTree (props : List Int) : Ends P N (walkTree props) := .bind getTree fun _ => .present _ _

theorem wpPixel (pr : Predictor) (at_ : Nat × Nat × Nat) : Ends P N (wpPixel pr at_) := by
  refine .bind .getState fun s => ?_
  cases s.mod.wp with
  | some wp => exact .pure _
  | none => exact .ite (.fault _) (.pure _)

theorem operandChannel (c : Nat) : Ends P N (operandChannel c) := by
  refine .bind getModImage fun m => ?_
  cases m.channels[c]? with
  | none => exact .raise _
  | some ch => exact .bind (getBuf _) fun _ => .pure _

theorem channelGrid (c : Channel) : Ends P N (channelGrid c) :=
  .bind (getBuf _) fun _ => .bind (readAll _) fun _ => .bind (.collect asInt) fun _ => .pure _

end Ends

/-! ### Buffers -/

/-- A property that the updates of image buffers and of the render pipeline keep. -/
structure KeptByImages (P : State → Prop) : Prop where
  allocated : ∀ s w h ty, P s → P (s.allocated w h ty)
  samples : ∀ s h b l, P s → assocGet s.img.bufs h = some b →
    P (s.setImg fun i => { i with bufs := assocSet i.bufs h { b with samples := l } })
  released : ∀ s h, P s → P (s.released [h])
  counted : ∀ s, P s → P s.counted
  render : ∀ s r, P s → P (s.setRnd r)

theorem getBuf_eq_ok {h : Nat} {b : Buffer} {s t : State} : getBuf h s = .ok b t ↔ t = s ∧ assocGet s.img.bufs h = some b := by
  unfold getBuf
  rw [Op.bind_ok (getState_apply s)]
  cases assocGet s.img.bufs h with
  | none => simp
  | some a => simp [eq_comm, and_comm]

/-- Where `locate` answers, its buffer is the one of the handle it answers. -/
theorem of_locate_ok {h x y : Nat} {mode : Access} {c : Nat × Buffer × Nat} {s t : State}
    (hl : locate h x y mode s = .ok c t) : t = s ∧ assocGet s.img.bufs c.1 = some c.2.1 := by
  unfold locate at hl
  obtain ⟨b, _, hb, hrest⟩ := Op.bind_eq_ok.1 hl
  obtain ⟨rfl, -⟩ := getBuf_eq_ok.1 hb
  split at hrest
  · obtain ⟨r, _, hr, hend⟩ := Op.bind_eq_ok.1 hrest
    obtain ⟨rfl, hr⟩ := getBuf_eq_ok.1 hr
    rw [Op.bind_ok (getState_apply _)] at hend
    split_ifs at hend <;> cases hend
    exact ⟨rfl, hr⟩
  · cases hrest

namespace KeptByImages

section

variable (hP : KeptByImages P)
include hP

theorem alloc (w h : Nat) (ty : SampleType) : Ends P N (alloc w h ty) := by
  intro s hs
  rcases alloc_cases w h ty s with ⟨-, ha⟩ | ⟨-, ha⟩ | ⟨-, -, ha⟩
  · exact .of_ok ha (hP.allocated s w h ty hs)
  · unfold EndsAt; rw [ha]; exact hs
  · unfold EndsAt; rw [ha]; exact hP.counted s hs

theorem release (h : Nat) : Ends P N (release h) := .upd fun s hs => hP.released s h hs

theorem writeSample (h x y : Nat) (v : Sample) : Ends P N (writeSample h x y v) := by
  intro s hs
  refine .bind (Ends.locate h x y .write s hs) fun c t hl ht => ?_
  obtain ⟨rfl, hc⟩ := of_locate_ok hl
  refine .bind (Ends.check _ _ _ hs) fun _ u hu _ => ?_
  have hu' : u = t := by
    unfold check at hu
    split_ifs at hu <;> cases hu
    rfl
  rw [hu']
  exact hP.samples t c.1 c.2.1 _ hs hc

theorem zeroFill (h : Nat) : Ends P N (zeroFill h) := by
  intro s hs
  refine .bind (Ends.getBuf h s hs) fun b t hb _ => ?_
  obtain ⟨rfl, hb⟩ := getBuf_eq_ok.1 hb
  exact hP.samples t h b _ hs hb

theorem writeRow (h y x0 : Nat) (vs : List Sample) : Ends P N (writeRow h y x0 vs) := by
  induction vs generalizing x0 with
  | nil => exact .pure ()
  | cons v rest ih => exact .bind (hP.writeSample _ _ _ _) fun _ => ih _

theorem writeAll (h : Nat) (vs : List Sample) : Ends P N (writeAll h vs) :=
  .bind (.getBuf h) fun _ => .each fun _ => hP.writeSample _ _ _ _

theorem writeTile (h w x0 y0 : Nat) (vs : List Sample) : Ends P N (writeTile h w x0 y0 vs) :=
  .each fun _ => hP.writeSample _ _ _ _

theorem putInt (b x y : Nat) (v : Int) : Ends P N (putInt b x y v) :=
  .bind .getParams fun _ => .bind (.check _ _) fun _ => hP.writeSample _ _ _ _

theorem putRow (b y x : Nat) (l : List Int) : Ends P N (putRow b y x l) := by
  induction l generalizing x with
  | nil => exact .pure ()
  | cons v rest ih => exact .bind (hP.putInt _ _ _ _) fun _ => ih _

theorem putColumn (b x y : Nat) (l : List Int) : Ends P N (putColumn b x y l) := by
  induction l generalizing y with
  | nil => exact .pure ()
  | cons v rest ih => exact .bind (hP.putInt _ _ _ _) fun _ => ih _

theorem allocAll (l : List (Nat × Nat × SampleType)) : Ends P N (allocAll l) := .collect fun _ => hP.alloc _ _ _

theorem transformViews (x : XType) (coeff out : Nat) : Ends P N (transformViews x coeff out) :=
  .bind (.getBuf _) fun _ => .bind (.getBuf _) fun _ => .bind (.check _ _) fun _ => .bind (.readAll _) fun _ =>
    .bind (.collect .asFloat) fun _ => .bind .getParams fun _ => hP.writeAll _ _

/-! ### Block steps that read no bits -/

theorem writeCoeffs (c : Nat) (x : XType) (b : Nat × Nat) (l : List Int) : Ends P N (writeCoeffs c x b l) :=
  .bind .groupRect fun _ => .bind .getSide fun _ => .bind (.channelBuffer _ _) fun _ => hP.writeTile _ _ _ _ _

theorem writeDequantised (c : Nat) (x : XType) (b : Nat × Nat) (l : List F32) : Ends P N (writeDequantised c x b l) :=
  .bind .groupRect fun _ => .bind .getSide fun _ => .bind (.channelBuffer _ _) fun _ => hP.writeTile _ _ _ _ _

theorem dequantBlock (bx byy t : Nat) : Ends P N (dequantBlock bx byy t) :=
  .bind (.catalogued _) fun _ => .bind (.blockQuant _) fun _ => .bind (.check _ _) fun _ => .bind .getLfGlobal fun _ =>
    .bind .getHfGlobal fun _ => .bind .getHfMeta fun _ => .bind .groupRect fun _ => .bind .getParams fun _ =>
      .bind (.tileFactor _ _) fun _ => .bind (.tileFactor _ _) fun _ => .bind (.collect fun _ => .readCoeffs _ _ _) fun _ =>
        .each fun _ => hP.writeDequantised _ _ _ _

theorem xformChannel (c bx byy t : Nat) : Ends P N (xformChannel c bx byy t) :=
  .bind (.catalogued _) fun _ => .bind .getState fun _ => .bind .getLfGlobal fun _ => .bind .groupRect fun _ =>
    .bind .getParams fun _ => .bind (.readDequantised _ _ _) fun _ => .bind (.collect fun _ => .lfAt _ _) fun _ =>
      .bind (.channelBuffer _ _) fun _ => hP.writeTile _ _ _ _ _

theorem xformBlock (bx byy t : Nat) : Ends P N (xformBlock bx byy t) := .each fun _ => hP.xformChannel _ _ _ _

theorem placeCell (hm : HfMeta) (m : BlockMeta) (b : Nat × Nat) : Ends P N (placeCell hm m b) :=
  .bind (.readSample _ _ _) fun _ => .bind (.check _ _) fun _ => .bind (hP.writeSample _ _ _ _) fun _ =>
    .bind (hP.writeSample _ _ _ _) fun _ => hP.writeSample _ _ _ _

theorem placeBlock (p : Params) (fh : FrameHeader) (r : Rect) (hm : HfMeta) (m : BlockMeta) :
    Ends P N (placeBlock p fh r hm m) :=
  .bind (.check _ _) fun _ => .each fun _ => hP.placeCell _ _ _

theorem placeLf (side : Side) (e : (Nat × Nat × Nat) × Int) : Ends P N (placeLf side e) :=
  .bind (.channelBuffer _ _) fun _ => hP.writeSample _ _ _ _

theorem placeTile (hm : HfMeta) (e : TileFactor) : Ends P N (placeTile hm e) :=
  .bind (hP.writeSample _ _ _ _) fun _ => hP.writeSample _ _ _ _

theorem placeChannel (e : Placement) : Ends P N (placeChannel e) := by
  refine .bind .getModImage fun m => .bind .getState fun s => ?_
  split
  · exact .bind (.getBuf _) fun _ => .bind (.getBuf _) fun _ => .bind (.check _ _) fun _ => .each fun _ =>
      .bind (.intRow _ _ _) fun _ => hP.writeRow _ _ _ _
  · exact .raise _

end

end KeptByImages

end Sys2Proof.Machine

/-! What the decoding of sections keeps, continued: the operations that read bits into tables and buffers. -/

namespace Sys2Proof.Machine

variable {α β : Type} {P : State → Prop} {N : Nat → Prop}

/-- A property that the updates of decoding a section keep: those of reading bits, of buffers, and of the tables that the
sections fill. A scope's histograms are replaced by such as satisfy the sum rule, if they did before. -/
structure KeptByDecoding (P : State → Prop) (N : Nat → Prop) : Prop where
  bits : KeptByBits P N
  images : KeptByImages P
  tables : ∀ s sc e, P s → ((s.scope sc).histsOk = true → e.histsOk = true) → P (s.withScope sc e)
  dropped : ∀ s sc, P s → P (s.setEnt fun e => e.filter fun x => decide (x.1 ≠ sc))
  modular : ∀ s f, P s → P (s.setMod f)
  groups : ∀ s f, P s → P (s.setGrp f)

/-- Where a check completes, its condition holds and nothing has changed. -/
theorem check_eq_ok {c : Bool} {k : Kind} {s t : State} : check c k s = .ok () t ↔ c = true ∧ t = s := by
  cases c <;> simp [eq_comm]

theorem present_eq_ok {x : Option α} {e : Element} {a : α} {s t : State} :
    present x e s = .ok a t ↔ x = some a ∧ t = s := by
  cases x <;> simp [eq_comm]

/-! ### Histograms of a scope -/

theorem histsOk_append {e : ScopeTables} {las : Nat} {d : List Nat} {table : Option AliasTable}
    (h : e.histsOk = true) (hd : histOk las d = true) :
    ({ e with codes := e.codes ++ [{ las := las, dist := d, table := table }] } : ScopeTables).histsOk = true := by
  unfold ScopeTables.histsOk at *
  rw [List.all_append, h]
  simp [hd]

theorem histsOk_set {e : ScopeTables} {i las : Nat} {d : List Nat} {table : Option AliasTable}
    (h : e.histsOk = true) (hd : histOk las d = true) :
    ({ e with codes := e.codes.set i { las := las, dist := d, table := table } } : ScopeTables).histsOk = true := by
  unfold ScopeTables.histsOk at *
  rw [List.all_eq_true] at *
  intro c hc
  rcases List.mem_or_eq_of_mem_set hc with hc | rfl
  · exact h c hc
  · exact hd

/-! ### The parts of M.PALETTE -/

/-- One output channel of M.PALETTE: its buffer, its weighted predictor, its samples in raster order. -/
def paletteChannel (nc nd : Nat) (pr : Predictor) (bd : Nat) (i q : Channel × Buffer) (header : Option WpHeader) (c : Nat) :
    Op Channel := do
  let row ← intRow q.1.buf q.2.width c
  let out ← alloc i.2.width i.2.height .int
  upd fun s => s.setMod fun m => { m with wp := header.map fun h => wpInit h i.2.width }
  each (List.range (i.2.width * i.2.height)) fun k =>
    palettePixel i.1.buf out nc nd bd pr row c (k % i.2.width) (k / i.2.width)
  pure { i.1 with buf := out }

/-- M.PALETTE once its operands are known, with the state `wp` of the weighted predictor that comes back at its end. -/
def paletteFinish (index pal nc nd : Nat) (pr : Predictor) (bd : Nat) (i q : Channel × Buffer) (wp : Option Wp)
    (header : Option WpHeader) : Op Unit := do
  let outs ← collect (List.range q.2.height) (paletteChannel nc nd pr bd i q header)
  upd fun t => t.setMod fun m => { m with wp := wp }
  replaceChannels index pal outs
  release i.1.buf
  release q.1.buf

theorem undoPalette_eq (index pal nc nd : Nat) (pr : Predictor) (bd : Nat) : undoPalette index pal nc nd pr bd = (do
    let i ← operandChannel index
    let q ← operandChannel pal
    check (decide (index ≠ pal) && decide (nc ≤ q.2.width)) .transform
    let s ← getState
    if pr = .weighted then do
      let wp ← present s.mod.wp .wp
      paletteFinish index pal nc nd pr bd i q s.mod.wp (some wp.header)
    else paletteFinish index pal nc nd pr bd i q s.mod.wp none) := rfl

namespace KeptByDecoding

section

variable (hP : KeptByDecoding P N)
include hP

/-! ### ANS -/

theorem setScope (sc : ScopeId) {f : ScopeTables → ScopeTables} (hf : ∀ e, e.histsOk = true → (f e).histsOk = true) :
    Ends P N (setScope sc f) := .upd fun s hs => hP.tables s sc _ hs (hf _)

theorem storeHist (sc : ScopeId) (las : Nat) (d : List Nat) : Ends P N (storeHist sc las d) := by
  intro s hs
  refine .bind (Ends.check _ _ s hs) fun _ t ht _ => ?_
  obtain ⟨hd, rfl⟩ := check_eq_ok.1 ht
  exact Ends.bind .getState (fun _ => .bind (hP.setScope sc fun e he => histsOk_append he hd) fun _ => .pure _) t hs

theorem compileAlias (sc : ScopeId) (hist las : Nat) : Ends P N (compileAlias sc hist las) := by
  refine .bind .getState fun s => .bind (.present _ _) fun code => fun t ht => ?_
  refine .bind (Ends.check _ _ t ht) fun _ u hu _ => ?_
  obtain ⟨hd, rfl⟩ := check_eq_ok.1 hu
  exact hP.setScope sc (fun e he => histsOk_set he hd) u ht

theorem histThen {k : HistKind} {sc : ScopeId} {las : Nat} {f : List Nat → Nat → Op β} (hf : ∀ d i, Ends P N (f d i)) :
    Ends P N (histThen k sc las f) :=
  .bind (hP.bits.histDecode k las) fun _ => .bind (hP.storeHist _ _ _) fun _ => hf _ _

theorem ansHist (sc : ScopeId) (las : Nat) : Ends P N (ansHist sc las) := by
  rw [ansHist_eq]
  exact .bind .getParams fun _ => .bind (hP.bits.parse _) fun _ => hP.histThen fun _ _ =>
    .bind (hP.compileAlias _ _ _) fun _ => .pure _

theorem ansInit (sc : ScopeId) : Ends P N (ansInit sc) :=
  .bind (hP.bits.readBits 32) fun _ => .bind (hP.setScope sc fun _ he => he) fun _ => .pure _

theorem ansState (sc : ScopeId) : Ends P N (ansState sc) := by
  refine .bind .getState fun s => ?_
  cases (s.scope sc).ansState with
  | some w => exact .pure w
  | none => exact .ite (hP.ansInit sc) (.fault _)

theorem ansRead (sc : ScopeId) (ctx : Nat) : Ends P N (ansRead sc ctx) :=
  .bind .getState fun _ => .bind (.present _ _) fun _ => .bind (.present _ _) fun _ => .bind (hP.ansState sc) fun _ =>
    .bind (hP.bits.ansRefill _) fun _ => .bind (hP.setScope sc fun _ he => he) fun _ => .pure _

omit hP in
theorem ansFinal (sc : ScopeId) : Ends P N (ansFinal sc) := by
  refine .bind .getState fun s => ?_
  cases (s.scope sc).ansState with
  | some w => exact .check _ _
  | none => exact .ite (.pure ()) (.fault _)

/-! ### Huffman codes and scopes -/

theorem storeTable (sc : ScopeId) (t : HuffTable) : Ends P N (storeTable sc t) := hP.setScope sc fun _ he => he

theorem huffSimple (sc : ScopeId) (a : Nat) : Ends P N (huffSimple sc a) :=
  .bind .getParams fun _ => .bind (hP.bits.parse _) fun _ => .bind (.check _ _) fun _ =>
    .bind (hP.bits.simpleSelector _) fun _ => hP.storeTable _ _

theorem huffBuild (sc : ScopeId) (lens : List Nat) : Ends P N (huffBuild sc lens) :=
  .bind .getParams fun _ => .bind (.check _ _) fun _ => hP.storeTable _ _

theorem huffCode (sc : ScopeId) (a : Nat) : Ends P N (huffCode sc a) := by
  refine .bind .getParams fun _ => .bind (hP.bits.parse _) fun kind => ?_
  cases kind with
  | simple => exact hP.huffSimple sc a
  | general skip => exact .bind (hP.bits.huffLengths a skip) fun _ => hP.huffBuild _ _

theorem readSymbol (sc : ScopeId) (ctx : Nat) : Ends P N (readSymbol sc ctx) := by
  refine .bind .getState fun s => ?_
  cases (s.scope sc).coder with
  | ans => exact hP.ansRead sc ctx
  | huff => exact hP.bits.huffRead sc ctx

theorem readValue (sc : ScopeId) (ctx : Nat) : Ends P N (readValue sc ctx) :=
  .bind (hP.readSymbol sc ctx) fun _ => .bind .getParams fun _ => hP.bits.parse _

theorem scopeTables (sc : ScopeId) : Ends P N (scopeTables sc) :=
  .bind .getParams fun _ => .bind (hP.bits.parse _) fun _ => .bind (hP.setScope sc fun _ _ => rfl) fun _ =>
    .bind (.each fun _ => .bind (hP.ansHist _ _) fun _ => .pure _) fun _ => .each fun _ => hP.huffCode _ _

theorem scopeStart (sc : ScopeId) : Ends P N (scopeStart sc) := by
  refine .bind (hP.setScope sc fun _ he => he) fun _ => .bind .getState fun s => ?_
  cases (s.scope sc).coder with
  | ans => exact .ite (.pure ()) (.bind (hP.ansInit sc) fun _ => .pure _)
  | huff => exact .pure ()

theorem scopeOpen (sc : ScopeId) : Ends P N (scopeOpen sc) := .bind (hP.scopeTables sc) fun _ => hP.scopeStart sc

omit hP in
theorem scopeFinal (sc : ScopeId) : Ends P N (scopeFinal sc) := by
  refine .bind .getState fun s => ?_
  cases (s.scope sc).coder with
  | ans => exact ansFinal sc
  | huff => exact .pure ()

theorem scopeDrop (sc : ScopeId) : Ends P N (scopeDrop sc) := .upd fun s hs => hP.dropped s sc hs

/-! ### Block steps -/

theorem setHf (f : HfBlock → HfBlock) : Ends P N (setHf f) := .upd fun s hs => hP.groups s _ hs

theorem predNz (c bx byy : Nat) : Ends P N (predNz c bx byy) :=
  .bind .getHf fun _ =>
    have named (v : Nat) : Ends P N (Machine.setHf (fun h => { h with blk := (bx, byy) }) >>= fun _ => Pure.pure v) :=
      .bind (hP.setHf _) fun _ => .pure _
    .ite (named _) (.ite (.bind (.nzAt _ _ _ _) named) (.ite (.bind (.nzAt _ _ _ _) named)
      (.bind (.nzAt _ _ _ _) fun _ => .bind (.nzAt _ _ _ _) fun _ => named _)))

theorem decodeNz (c pred t : Nat) : Ends P N (decodeNz c pred t) :=
  .bind (.catalogued _) fun _ => .bind (.blockContextOf _ _) fun _ => .bind .getHf fun _ => .bind .getLfGlobal fun _ =>
    .bind .getParams fun _ => .bind (hP.readValue _ _) fun _ => .bind (.check _ _) fun _ => .bind (hP.setHf _) fun _ =>
      .pure _

theorem scanLoop (pass cb offset shift : Nat) (order : List Nat) (fuel : Nat) (w : Scan) :
    Ends P N (scanLoop pass cb offset shift order fuel w) := by
  induction fuel generalizing w with
  | zero => exact .pure w
  | succ fuel ih => exact .ite (.pure w) (.bind .getParams fun _ => .bind (hP.readValue _ _) fun _ => ih _)

theorem decodeCoeffs (c t nz p : Nat) : Ends P N (decodeCoeffs c t nz p) :=
  .bind (.catalogued _) fun _ => .bind .getHf fun _ => .bind .getHfGlobal fun _ => .bind (.blockContextOf _ _) fun _ =>
    .bind .getFrame fun _ => .bind .getParams fun _ => .bind (.readCoeffs _ _ _) fun _ =>
      .bind (hP.scanLoop _ _ _ _ _ _ _) fun _ => .bind (hP.setHf _) fun _ =>
        .bind (hP.images.writeCoeffs _ _ _ _) fun _ => .check _ _

/-! ### Modular -/

theorem treeField (f : TreeField) : Ends P N (treeField f) := .bind .getParams fun _ => hP.readValue _ _

theorem readLeaf (ctx : Nat) : Ends P N (readLeaf ctx) := by
  refine .bind .getParams fun p => .bind (hP.treeField _) fun k => ?_
  cases Cfg.predictorOf p k with
  | none => exact .raise _
  | some predictor =>
    exact .bind (hP.treeField _) fun _ => .bind (hP.treeField _) fun _ => .bind (hP.treeField _) fun _ =>
      .bind (.check _ _) fun _ => .pure _

theorem treeLoop (fuel : Nat) (nodes : List Node) (leaves : Nat) (queue : List Waiting) :
    Ends P N (treeLoop fuel nodes leaves queue) := by
  induction fuel generalizing nodes leaves queue with
  | zero => exact .raise _
  | succ fuel ih =>
    cases queue with
    | nil => exact .pure nodes
    | cons w rest =>
      refine .bind .getParams fun p => .bind (.check _ _) fun _ => .bind (.check _ _) fun _ =>
        .bind (hP.treeField _) fun u => ?_
      cases Cfg.treeTag p u with
      | none => exact .bind (hP.readLeaf _) fun _ => ih _ _ _
      | some prop =>
        exact .bind (.check _ _) fun _ => .bind (hP.treeField _) fun _ => .bind (.check _ _) fun _ => ih _ _ _

theorem decodeTree : Ends P N decodeTree :=
  .bind .getParams fun _ => .bind (hP.scopeOpen _) fun _ => .bind (hP.treeLoop _ _ _ _) fun _ =>
    .bind (scopeFinal _) fun _ => .bind (hP.scopeDrop _) fun _ => .pure _

theorem setMod (f : Modular → Modular) : Ends P N (upd fun s => s.setMod f) := .upd fun s hs => hP.modular s f hs

theorem wpAt (ch b x y : Nat) : Ends P N (wpAt ch b x y) :=
  .bind (.neighboursAt _ _ _ _) fun _ => .upd fun s hs => hP.modular s _ hs

theorem updateWp (x : Nat) (v : Int) : Ends P N (updateWp x v) := .upd fun s hs => hP.modular s _ hs

theorem pixelProps (ch x y : Nat) : Ends P N (pixelProps ch x y) := by
  refine .bind .getModImage fun _ => .bind (.getChannel _) fun _ => .bind (.getBuf _) fun _ => .bind (hP.setMod _) fun _ =>
    .bind (hP.wpAt _ _ _ _) fun _ => .bind (.neighboursAt _ _ _ _) fun _ =>
      .ite (.bind (.pure _) fun _ => ?_) (.bind (.neighboursAt _ _ _ _) fun _ => .bind (.pure _) fun _ => ?_) <;>
  exact .bind .getState fun _ => .bind (.collect fun _ => .bind (.getInt _ _ _) fun _ =>
    .bind (.neighboursAt _ _ _ _) fun _ => .pure _) fun _ => .pure _

theorem predictPixel (l : Leaf) : Ends P N (predictPixel l) :=
  .bind .getState fun _ => .bind (.getChannel _) fun _ => .bind (.neighboursAt _ _ _ _) fun _ => .bind (.wpPixel _ _) fun _ =>
    .bind .getParams fun _ => .bind (hP.readValue _ _) fun _ => .bind (hP.images.putInt _ _ _ _) fun _ => .pure _

theorem decodePixel (ch x y : Nat) : Ends P N (decodePixel ch x y) :=
  .bind (hP.pixelProps _ _ _) fun _ => .bind (.walkTree _) fun _ => .bind (hP.predictPixel _) fun _ => hP.updateWp _ _

theorem decodeChannel (h : WpHeader) (ch : Nat) : Ends P N (decodeChannel h ch) :=
  .bind (.getChannel _) fun _ => .bind (.getBuf _) fun _ => .bind .getTree fun _ =>
    .bind (.upd fun s hs => hP.modular s _ hs) fun _ => .each fun _ => hP.decodePixel _ _ _

theorem replaceChannels (at_ gone : Nat) (new : List Channel) : Ends P N (replaceChannels at_ gone new) := hP.setMod _

theorem palettePixel (i out nc nd bd : Nat) (pr : Predictor) (row : List Int) (c x y : Nat) :
    Ends P N (palettePixel i out nc nd bd pr row c x y) := by
  refine .bind (.getInt _ _ _) fun _ => .bind .getParams fun _ => .bind (hP.wpAt _ _ _ _) fun _ =>
    .ite (.bind (.neighboursAt _ _ _ _) fun _ => .bind (.wpPixel _ _) fun _ => .bind (.pure _) fun _ => ?_)
      (.bind (.pure _) fun _ => ?_) <;>
  exact .bind (hP.images.putInt _ _ _ _) fun _ => hP.updateWp _ _

theorem paletteFinish (index pal nc nd : Nat) (pr : Predictor) (bd : Nat) (i q : Channel × Buffer) (wp : Option Wp)
    (header : Option WpHeader) : Ends P N (paletteFinish index pal nc nd pr bd i q wp header) :=
  .bind (.collect fun _ => .bind (.intRow _ _ _) fun _ => .bind (hP.images.alloc _ _ _) fun _ =>
    .bind (hP.setMod _) fun _ => .bind (.each fun _ => hP.palettePixel _ _ _ _ _ _ _ _ _ _) fun _ => .pure _) fun _ =>
    .bind (hP.setMod _) fun _ => .bind (hP.replaceChannels _ _ _) fun _ => .bind (hP.images.release _) fun _ =>
      hP.images.release _

theorem undoPalette (index pal nc nd : Nat) (pr : Predictor) (bd : Nat) : Ends P N (undoPalette index pal nc nd pr bd) := by
  rw [undoPalette_eq]
  exact .bind (.operandChannel _) fun _ => .bind (.operandChannel _) fun _ => .bind (.check _ _) fun _ =>
    .bind .getState fun _ => .ite (.bind (.present _ _) fun _ => hP.paletteFinish _ _ _ _ _ _ _ _ _ _)
      (hP.paletteFinish _ _ _ _ _ _ _ _ _ _)

theorem undoHsqueeze (avg res w : Nat) : Ends P N (undoHsqueeze avg res w) :=
  .bind (.operandChannel _) fun _ => .bind (.operandChannel _) fun _ => .bind (.check _ _) fun _ =>
    .bind (hP.images.alloc _ _ _) fun _ => .bind (.each fun _ => .bind (.intRow _ _ _) fun _ => .bind (.intRow _ _ _) fun _ =>
      hP.images.putRow _ _ _ _) fun _ => .bind (hP.replaceChannels _ _ _) fun _ => .bind (hP.images.release _) fun _ =>
        hP.images.release _

theorem undoVsqueeze (avg res h : Nat) : Ends P N (undoVsqueeze avg res h) :=
  .bind (.operandChannel _) fun _ => .bind (.operandChannel _) fun _ => .bind (.check _ _) fun _ =>
    .bind (hP.images.alloc _ _ _) fun _ => .bind (.each fun _ => .bind (.intColumn _ _ _) fun _ =>
      .bind (.intColumn _ _ _) fun _ => hP.images.putColumn _ _ _ _) fun _ => .bind (hP.replaceChannels _ _ _) fun _ =>
        .bind (hP.images.release _) fun _ => hP.images.release _

theorem undoTransform (t : ModTransform) : Ends P N (undoTransform t) := by
  cases t with
  | palette index pal nc nd pr bd => exact hP.undoPalette _ _ _ _ _ _
  | hsqueeze avg res w => exact hP.undoHsqueeze _ _ _
  | vsqueeze avg res h => exact hP.undoVsqueeze _ _ _

theorem chooseTree (c : TreeChoice) : Ends P N (chooseTree c) := by
  cases c with
  | own => exact hP.decodeTree
  | absent => exact .pure _
  | shared =>
    refine .bind .getLfGlobal fun g => ?_
    cases g.sharedTree with
    | some t => exact .pure t
    | none => exact .raise _

theorem decodeModular (place : ModPlace) (stream : Nat) : Ends P N (decodeModular place stream) :=
  .bind .getState fun _ => .bind (hP.bits.parse _) fun _ => .bind (hP.chooseTree _) fun _ =>
    .bind (.collect fun _ => .bind (hP.images.alloc _ _ _) fun _ => .pure _) fun _ => .bind (hP.setMod _) fun _ =>
      .bind (hP.scopeOpen _) fun _ => .bind (.each fun _ => hP.decodeChannel _ _) fun _ => .bind (scopeFinal _) fun _ =>
        .bind (hP.scopeDrop _) fun _ => .bind (hP.setMod _) fun _ => .bind (.each hP.undoTransform) fun _ =>
          .bind (.each hP.images.placeChannel) fun _ => .bind .getModImage fun _ => .bind (.collect .channelGrid) fun _ =>
            .bind (.each fun _ => hP.images.release _) fun _ => .bind (hP.setMod _) fun _ => .pure _

/-! ### The bodies of the sections -/

theorem setGrp (f : Groups → Groups) : Ends P N (upd fun s => s.setGrp f) := .upd fun s hs => hP.groups s f hs

theorem frameBuffers : Ends P N frameBuffers := by
  refine .bind .getParams fun p => .bind .getImageHeader fun ih => .bind .getFrame fun fh =>
    .bind (hP.images.allocAll _) fun _ => .bind (hP.setGrp _) fun _ => ?_
  cases fh.encoding with
  | modular => exact .pure ()
  | varDct =>
    exact .bind (hP.images.allocAll _) fun _ => .bind (.each hP.images.zeroFill) fun _ =>
      .bind (hP.images.zeroFill _) fun _ => hP.setGrp _

theorem startRender : Ends P N startRender :=
  .bind .getImageHeader fun _ => .bind .getFrame fun _ => .bind .getLfGlobal fun _ =>
    .upd fun s hs => hP.images.render s _ hs

theorem sharedTree : Ends P N sharedTree :=
  .bind .getParams fun _ => .bind (hP.bits.parse _) fun _ => .ite (.bind hP.decodeTree fun _ => .pure _) (.pure _)

theorem lfGlobalBody : Ends P N lfGlobalBody :=
  .bind .getParams fun _ => .bind .getFrame fun _ => .bind hP.frameBuffers fun _ => .bind (hP.bits.parse _) fun _ =>
    .bind (hP.bits.parse _) fun _ => .bind (hP.bits.parse _) fun _ => .bind (hP.bits.parse _) fun _ =>
      .bind (hP.bits.parse _) fun _ => .bind (hP.bits.parse _) fun _ => .bind hP.sharedTree fun _ =>
        .bind (hP.setGrp _) fun _ => .bind hP.startRender fun _ => .bind (hP.decodeModular _ _) fun _ => .pure _

theorem placeMaps (g : Nat) (maps : LfMaps) : Ends P N (placeMaps g maps) :=
  .bind .getParams fun _ => .bind .getFrame fun _ => .bind (.present _ _) fun _ => .bind (.each fun _ => .check _ _) fun _ =>
    .bind (.check _ _) fun _ => .bind .getSide fun _ => .bind (hP.setGrp _) fun _ =>
      .bind (.each fun _ => hP.images.placeBlock _ _ _ _ _) fun _ => .bind (.each fun _ => hP.images.placeLf _ _) fun _ =>
        .each fun _ => hP.images.placeTile _ _

theorem lfGroupBody (g : Nat) : Ends P N (lfGroupBody g) := by
  refine .bind .getParams fun _ => .bind .getFrame fun fh => .bind (hP.decodeModular _ _) fun _ => ?_
  cases fh.encoding with
  | modular => exact .pure ()
  | varDct => exact hP.placeMaps _ _

theorem hfGlobalBody : Ends P N hfGlobalBody :=
  .bind .getParams fun _ => .bind .getFrame fun _ => .bind (hP.bits.parse _) fun _ => .bind (.check _ _) fun _ =>
    .bind (.collect fun _ => .bind (hP.bits.parse _) fun _ => .bind (.check _ _) fun _ => .bind (hP.scopeTables _) fun _ =>
      .pure _) fun _ => hP.setGrp _

theorem decodeFirstBlock (pass bx byy t : Nat) : Ends P N (decodeFirstBlock pass bx byy t) :=
  .bind .getParams fun _ => .bind (.each fun _ => .bind (hP.predNz _ _ _) fun _ => .bind (hP.decodeNz _ _ _) fun _ =>
    hP.decodeCoeffs _ _ _ _) fun _ => .bind (hP.images.dequantBlock _ _ _) fun _ => hP.images.xformBlock _ _ _

theorem decodeBlock (pass bx byy : Nat) : Ends P N (decodeBlock pass bx byy) :=
  .bind .groupRect fun _ => .bind .getHfMeta fun _ => .bind (.readSample _ _ _) fun _ => .bind (.check _ _) fun _ =>
    .ite (.bind (.readSample _ _ _) fun _ => .bind (.asNat _) fun _ => hP.decodeFirstBlock _ _ _ _) (.pure ())

theorem hfGroupBody (g pass : Nat) : Ends P N (hfGroupBody g pass) := by
  refine .bind .getFrame fun fh => ?_
  cases fh.encoding with
  | modular => exact .bind (hP.decodeModular _ _) fun _ => .pure ()
  | varDct =>
    exact .bind (hP.setGrp _) fun _ => .bind (hP.scopeStart _) fun _ => .bind .groupRect fun _ =>
      .bind (.each fun _ => hP.decodeBlock _ _ _) fun _ => .bind (scopeFinal _) fun _ =>
        .bind (hP.setScope _ fun _ he => he) fun _ => hP.setGrp _

theorem combinedBody : Ends P N combinedBody := by
  refine .bind .getFrame fun fh => .bind hP.lfGlobalBody fun _ => .bind (.each hP.lfGroupBody) fun _ => ?_
  cases fh.encoding with
  | varDct => exact .bind hP.hfGlobalBody fun _ => hP.hfGroupBody 0 0
  | modular => exact hP.hfGroupBody 0 0

theorem sectionBody (fh : FrameHeader) (k : SecKind) : Ends P N (sectionBody fh k) := by
  cases k with
  | lfGlobal => exact hP.lfGlobalBody
  | lf g => exact hP.lfGroupBody g
  | hfGlobal =>
    unfold Machine.sectionBody
    cases fh.encoding with
    | varDct => exact hP.hfGlobalBody
    | modular => exact .pure ()
  | hf g p => exact hP.hfGroupBody g p
  | combined => exact hP.combinedBody

end

end KeptByDecoding

end Sys2Proof.Machine

/-! What the render pipeline keeps (46_render_pipeline.md R378). -/

namespace Sys2Proof.Machine

variable {α β : Type} {P : State → Prop} {N : Nat → Prop}

/-- A property that the updates of the render pipeline keep, those of a Save into HOST's memory among them. -/
structure KeptBySaving (P : State → Prop) : Prop where
  images : KeptByImages P
  out : ∀ s a bs, P s → P (s.setHost fun h => { h with outMem := h.outMem.writeList a bs })

namespace Ends

theorem stageBuffers (set : List Nat) : Ends P N (stageBuffers set) :=
  .bind .getRender fun _ => .collect fun _ => .present _ _

theorem bufferSize (l : List Nat) : Ends P N (bufferSize l) := by
  cases l with
  | nil => exact .pure _
  | cons h rest => exact .bind (.getBuf h) fun _ => .pure _

theorem readRows (h : Nat) : Ends P N (readRows h) := .bind (.getBuf h) fun _ => .collect fun _ => .readRow _ _ _ _

theorem stageRefs (f : StageFn) : Ends P N (stageRefs f) := by
  cases f with
  | withRef k slot =>
    refine .bind .getState fun s => ?_
    cases assocGet s.img.refs slot with
    | none => exact .raise _
    | some planes => exact .collect .readRows
  | named k => exact .pure _
  | cms => exact .pure _
  | cmsInplace => exact .pure _
  | spot k => exact .pure _
  | premultiply => exact .pure _

theorem colourCount : Ends P N colourCount := .bind .getImageHeader fun _ => .bind .getRender fun _ => .pure _

theorem askCms (n : Nat) (l : List F32) : Ends P N (askCms n l) := by
  refine .bind .getState fun s => ?_
  cases s.ctl.opt.cms with
  | none => exact .refuse _
  | some handle => exact .pure _

theorem alphaChannel : Ends P N alphaChannel :=
  .bind .getImageHeader fun _ => .bind .getParams fun _ => .bind .getRender fun _ => .pure _

theorem sampleIf (c : Bool) (h x y : Nat) : Ends P N (sampleIf c h x y) :=
  .ite (.bind (.readSample _ _ _) fun _ => .pure _) (.pure _)

theorem imageFor (hs : List Nat) (bx byy sx sy : Nat) (up : Bool) (ox oy : Nat) :
    Ends P N (imageFor hs bx byy sx sy up ox oy) :=
  .collect fun _ => .bind (.getBuf _) fun _ => .collect fun _ => .collect fun _ => .sampleIf _ _ _ _

theorem frameRow (h y fw : Nat) : Ends P N (frameRow h y fw) :=
  .bind (.getBuf h) fun _ => .ite (.readRow _ _ _ _) (.pure _)

theorem channelHeights : Ends P N channelHeights :=
  .bind .getRender fun _ => .collect fun _ => .bind (.getBuf _) fun _ => .pure _

theorem floatBuffer (h : Nat) : Ends P N (floatBuffer h) := .bind (.getBuf h) fun _ => .bind (.check _ _) fun _ => .pure _

end Ends

namespace KeptByImages

section

variable (hP : KeptByImages P)
include hP

theorem setRender (f : Render → Render) : Ends P N (setRender f) := .upd fun s hs => hP.render s _ hs

theorem nextChannels : Ends P N nextChannels :=
  .bind .getRender fun _ => .bind (.each hP.release) fun _ => hP.setRender _

theorem outputBuffers (set : List Nat) (w h : Nat) : Ends P N (outputBuffers set w h) :=
  .bind .getRender fun _ => .ite
    (.bind (.stageBuffers set) fun _ => .bind (.collect fun _ => .bind (.getBuf _) fun _ => hP.alloc _ _ _) fun _ =>
      .bind (hP.setRender _) fun _ => .pure _)
    (.pure _)

theorem cmsBuffers (input output : Nat) : Ends P N (cmsBuffers input output) :=
  .bind (.floatBuffer _) fun _ => .bind (.floatBuffer _) fun _ => .bind (.readAll _) fun _ => .bind (.collect .asFloat) fun _ =>
    .bind (.askCms _ _) fun _ => hP.writeAll _ _

/-! ### Stages -/

theorem cmsRow (set : List Nat) (y x0 n : Nat) : Ends P N (cmsRow set y x0 n) :=
  .bind .colourCount fun _ => .bind (.stageBuffers _) fun _ => .bind .getParams fun _ =>
    .bind (.collect fun _ => .bind (.readRow _ _ _ _) fun _ => .pure _) fun _ => .bind (.askCms _ _) fun _ =>
      .each fun _ => .bind (.getBuf _) fun _ => hP.writeRow _ _ _ _

theorem premultiplyRow (set : List Nat) (y x0 n : Nat) : Ends P N (premultiplyRow set y x0 n) := by
  refine .bind .alphaChannel fun a => ?_
  cases a with
  | none => exact .pure ()
  | some a =>
    exact .bind .colourCount fun _ => .bind (.stageBuffers _) fun _ => .bind (.collect fun _ => .readRow _ _ _ _) fun _ =>
      .bind (.stageBuffers _) fun _ => .bind .getParams fun _ => .each fun _ => .bind (.readRow _ _ _ _) fun _ =>
        hP.writeRow _ _ _ _

theorem fnRow (f : StageFn) (set : List Nat) (y x0 n : Nat) : Ends P N (fnRow f set y x0 n) :=
  .bind (.stageBuffers _) fun _ => .bind (.collect fun _ => .readRow _ _ _ _) fun _ => .bind (.stageRefs f) fun _ =>
    .bind .getParams fun _ => .each fun _ => .bind (.getBuf _) fun _ => hP.writeRow _ _ _ _

theorem inplaceRow (f : StageFn) (set : List Nat) (y x0 n : Nat) : Ends P N (inplaceRow f set y x0 n) := by
  cases f with
  | cms => exact hP.cmsRow _ _ _ _
  | cmsInplace => exact hP.cmsRow _ _ _ _
  | premultiply => exact hP.premultiplyRow _ _ _ _
  | named k => exact hP.fnRow _ _ _ _ _
  | withRef k slot => exact hP.fnRow _ _ _ _ _
  | spot k => exact hP.fnRow _ _ _ _ _

theorem inoutSample (f : StageFn) (set : List Nat) (bx byy sx sy : Nat) (up : Bool) (ref : List (List (List Sample)))
    (ins outs : List Nat) (x y : Nat) : Ends P N (inoutSample f set bx byy sx sy up ref ins outs x y) :=
  .bind .getParams fun _ => .bind (.imageFor _ _ _ _ _ _ _ _) fun _ => .each fun _ => .bind (.getBuf _) fun _ =>
    hP.writeSample _ _ _ _

theorem inoutPart (f : StageFn) (set : List Nat) (bx byy sx sy : Nat) (up : Bool) (rows columns : List Nat) :
    Ends P N (inoutPart f set bx byy sx sy up rows columns) :=
  .bind (.stageBuffers _) fun _ => .bind (.bufferSize _) fun _ => .bind (hP.outputBuffers _ _ _) fun _ =>
    .bind (.stageRefs f) fun _ => .each fun _ => .each fun _ => hP.inoutSample _ _ _ _ _ _ _ _ _ _ _ _

theorem inoutRow (f : StageFn) (set : List Nat) (bx byy sx sy : Nat) (up : Bool) (y x0 n : Nat) :
    Ends P N (inoutRow f set bx byy sx sy up y x0 n) :=
  .bind (.stageBuffers _) fun _ => .bind (.bufferSize _) fun _ => .bind (hP.inoutPart _ _ _ _ _ _ _ _ _) fun _ =>
    .ite hP.nextChannels (.pure ())

theorem extendPart (pad : StageFn) (rect : Place) (cw ch y : Nat) : Ends P N (extendPart pad rect cw ch y) := by
  refine .bind .getRender fun _ => .bind (hP.outputBuffers _ _ _) fun _ => .bind (.stageRefs pad) fun _ =>
    .bind .getParams fun _ => ?_
  cases landing rect ch y with
  | none => exact .pure ()
  | some t => exact .each fun _ => .bind (.getBuf _) fun _ => .bind (.frameRow _ _ _) fun _ => hP.writeRow _ _ _ _

theorem extendRow (pad : StageFn) (rect : Place) (cw ch y : Nat) : Ends P N (extendRow pad rect cw ch y) :=
  .bind (hP.extendPart _ _ _ _ _) fun _ => .ite hP.nextChannels (.pure ())

theorem padRows (pad : StageFn) (cw : Nat) (rows : List Nat) : Ends P N (padRows pad cw rows) :=
  .bind .getRender fun _ => .bind (.stageRefs pad) fun _ => .bind .getParams fun _ => .each fun _ => .each fun _ =>
    .bind (.getBuf _) fun _ => hP.writeRow _ _ _ _

theorem checkPlanes (out : List Plane) : Ends P N (checkPlanes out) :=
  .bind .getRender fun _ => .ite (.pure ()) (.bind .getImageHeader fun _ => .bind .getState fun _ =>
    .bind (.check _ _) fun _ => hP.setRender _)

theorem copyPlane (fh : FrameHeader) (plane : Nat) : Ends P N (copyPlane fh plane) :=
  .bind (.getBuf _) fun _ => .bind (hP.alloc _ _ _) fun _ => .bind (.each fun _ => .bind (.readRow _ _ _ _) fun _ =>
    hP.writeRow _ _ _ _) fun _ => .pure _

end

end KeptByImages

namespace KeptBySaving

section

variable (hP : KeptBySaving P)
include hP

theorem putOut (pl : Plane) (y off : Nat) (bs : List Byte) : Ends P N (putOut pl y off bs) :=
  .ite (.upd fun s hs => hP.out s _ _ hs) (.pure ())

theorem saveRow (channel plane y x0 n : Nat) : Ends P N (saveRow channel plane y x0 n) := by
  refine .bind .getState fun s => ?_
  cases s.ctl.out with
  | none => exact .pure ()
  | some out =>
    refine .bind (hP.images.checkPlanes out) fun _ => .bind .getRender fun _ => .bind .getImageHeader fun _ =>
      .bind (.present _ _) fun _ => ?_
    cases out[plane]? with
    | none => exact .raise _
    | some pl =>
      exact .bind (.readRow _ _ _ _) fun _ => .bind .getParams fun _ => .each fun _ => hP.putOut _ _ _ _

theorem runStage (r : StageRun) : Ends P N (runStage r) := by
  unfold Machine.runStage
  cases r.stage with
  | inplace f set =>
    exact .bind (.stageBuffers _) fun _ => .bind (.bufferSize _) fun _ => .each fun _ => hP.images.inplaceRow _ _ _ _ _
  | inout f set bx byy sx sy up =>
    exact .bind (.stageBuffers _) fun _ => .bind (.bufferSize _) fun _ =>
      .bind (hP.images.inoutPart _ _ _ _ _ _ _ _ _) fun _ => hP.images.nextChannels
  | save channel plane =>
    exact .bind (.stageBuffers _) fun _ => .bind (.bufferSize _) fun _ => .each fun _ => hP.saveRow _ _ _ _ _
  | extend pad rect cw ch =>
    exact .bind (hP.images.outputBuffers _ _ _) fun _ => .bind (.each fun _ => hP.images.extendPart _ _ _ _ _) fun _ =>
      .bind hP.images.nextChannels fun _ => hP.images.padRows _ _ _

theorem outside (pad : StageFn) (cw ch : Nat) (rect : Place) : Ends P N (outside pad cw ch rect) :=
  .bind .getRender fun _ => .bind (hP.images.padRows _ _ _) fun _ => .bind .getState fun _ =>
    .bind .channelHeights fun _ => .each hP.runStage

theorem renderFrame : Ends P N renderFrame :=
  .bind .getFrame fun _ => .bind .getRender fun _ => .bind (.each hP.images.release) fun _ =>
    .bind (.each hP.images.release) fun _ => .bind .getState fun _ => .bind (.collect fun _ => hP.images.copyPlane _ _) fun _ =>
      .bind (hP.images.setRender _) fun _ => .bind .channelHeights fun _ => .each hP.runStage

theorem renderGroup (g : Nat) : Ends P N (renderGroup g) := by
  refine .bind .getState fun s => .bind .getFrame fun fh => .bind .getRender fun _ => .bind (hP.images.setRender _) fun _ =>
    .bind .getRender fun r => ?_
  cases commonPasses r.ready with
  | none => exact .pure ()
  | some n => exact .ite (.bind hP.renderFrame fun _ => hP.images.setRender _) (.pure ())

theorem finishRender : Ends P N finishRender := by
  refine .bind .getRender fun _ => .bind .getFrame fun _ => .ite (.bind hP.renderFrame fun _ => ?_) ?_ <;>
  exact .bind .getRender fun _ => .bind (.each hP.images.release) fun _ =>
    .bind (.upd fun s hs => hP.images.render s _ hs) fun _ => .pure _

end

end KeptBySaving

end Sys2Proof.Machine

/-! Every instruction as an operation, and what an instruction keeps: a property that the updates of the operations keep
holds wherever an instruction ends. -/

namespace Sys2Proof.Machine

variable {α β : Type} {P : State → Prop} {N : Nat → Prop}

/-! ### The operation of an instruction -/

/-- PROCESS as an operation. -/
def processOp (src : Nat) (opts : Options) (out : Option (List Plane)) : Op OpValue := do
  let s ← getState
  match processRefusal src opts out s with
  | some r => stop (.refuse r)
  | none =>
    if s.ctl.phase = .faulted then pure (.result (.err s.ctl.err 0))
    else do
      upd fun s => s.setCtl fun c =>
        { c with busy := true, err := c.err.atStart, opt := opts, optValid := true, src := src, out := out }
      pure .none

/-- RESET as an operation. -/
def resetOp : Op OpValue := do
  let s ← getState
  if s.ctl.busy then stop (.refuse .reentrant)
  else do
    upd fun s => { State.reset with host := s.host, inp := s.counted.inp }
    pure .none

/-- OUT.QUERY as an operation. -/
def outQueryOp : Op OpValue := do
  let s ← getState
  if s.ctl.busy then stop (.refuse .reentrant)
  else if s.ctl.infoValid then do
    let h ← getImageHeader
    let p ← getParams
    pure (.planes (Cfg.expectedPlanes p h s.ctl.opt.pixelFormat))
  else stop (.refuse .noInfo)

/-- I.FREE as an operation. -/
def freeBuffer (b : Nat) : Op Unit := do
  let x ← getBuf b
  match x.ownership with
  | .borrowed _ _ _ _ _ _ _ => pure ()
  | .owned => do
    let s ← getState
    if s.img.bufs.any fun e => e.2.borrowsFrom b then stop (.fault .liveView)
    else release b

/-- What an instruction does, before an abandoned step is undone and its end is taken. -/
def bodyOf (i : Instr) : Op OpValue :=
  match i with
  | .process src opts out => processOp src opts out
  | .reset => resetOp
  | .outQuery => outQueryOp
  | .srcAvail => getState >>= fun s => pure (.nat s.available)
  | .srcRead caps => sourceRead caps.sum >>= fun k => pure (.nat k)
  | .srcSkip n => sourceSkip n >>= fun k => pure (.nat k)
  | .cmsXform input output => cmsBuffers input output >>= fun _ => pure .none
  | .cmsXformInplace buffer => cmsBuffers buffer buffer >>= fun _ => pure .none
  | .pFileHeader => fileHeader
  | .pColorProfile => colorProfile
  | .pFrameHeader => frameHeader
  | .pToc => toc
  | .pBuffer => buffer
  | .pDispatch => dispatch
  | .pSkip => skip
  | .pFrameDone => frameDone
  | .pFinish => finishStream >>= fun _ => pure .none
  | .pFill want => fill want >>= fun _ => pure .none
  | .sLfGlobal sec => withSection sec lfGlobalBody >>= fun _ => pure .none
  | .sLfGroup sec g => withSection sec (lfGroupBody g) >>= fun _ => pure .none
  | .sHfGlobal sec => withSection sec hfGlobalBody >>= fun _ => pure .none
  | .sHfGroup sec g p => withSection sec (hfGroupBody g p) >>= fun _ => pure .none
  | .ansHist sc las => ansHist sc las >>= fun d => pure (.nats d)
  | .ansHistSingle sc las => histThen .single sc las fun d _ => pure (.nats d)
  | .ansHistTwo sc las => histThen .two sc las fun d _ => pure (.nats d)
  | .ansHistFlat sc las => histThen .flat sc las fun d _ => pure (.nats d)
  | .ansHistComplex sc las => histThen .complex sc las fun d _ => pure (.nats d)
  | .ansAlias sc hist las => compileAlias sc hist las >>= fun _ => pure .none
  | .ansInit sc => (ansInit sc >>= fun _ => pure ()) >>= fun _ => pure .none
  | .ansRead sc ctx => ansRead sc ctx >>= fun v => pure (.nat v)
  | .ansFinal sc => ansFinal sc >>= fun _ => pure .none
  | .huffSimple sc a => huffSimple sc a >>= fun _ => pure .none
  | .huffLengths _ a skip => huffLengths a skip >>= fun l => pure (.nats l)
  | .huffBuild sc lens => huffBuild sc lens >>= fun _ => pure .none
  | .huffRead sc ctx => huffRead sc ctx >>= fun v => pure (.nat v)
  | .bPredNz c bx byy => predNz c bx byy >>= fun v => pure (.nat v)
  | .bNz c pred t => decodeNz c pred t >>= fun v => pure (.nat v)
  | .bCoeffs c t nz p => decodeCoeffs c t nz p >>= fun _ => pure .none
  | .bDequant bx byy t => dequantBlock bx byy t >>= fun _ => pure .none
  | .bXform bx byy t => xformBlock bx byy t >>= fun _ => pure .none
  | .mTree => (decodeTree >>= fun t => upd fun s => s.setMod fun m => { m with tree := some t }) >>= fun _ => pure .none
  | .mProps ch x y => pixelProps ch x y >>= fun l => pure (.props l)
  | .mWalk props => walkTree props >>= fun l => pure (.leaf l)
  | .mPredict leaf _ => predictPixel leaf >>= fun v => pure (.int v)
  | .mWp x y => do
    let s ← getState
    let _ ← getWp
    let c ← getChannel s.mod.cur.1
    wpAt s.mod.cur.1 c.buf x y
    let wp ← getWp
    pure (.pair wp.pred wp.prop)
  | .mWpUpdate x _ value => (getWp >>= fun _ => updateWp x value) >>= fun _ => pure .none
  | .mPalette index pal nc nd pr bd => undoPalette index pal nc nd pr bd >>= fun _ => pure .none
  | .mHsqueeze avg res w => undoHsqueeze avg res w >>= fun _ => pure .none
  | .mVsqueeze avg res h => undoVsqueeze avg res h >>= fun _ => pure .none
  | .xIdct h w coeff out => (check (isIdctPair h w) .transform >>= fun _ =>
    transformViews { kind := .idct, h := h, w := w } coeff out) >>= fun _ => pure .none
  | .xAfv k coeff out => transformViews { kind := .afv k, h := 8, w := 8 } coeff out >>= fun _ => pure .none
  | .xIdentity coeff out => transformViews { kind := .identity, h := 8, w := 8 } coeff out >>= fun _ => pure .none
  | .xDct2x2 coeff out => transformViews { kind := .dct2x2, h := 8, w := 8 } coeff out >>= fun _ => pure .none
  | .xDct4x4 coeff out => transformViews { kind := .dct4x4, h := 8, w := 8 } coeff out >>= fun _ => pure .none
  | .xDct8x4 coeff out => transformViews { kind := .dct8x4, h := 8, w := 8 } coeff out >>= fun _ => pure .none
  | .xDct4x8 coeff out => transformViews { kind := .dct4x8, h := 8, w := 8 } coeff out >>= fun _ => pure .none
  | .rInplace f y x0 x1 => inplaceRow f.fn f.channels y x0 (x1 + 1 - x0) >>= fun _ => pure .none
  | .rInout f bx byy sx sy up part =>
    inoutRow f.fn f.channels bx byy sx sy up part.y part.x0 (part.x1 + 1 - part.x0) >>= fun _ => pure .none
  | .rSave channel plane y x0 x1 => saveRow channel plane y x0 (x1 + 1 - x0) >>= fun _ => pure .none
  | .rExtend rect cw ch y => extendRow rect.pad rect.rect cw ch y >>= fun _ => pure .none
  | .rGroup g => renderGroup g >>= fun _ => pure .none
  | .rOutside cw ch rect => outside rect.pad cw ch rect.rect >>= fun _ => pure .none
  | .iAlloc w h ty => alloc w h ty >>= fun b => pure (.buf b)
  | .iRow b y mode => getBuf b >>= fun x => view b 0 y x.width 1 mode >>= fun h => pure (.buf h)
  | .iRows b rows mode => do
    let x ← getBuf b
    if rows.all fun y => decide (y < x.height) then
      if repeats rows then stop (.fault .viewOverlap)
      else do
        let hs ← collect rows fun y => view b 0 y x.width 1 mode
        pure (.bufs hs)
    else stop (.fault .outOfBounds)
  | .iRect b x0 y0 w h mode => view b x0 y0 w h mode >>= fun v => pure (.buf v)
  | .iFree b => freeBuffer b >>= fun _ => pure .none

/-- The operation of an instruction: one that reads bits of the codestream commits whole or not at all. -/
def opOf (i : Instr) : Op OpValue := if Sys2Proof.Claims.readsBits i then commitOrAbandon (bodyOf i) else bodyOf i

/-- What comes after a step and returns only a value may be part of it. -/
theorem commitOrAbandon_bind_pure (op : Op α) (f : α → β) :
    (commitOrAbandon op >>= fun a => pure (f a)) = commitOrAbandon (op >>= fun a => pure (f a)) := by
  funext s
  rw [Op.bind_apply]
  unfold commitOrAbandon
  rw [Op.bind_apply]
  cases op s with
  | ok a t => rfl
  | error e t => cases e <;> rfl

theorem runUnit_commitOrAbandon (op : Op Unit) (s : State) :
    runUnit (commitOrAbandon op) s = run (commitOrAbandon (op >>= fun _ => pure .none)) s := by
  unfold runUnit
  rw [commitOrAbandon_bind_pure]

theorem execProcess_eq_run (src : Nat) (opts : Options) (out : Option (List Plane)) (s : State) :
    execProcess src opts out s = run (processOp src opts out) s := by
  unfold execProcess run processOp
  rw [Op.bind_ok (getState_apply s)]
  cases processRefusal src opts out s with
  | some r => rfl
  | none =>
    simp only
    split_ifs <;> rfl

theorem execReset_eq_run (s : State) : execReset s = run resetOp s := by
  unfold execReset run resetOp
  rw [Op.bind_ok (getState_apply s)]
  split_ifs <;> rfl

theorem execOutQuery_eq_run (s : State) : execOutQuery s = run outQueryOp s := by
  unfold execOutQuery run outQueryOp
  rw [Op.bind_ok (getState_apply s)]
  split_ifs <;> rfl

/-- Every instruction is its operation, run. -/
theorem exec_eq_run (i : Instr) (s : State) : exec i s = run (opOf i) s := by
  cases i with
  | process src opts out => exact execProcess_eq_run src opts out s
  | reset => exact execReset_eq_run s
  | outQuery => exact execOutQuery_eq_run s
  | ansInit sc => exact runUnit_commitOrAbandon _ s
  | huffSimple sc a => exact runUnit_commitOrAbandon _ s
  | bCoeffs c t nz p => exact runUnit_commitOrAbandon _ s
  | mTree => exact runUnit_commitOrAbandon _ s
  | _ => rfl

/-! ### The values instructions return -/

/-- Where the operation completes, its value satisfies `Q`. -/
def Yields (Q : α → Prop) (op : Op α) : Prop := ∀ s a t, op s = .ok a t → Q a

namespace Yields

variable {Q : α → Prop}

theorem pure {a : α} (h : Q a) : Yields Q (pure a : Op α) := by
  intro s b t hb
  cases hb
  exact h

theorem stop (e : Stop) : Yields Q (stop e : Op α) := by
  intro s b t hb
  cases hb

theorem bind {x : Op β} {f : β → Op α} (hf : ∀ b, Yields Q (f b)) : Yields Q (x >>= f) := by
  intro s a t h
  obtain ⟨b, u, -, hb⟩ := Op.bind_eq_ok.1 h
  exact hf b u a t hb

theorem ite {c : Prop} [Decidable c] {x y : Op α} (hx : Yields Q x) (hy : Yields Q y) : Yields Q (if c then x else y) := by
  split
  · exact hx
  · exact hy

theorem commitOrAbandon {op : Op α} (h : Yields Q op) : Yields Q (commitOrAbandon op) := by
  intro s a t ha
  exact h s a t (of_commitOrAbandon_ok ha)

end Yields

/-- A value that an instruction gives back without an error being taken. -/
def OpValue.noError (v : OpValue) : Prop := ∀ e n, v ≠ .result (.err e n)

theorem yieldEvent_noError (e : Event) : Yields OpValue.noError (yieldEvent e) := .bind fun _ => .pure (by simp [OpValue.noError])

theorem noError_none : OpValue.noError .none := by simp [OpValue.noError]

/-- Only PROCESS in FAULTED returns an error as its value. -/
theorem bodyOf_noError {i : Instr} (hi : ∀ src opts out, i ≠ .process src opts out) : Yields OpValue.noError (bodyOf i) := by
  have none : Yields OpValue.noError (pure .none : Op OpValue) := .pure noError_none
  cases i with
  | process src opts out => exact absurd rfl (hi src opts out)
  | reset => exact .bind fun _ => .ite (.stop _) (.bind fun _ => none)
  | outQuery =>
    exact .bind fun _ => .ite (.stop _) (.ite (.bind fun _ => .bind fun _ => .pure (by simp [OpValue.noError])) (.stop _))
  | pFileHeader =>
    exact .bind fun _ => .bind fun _ => .bind fun _ => .bind fun _ => .bind fun _ => .bind fun _ => .bind fun _ => none
  | pColorProfile => exact .bind fun _ => .bind fun _ => .bind fun _ => .bind fun _ => yieldEvent_noError _
  | pFrameHeader =>
    exact .bind fun _ => .bind fun _ => .bind fun _ => .bind fun _ => .bind fun _ => .bind fun _ => .bind fun _ => none
  | pToc =>
    exact .bind fun _ => .bind fun _ => .bind fun _ => .bind fun _ => .bind fun _ => .bind fun _ => .bind fun _ =>
      .bind fun _ => .bind fun _ => none
  | pBuffer =>
    refine .bind fun l => ?_
    cases fillingSection l with
    | none => exact none
    | some e =>
      exact .bind fun _ => .ite (.bind fun _ => .bind fun _ => .bind fun _ => .bind fun _ => none)
        (.bind fun _ => .bind fun _ => .bind fun _ => none)
  | pDispatch =>
    refine .bind fun l => ?_
    cases nextPending 0 l with
    | none => exact .stop _
    | some e =>
      refine .ite (.bind fun _ => .bind fun _ => .bind fun _ => ?_) (.stop _)
      cases sectionGroup e.2.kind with
      | none => exact .bind fun _ => .ite (.bind fun _ => none) none
      | some g => exact .bind fun _ => .bind fun _ => .ite (.bind fun _ => none) none
  | pSkip =>
    exact .bind fun _ => .bind fun _ => .bind fun _ => .bind fun _ => .bind fun _ => .bind fun _ =>
      .ite (.bind fun _ => .bind fun _ => none) none
  | pFrameDone =>
    refine .bind fun s => ?_
    have last : Yields OpValue.noError (if s.ctl.surfaced then yieldEvent .frameReady else pure .none) :=
      .ite (yieldEvent_noError _) none
    cases s.ctl.mode with
    | decode => exact .bind fun _ => .bind fun _ => .ite (.bind fun _ => last) (.bind fun _ => last)
    | skip => exact .bind fun _ => .ite (.bind fun _ => last) (.bind fun _ => last)
  | ansHistSingle sc las => exact .bind fun _ => .bind fun _ => .pure (by simp [OpValue.noError])
  | ansHistTwo sc las => exact .bind fun _ => .bind fun _ => .pure (by simp [OpValue.noError])
  | ansHistFlat sc las => exact .bind fun _ => .bind fun _ => .pure (by simp [OpValue.noError])
  | ansHistComplex sc las => exact .bind fun _ => .bind fun _ => .pure (by simp [OpValue.noError])
  | mWp x y => exact .bind fun _ => .bind fun _ => .bind fun _ => .bind fun _ => .bind fun _ => .pure (by simp [OpValue.noError])
  | iRow b y mode => exact .bind fun _ => .bind fun _ => .pure (by simp [OpValue.noError])
  | iRows b rows mode =>
    exact .bind fun _ => .ite (.ite (.stop _) (.bind fun _ => .pure (by simp [OpValue.noError]))) (.stop _)
  | _ => exact .bind fun _ => .pure (by simp [OpValue.noError])

end Sys2Proof.Machine

/-! What the instructions keep. -/

namespace Sys2Proof.Machine

variable {α β : Type} {P Q : State → Prop} {N : Nat → Prop}

/-! ### Two properties together -/

theorem KeptByBits.and (hP : KeptByBits P N) {M : Nat → Prop} (hQ : KeptByBits Q M) : KeptByBits (fun s => P s ∧ Q s) N where
  bitpos s n h := ⟨hP.bitpos s n h.1, hQ.bitpos s n h.2⟩
  stage s g h := ⟨hP.stage s g h.1, hQ.stage s g h.2⟩
  advanced s r n h hr := ⟨hP.advanced s r n h.1 hr, hQ.advanced s r n h.2 hr⟩
  source s k h hk := ⟨hP.source s k h.1 hk, hQ.source s k h.2 hk⟩
  drawn s h := ⟨hP.drawn s h.1, hQ.drawn s h.2⟩
  waits s n h := hP.waits s n h.1

theorem KeptByImages.and (hP : KeptByImages P) (hQ : KeptByImages Q) : KeptByImages fun s => P s ∧ Q s where
  allocated s w h ty hs := ⟨hP.allocated s w h ty hs.1, hQ.allocated s w h ty hs.2⟩
  samples s h b l hs hb := ⟨hP.samples s h b l hs.1 hb, hQ.samples s h b l hs.2 hb⟩
  released s h hs := ⟨hP.released s h hs.1, hQ.released s h hs.2⟩
  counted s hs := ⟨hP.counted s hs.1, hQ.counted s hs.2⟩
  render s r hs := ⟨hP.render s r hs.1, hQ.render s r hs.2⟩

theorem KeptByDecoding.and (hP : KeptByDecoding P N) {M : Nat → Prop} (hQ : KeptByDecoding Q M) :
    KeptByDecoding (fun s => P s ∧ Q s) N where
  bits := hP.bits.and hQ.bits
  images := hP.images.and hQ.images
  tables s sc e hs he := ⟨hP.tables s sc e hs.1 he, hQ.tables s sc e hs.2 he⟩
  dropped s sc hs := ⟨hP.dropped s sc hs.1, hQ.dropped s sc hs.2⟩
  modular s f hs := ⟨hP.modular s f hs.1, hQ.modular s f hs.2⟩
  groups s f hs := ⟨hP.groups s f hs.1, hQ.groups s f hs.2⟩

/-- Decoding writes neither the image header nor the table of sections. -/
theorem keptByDecoding_headerAndSect (R : Option ImageHeader → List Section → Prop) :
    KeptByDecoding (fun s => R s.par.imageHeader s.par.sect) fun _ => True where
  bits := ⟨fun _ _ h => h, fun _ _ h => h, fun _ _ _ h _ => h, fun _ _ h _ => h, fun _ h => h, fun _ _ _ _ _ => trivial⟩
  images := ⟨fun _ _ _ _ h => h, fun _ _ _ _ h _ => h, fun _ _ h => h, fun _ h => h, fun _ _ h => h⟩
  tables _ _ _ h _ := h
  dropped _ _ h := h
  modular _ _ h := h
  groups _ _ h := h

/-! ### The updates of the instructions -/

/-- What an abandoned step leaves that began in `s` and was abandoned in `t` (40_parser.md R139, R141). -/
def State.abandonedIn (s t : State) : State :=
  { s with
    par := { s.par with stage := stageAfter s t }, host := { s.host with sources := t.host.sources }, inp := t.inp }

/-- A property that the updates of every instruction keep, apart from those of a Save, of the reference slots and of RESET:
those of decoding, and of the parser's steps, the command state, views and the end of a frame. -/
structure KeptByCore (P : State → Prop) (N : Nat → Prop) : Prop where
  decoding : KeptByDecoding P N
  waits : ∀ n, 1 ≤ n → N n
  ctl : ∀ s f, P s → (f s.ctl).infoValid = s.ctl.infoValid → P (s.setCtl f)
  info : ∀ s, P s → s.par.imageHeader.isSome = true → P (s.setCtl fun c => { c with infoValid := true })
  par : ∀ s f, P s → (s.par.imageHeader.isSome = true → (f s.par).imageHeader.isSome = true) →
    (s.par.sect.all Section.readyOk = true → (f s.par).sect.all Section.readyOk = true) → P (s.setPar f)
  ret : ∀ s v, P s → P (s.setRet v)
  viewed : ∀ s h b x0 y0 w ht mode, P s → assocGet s.img.bufs h = some b → P (s.viewed h b x0 y0 w ht mode)
  destroyed : ∀ s, P s → P s.destroyFrame
  pooled : ∀ s l, P s → P (s.setImg fun i => { i with pool := l })
  abandoned : ∀ s t, P s → P t → P (s.abandonedIn t)

/-! ### The table of sections -/

theorem getSect_eq_ok {l : List Section} {s t : State} (h : getSect s = .ok l t) : t = s ∧ s.par.sect = l := by
  unfold getSect at h
  rw [Op.bind_ok (getState_apply s)] at h
  cases hs : s.par.sect with
  | nil => rw [hs] at h; cases h
  | cons x rest => rw [hs] at h; cases h; exact ⟨rfl, rfl⟩

theorem mem_of_findSection {f : Section → Bool} {l : List Section} {i j : Nat} {x : Section}
    (h : findSection f i l = some (j, x)) : x ∈ l := by
  induction l generalizing i with
  | nil => cases h
  | cons y rest ih =>
    unfold findSection at h
    split at h
    · cases h
      exact List.mem_cons_self
    · exact List.mem_cons_of_mem _ (ih h)

theorem mem_of_nextPending {l : List Section} {i j : Nat} {x : Section} (h : nextPending i l = some (j, x)) : x ∈ l := by
  induction l generalizing i j x with
  | nil => cases h
  | cons y rest ih =>
    unfold nextPending at h
    cases hr : nextPending (i + 1) rest with
    | none =>
      rw [hr] at h
      simp only at h
      split at h <;> cases h
      exact List.mem_cons_self
    | some e =>
      rw [hr] at h
      simp only at h
      split at h <;> cases h
      · exact List.mem_cons_self
      · exact List.mem_cons_of_mem _ (ih hr)

theorem readyOk_set {l : List Section} {i : Nat} {x : Section} (hl : l.all Section.readyOk = true) (hx : x.readyOk = true) :
    (l.set i x).all Section.readyOk = true := by
  rw [List.all_eq_true] at *
  intro y hy
  rcases List.mem_or_eq_of_mem_set hy with hy | rfl
  · exact hl y hy
  · exact hx

theorem readyOk_buildSections (fh : FrameHeader) (perm : Option (List Nat)) (i start : Nat) (lens : List Nat) :
    (buildSections fh perm i start lens).all Section.readyOk = true := by
  induction lens generalizing i start with
  | nil => rfl
  | cons n rest ih =>
    simp only [buildSections, List.all_cons, ih, Bool.and_true]
    simp [Section.readyOk]

theorem Ends.withSection {body : Op α} (hr : ∀ s r, P s → P (s.setPar fun p => { p with reader := r })) (sec : Nat)
    (hb : Ends P N body) : Ends P N (withSection sec body) :=
  .bind .getState fun _ => .bind (.present _ _) fun _ => .bind (.upd fun s hs => hr s _ hs) fun _ => .bind hb fun _ =>
    .bind (.upd fun s hs => hr s _ hs) fun _ => .pure _

/-! ### The ends of P.BUFFER and P.DISPATCH -/

/-- The section with more of its bytes. -/
def Section.filled (x : Section) (got : List Byte) : Section :=
  { x with bytes := x.bytes ++ got, ready := x.ready + got.length }

/-- P.BUFFER for the section stored `i`-th, whose next byte is codestream byte `at_`. -/
def moveBytes (i at_ : Nat) (x : Section) : Op OpValue := do
  let s ← getState
  let got := (s.par.stage.bytesFrom at_).take (x.total - x.ready)
  upd fun s => s.setPar fun q => { q with sect := q.sect.set i (x.filled got) }
  setBitpos (8 * (at_ + got.length))
  pure .none

/-- P.DISPATCH once the decode of a section of kind `k` has ended and the section is marked. -/
def renderAndEnd (k : SecKind) : Op OpValue := do
  match sectionGroup k with
  | some g => renderGroup g
  | none => pure ()
  let s ← getState
  if allDone s.par.sect then setPhase .frameDone
  pure .none

namespace KeptByCore

section

variable (hP : KeptByCore P N)
include hP

theorem setPhase (ph : Phase) : Ends P N (setPhase ph) := .upd fun s hs => hP.ctl s _ hs rfl

/-- An update of the parser's state that writes neither the image header nor the sections. -/
theorem updPar {f : Parsing → Parsing} (hh : ∀ p, (f p).imageHeader = p.imageHeader) (hf : ∀ p, (f p).sect = p.sect) :
    Ends P N (upd fun s => s.setPar f) :=
  .upd fun s hs => hP.par s f hs (fun h => by rw [hh]; exact h) fun h => by rw [hf]; exact h

theorem header {f : Parsing → Parsing} (hh : ∀ p, (f p).imageHeader.isSome = true) (hf : ∀ p, (f p).sect = p.sect) :
    Ends P N (upd fun s => s.setPar f) :=
  .upd fun s hs => hP.par s f hs (fun _ => hh _) fun h => by rw [hf]; exact h

theorem yieldEvent (e : Event) : Ends P N (yieldEvent e) := .bind (.upd fun s hs => hP.ctl s _ hs rfl) fun _ => .pure _

theorem reader (s : State) (r : Option Reader) (hs : P s) : P (s.setPar fun p => { p with reader := r }) :=
  hP.par s _ hs (fun h => h) fun h => h

theorem withSection {body : Op α} (sec : Nat) (hb : Ends P N body) : Ends P N (withSection sec body) :=
  Ends.withSection hP.reader sec hb

/-! ### Header steps -/

theorem fileHeader : Ends P N fileHeader :=
  .bind .getParams fun _ => .bind (hP.decoding.bits.ask _) fun _ => .bind .getState fun _ => .bind (.check _ _) fun _ =>
    .bind (hP.header (fun _ => rfl) fun _ => rfl) fun _ => .bind (hP.decoding.bits.setBitpos _) fun _ =>
      .bind (hP.setPhase _) fun _ => .pure _

theorem readProfile (h : ImageHeader) :
    Ends (fun s => P s ∧ s.par.imageHeader.isSome = true) N (readProfile h) := by
  have hB := hP.decoding.bits.and (keptByDecoding_headerAndSect fun h _ => h.isSome = true).bits
  unfold Machine.readProfile
  cases h.color with
  | simple c => exact .pure ()
  | icc l =>
    exact .bind .getParams fun _ => .bind (hB.ask _) fun _ => .bind .getState fun _ =>
      .bind (.upd fun s hs => ⟨hP.par s _ hs.1 (fun _ => rfl) fun h => h, rfl⟩) fun _ => hB.setBitpos _

theorem colorProfile : Ends P N colorProfile := by
  intro s hs
  refine .bind (Ends.getImageHeader s hs) fun h t ht _ => ?_
  obtain ⟨hh, rfl⟩ := present_eq_ok.1 ((Op.bind_ok (getState_apply s) _).symm.trans ht)
  have hPQ : P t ∧ t.par.imageHeader.isSome = true := ⟨hs, by rw [hh]; rfl⟩
  have hread := hP.readProfile h t hPQ
  have hrest : Ends (fun s => P s ∧ s.par.imageHeader.isSome = true) N (do
      Machine.setPhase .needFrameHeaderToc
      upd fun s => s.setCtl fun c => { c with infoValid := true }
      Machine.yieldEvent .imageInfo) :=
    .bind (.upd fun s hs => ⟨hP.ctl s _ hs.1 rfl, hs.2⟩) fun _ => .bind (.upd fun s hs => ⟨hP.info s hs.1 hs.2, hs.2⟩) fun _ =>
      .bind (.upd fun s hs => ⟨hP.ctl s _ hs.1 rfl, hs.2⟩) fun _ => .pure _
  exact (EndsAt.bind hread fun _ u _ hu => hrest u hu).mono fun _ h => h.1

theorem frameHeader : Ends P N frameHeader :=
  .bind .getParams fun _ => .bind .getImageHeader fun _ => .bind (hP.decoding.bits.ask _) fun _ => .bind .getState fun _ =>
    .bind (.check _ _) fun _ => .bind (.upd fun s hs => hP.ctl _ _ (hP.par s _ hs (fun h => h) fun h => h) rfl) fun _ =>
      .bind (hP.decoding.bits.setBitpos _) fun _ => .pure _

theorem toc : Ends P N toc :=
  .bind .getParams fun _ => .bind .getFrame fun _ => .bind (hP.decoding.bits.ask _) fun _ => .bind .getState fun _ =>
    .bind (.check _ _) fun _ => .bind (.check _ _) fun _ =>
      .bind (.upd fun s hs => hP.par s _ hs (fun h => h) fun _ => readyOk_buildSections _ _ _ _ _) fun _ =>
        .bind (hP.decoding.bits.setBitpos _) fun _ => .bind (hP.setPhase _) fun _ => .pure _

/-! ### Sections -/

/-- Moving bytes into a section of the table: it takes no more than it lacks. -/
theorem moveBytes {i at_ : Nat} {x : Section} {s : State} (hs : P s) (hx : x ∈ s.par.sect) :
    EndsAt P N (moveBytes i at_ x) s := by
  have hfit : (x.filled ((s.par.stage.bytesFrom at_).take (x.total - x.ready))).readyOk = x.readyOk := by
    simp only [Section.filled, Section.readyOk, List.length_take, decide_eq_decide]
    omega
  have hset : P (s.setPar fun q =>
      { q with sect := q.sect.set i (x.filled ((s.par.stage.bytesFrom at_).take (x.total - x.ready))) }) :=
    hP.par s _ hs (fun h => h) fun h => readyOk_set h (hfit.trans (List.all_eq_true.1 h x hx))
  exact Ends.bind (hP.decoding.bits.setBitpos _) (fun _ => .pure _) _ hset

theorem buffer : Ends P N buffer := by
  intro s hs
  refine .bind (Ends.getSect s hs) fun l t hl _ => ?_
  obtain ⟨rfl, rfl⟩ := getSect_eq_ok hl
  cases hf : fillingSection t.par.sect with
  | none => exact hs
  | some e =>
    have hx : e.2 ∈ t.par.sect := mem_of_findSection hf
    have hB := hP.decoding.bits.and (keptByDecoding_headerAndSect fun _ l => e.2 ∈ l).bits
    refine .getState ?_
    dsimp only
    split
    · exact .bind_of (hB.fill hP.waits 1 t ⟨hs, hx⟩) (fun _ h => h.1) fun _ u hu => hP.moveBytes hu.1 hu.2
    · exact hP.moveBytes hs hx

theorem renderAndEnd (hS : KeptBySaving P) (k : SecKind) :
    Ends P N (renderAndEnd k) := by
  have last : Ends P N (do
      let s ← Machine.getState
      if allDone s.par.sect then Machine.setPhase .frameDone
      pure OpValue.none) :=
    .bind .getState fun _ => .ite (.bind (hP.setPhase _) fun _ => .pure _) (.pure _)
  unfold Machine.renderAndEnd
  cases sectionGroup k with
  | none => exact last
  | some g => exact .bind (hS.renderGroup g) fun _ => last

/-- A section of the table is decoded, marked, and its group rendered. -/
theorem decodeSection (hS : KeptBySaving P) {fh : FrameHeader} {i : Nat} {x : Section} {s : State} (hs : P s)
    (hx : x ∈ s.par.sect) : EndsAt P N (Machine.withSection i (sectionBody fh x.kind) >>= fun _ =>
      upd (fun s => (s.setRet .none).setPar fun q =>
        { q with sect := q.sect.set i { x with state := .decoded, bytes := [] } }) >>= fun _ => Machine.renderAndEnd x.kind) s := by
  have hD := hP.decoding.and (keptByDecoding_headerAndSect fun _ l => x ∈ l)
  have hbody := Ends.withSection (fun s r hs => ⟨hP.reader s r hs.1, hs.2⟩) i (hD.sectionBody fh x.kind) s ⟨hs, hx⟩
  refine .bind_of hbody (fun _ h => h.1) fun _ t ht => ?_
  obtain ⟨ht, hx⟩ := ht
  exact hP.renderAndEnd hS x.kind _ (hP.par _ _ (hP.ret t _ ht) (fun h => h) fun h =>
    readyOk_set h (show x.readyOk = true from List.all_eq_true.1 h x hx))

theorem dispatch (hS : KeptBySaving P) : Ends P N dispatch := by
  intro s hs
  refine .bind (Ends.getSect s hs) fun l t hl _ => ?_
  obtain ⟨rfl, rfl⟩ := getSect_eq_ok hl
  cases hf : nextPending 0 t.par.sect with
  | none => exact hs
  | some e =>
    dsimp only
    split
    · refine .bind (Ends.getFrame t hs) fun fh u hu _ => ?_
      obtain ⟨-, rfl⟩ := present_eq_ok.1 ((Op.bind_ok (getState_apply t) _).symm.trans hu)
      exact hP.decodeSection hS hs (mem_of_nextPending hf)
    · exact hs

theorem skipBitpos : Ends P N skipBitpos :=
  .bind .getState fun _ => .bind (.present _ _) fun _ => hP.decoding.bits.setBitpos _

theorem skipSource : Ends P N skipSource :=
  .bind .getState fun _ => .ite (.pure ()) (.ite (.bind hP.skipBitpos fun _ => hP.decoding.bits.incomplete hP.waits)
    (.bind (hP.decoding.bits.sourceSkip _) fun _ => .ite
      (.bind hP.skipBitpos fun _ => hP.decoding.bits.incomplete hP.waits)
      (hP.updPar (fun _ => rfl) fun _ => rfl)))

theorem skip : Ends P N skip :=
  .bind .getState fun _ => .bind (.present _ _) fun _ => .bind (hP.updPar (fun _ => rfl) fun _ => rfl) fun _ =>
    .bind hP.skipSource fun _ => .bind hP.skipBitpos fun _ => .bind .getState fun _ => .ite
      (.bind (.upd fun s hs => hP.par s _ hs (fun h => h) fun h => by
        rw [List.all_map]
        exact h) fun _ => .bind (hP.setPhase _) fun _ => .pure _)
      (.pure _)

/-! ### The end of a frame -/

omit hP in
theorem keepFrame (hS : KeptBySaving P) (hR : ∀ s l, P s → P (s.setImg fun i => { i with refs := l })) :
    Ends P N keepFrame :=
  .bind hS.finishRender fun _ => .bind .getState fun _ => .bind .getFrame fun _ => .ite
    (.upd fun s hs => hR s _ hs) (.each hS.images.release)

theorem frameDone (hS : KeptBySaving P) (hR : ∀ s l, P s → P (s.setImg fun i => { i with refs := l })) :
    Ends P N frameDone := by
  refine .bind .getState fun s => ?_
  have last : Ends P N (if s.ctl.surfaced then Machine.yieldEvent .frameReady else pure .none) :=
    .ite (hP.yieldEvent _) (.pure _)
  have rest : Ends P N (do
      upd fun t => t.destroyFrame.setCtl fun c => { c with frameCount := c.frameCount + 1 }
      if s.ctl.fLast then finishStream else Machine.setPhase .needFrameHeaderToc
      if s.ctl.surfaced then Machine.yieldEvent .frameReady else pure .none) :=
    .bind (.upd fun s hs => hP.ctl _ _ (hP.destroyed s hs) rfl) fun _ =>
      .ite (.bind (hP.setPhase _) fun _ => last) (.bind (hP.setPhase _) fun _ => last)
  cases s.ctl.mode with
  | decode => exact .bind (keepFrame hS hR) fun _ => rest
  | skip => exact rest

/-! ### Views and HOST's commands -/

theorem view (h x0 y0 w ht : Nat) (mode : Access) : Ends P N (view h x0 y0 w ht mode) := by
  intro s hs
  refine .bind (Ends.getBuf h s hs) fun b t hb _ => ?_
  obtain ⟨rfl, hb⟩ := getBuf_eq_ok.1 hb
  split
  · refine .getState ?_
    split
    · exact hs
    · exact hP.viewed t h b x0 y0 w ht mode hs hb
  · exact hs

theorem freeBuffer (b : Nat) : Ends P N (freeBuffer b) := by
  refine .bind (.getBuf b) fun x => ?_
  cases x.ownership with
  | owned => exact .bind .getState fun _ => .ite (.fault _) (hP.decoding.images.release b)
  | borrowed => exact .pure ()

theorem processOp (src : Nat) (opts : Options) (out : Option (List Plane)) : Ends P N (processOp src opts out) := by
  refine .bind .getState fun s => ?_
  cases processRefusal src opts out s with
  | some r => exact .refuse r
  | none => exact .ite (.pure _) (.bind (.upd fun s hs => hP.ctl s _ hs rfl) fun _ => .pure _)

omit hP in
theorem outQueryOp : Ends P N outQueryOp :=
  .bind .getState fun _ => .ite (.refuse _)
    (.ite (.bind .getImageHeader fun _ => .bind .getParams fun _ => .pure _) (.refuse _))

omit hP in
theorem resetOp (hT : ∀ s, P s → P { State.reset with host := s.host, inp := s.counted.inp }) :
    Ends P N resetOp :=
  .bind .getState fun _ => .ite (.refuse _) (.bind (.upd hT) fun _ => .pure _)

end

end KeptByCore

end Sys2Proof.Machine

/-! What every instruction keeps. -/

namespace Sys2Proof.Machine

variable {α β : Type} {P Q : State → Prop} {N : Nat → Prop}

/-- The instructions in which a Save can run (46_render_pipeline.md R365). -/
def savesOut : Instr → Bool
  | .rSave _ _ _ _ _ | .rOutside _ _ _ | .rGroup _ | .pDispatch | .pFrameDone => true
  | _ => false

/-- What the instruction `i` needs of a property beside `KeptByCore`: that a Save keeps it, or new reference slots, or
RESET, each only where `i` can do this. -/
structure KeptBySpecials (P : State → Prop) (i : Instr) : Prop where
  out : savesOut i = true → ∀ s a bs, P s → P (s.setHost fun h => { h with outMem := h.outMem.writeList a bs })
  refs : i = .pFrameDone → ∀ s l, P s → P (s.setImg fun i => { i with refs := l })
  reset : i = .reset → ∀ s, P s → P { State.reset with host := s.host, inp := s.counted.inp }

theorem Ends.commitOrAbandon (ha : ∀ s t, P s → P t → P (s.abandonedIn t)) {op : Op α} (hop : Ends P N op) :
    Ends P N (commitOrAbandon op) := by
  intro s hs
  have h := hop s hs
  unfold EndsAt Machine.commitOrAbandon at *
  cases hr : op s with
  | ok a t =>
    rw [hr] at h
    exact h
  | error e t =>
    rw [hr] at h
    cases e with
    | incomplete n => exact ⟨ha s t hs h.1, h.2⟩
    | fatal k => exact h
    | fault f => exact h
    | refuse r => exact h

namespace KeptByCore

section

variable (hP : KeptByCore P N)
include hP

theorem bodyOf {i : Instr} (hi : KeptBySpecials P i) : Ends P N (bodyOf i) := by
  have hD := hP.decoding
  have hB := hD.bits
  have hI := hD.images
  cases i with
  | process src opts out => exact hP.processOp _ _ _
  | reset => exact resetOp (hi.reset rfl)
  | outQuery => exact outQueryOp
  | srcAvail => exact .bind .getState fun _ => .pure _
  | srcRead caps => exact .bind (hB.sourceRead _) fun _ => .pure _
  | srcSkip n => exact .bind (hB.sourceSkip _) fun _ => .pure _
  | cmsXform input output => exact .bind (hI.cmsBuffers _ _) fun _ => .pure _
  | cmsXformInplace b => exact .bind (hI.cmsBuffers _ _) fun _ => .pure _
  | pFileHeader => exact hP.fileHeader
  | pColorProfile => exact hP.colorProfile
  | pFrameHeader => exact hP.frameHeader
  | pToc => exact hP.toc
  | pBuffer => exact hP.buffer
  | pDispatch => exact hP.dispatch ⟨hI, hi.out rfl⟩
  | pSkip => exact hP.skip
  | pFrameDone => exact hP.frameDone ⟨hI, hi.out rfl⟩ (hi.refs rfl)
  | pFinish => exact .bind (hP.setPhase _) fun _ => .pure _
  | pFill want => exact .bind (hB.fill hP.waits _) fun _ => .pure _
  | sLfGlobal sec => exact .bind (hP.withSection _ hD.lfGlobalBody) fun _ => .pure _
  | sLfGroup sec g => exact .bind (hP.withSection _ (hD.lfGroupBody _)) fun _ => .pure _
  | sHfGlobal sec => exact .bind (hP.withSection _ hD.hfGlobalBody) fun _ => .pure _
  | sHfGroup sec g p => exact .bind (hP.withSection _ (hD.hfGroupBody _ _)) fun _ => .pure _
  | ansHist sc las => exact .bind (hD.ansHist _ _) fun _ => .pure _
  | ansHistSingle sc las => exact hD.histThen fun _ _ => .pure _
  | ansHistTwo sc las => exact hD.histThen fun _ _ => .pure _
  | ansHistFlat sc las => exact hD.histThen fun _ _ => .pure _
  | ansHistComplex sc las => exact hD.histThen fun _ _ => .pure _
  | ansAlias sc hist las => exact .bind (hD.compileAlias _ _ _) fun _ => .pure _
  | ansInit sc => exact .bind (.bind (hD.ansInit _) fun _ => .pure _) fun _ => .pure _
  | ansRead sc ctx => exact .bind (hD.ansRead _ _) fun _ => .pure _
  | ansFinal sc => exact .bind (KeptByDecoding.ansFinal _) fun _ => .pure _
  | huffSimple sc a => exact .bind (hD.huffSimple _ _) fun _ => .pure _
  | huffLengths sc a skip => exact .bind (hB.huffLengths _ _) fun _ => .pure _
  | huffBuild sc lens => exact .bind (hD.huffBuild _ _) fun _ => .pure _
  | huffRead sc ctx => exact .bind (hB.huffRead _ _) fun _ => .pure _
  | bPredNz c bx byy => exact .bind (hD.predNz _ _ _) fun _ => .pure _
  | bNz c pred t => exact .bind (hD.decodeNz _ _ _) fun _ => .pure _
  | bCoeffs c t nz p => exact .bind (hD.decodeCoeffs _ _ _ _) fun _ => .pure _
  | bDequant bx byy t => exact .bind (hI.dequantBlock _ _ _) fun _ => .pure _
  | bXform bx byy t => exact .bind (hI.xformBlock _ _ _) fun _ => .pure _
  | mTree => exact .bind (.bind hD.decodeTree fun _ => hD.setMod _) fun _ => .pure _
  | mProps ch x y => exact .bind (hD.pixelProps _ _ _) fun _ => .pure _
  | mWalk props => exact .bind (.walkTree _) fun _ => .pure _
  | mPredict leaf props => exact .bind (hD.predictPixel _) fun _ => .pure _
  | mWp x y =>
    exact .bind .getState fun _ => .bind .getWp fun _ => .bind (.getChannel _) fun _ => .bind (hD.wpAt _ _ _ _) fun _ =>
      .bind .getWp fun _ => .pure _
  | mWpUpdate x y value => exact .bind (.bind .getWp fun _ => hD.updateWp _ _) fun _ => .pure _
  | mPalette index pal nc nd pr bd => exact .bind (hD.undoPalette _ _ _ _ _ _) fun _ => .pure _
  | mHsqueeze avg res w => exact .bind (hD.undoHsqueeze _ _ _) fun _ => .pure _
  | mVsqueeze avg res h => exact .bind (hD.undoVsqueeze _ _ _) fun _ => .pure _
  | xIdct h w coeff out => exact .bind (.bind (.check _ _) fun _ => hI.transformViews _ _ _) fun _ => .pure _
  | xAfv k coeff out => exact .bind (hI.transformViews _ _ _) fun _ => .pure _
  | xIdentity coeff out => exact .bind (hI.transformViews _ _ _) fun _ => .pure _
  | xDct2x2 coeff out => exact .bind (hI.transformViews _ _ _) fun _ => .pure _
  | xDct4x4 coeff out => exact .bind (hI.transformViews _ _ _) fun _ => .pure _
  | xDct8x4 coeff out => exact .bind (hI.transformViews _ _ _) fun _ => .pure _
  | xDct4x8 coeff out => exact .bind (hI.transformViews _ _ _) fun _ => .pure _
  | rInplace f y x0 x1 => exact .bind (hI.inplaceRow _ _ _ _ _) fun _ => .pure _
  | rInout f bx byy sx sy up part => exact .bind (hI.inoutRow _ _ _ _ _ _ _ _ _ _) fun _ => .pure _
  | rSave channel plane y x0 x1 => exact .bind (KeptBySaving.saveRow ⟨hI, hi.out rfl⟩ _ _ _ _ _) fun _ => .pure _
  | rExtend rect cw ch y => exact .bind (hI.extendRow _ _ _ _ _) fun _ => .pure _
  | rGroup g => exact .bind (KeptBySaving.renderGroup ⟨hI, hi.out rfl⟩ _) fun _ => .pure _
  | rOutside cw ch rect => exact .bind (KeptBySaving.outside ⟨hI, hi.out rfl⟩ _ _ _ _) fun _ => .pure _
  | iAlloc w h ty => exact .bind (hI.alloc _ _ _) fun _ => .pure _
  | iRow b y mode => exact .bind (.getBuf _) fun _ => .bind (hP.view _ _ _ _ _ _) fun _ => .pure _
  | iRows b rows mode =>
    exact .bind (.getBuf _) fun _ => .ite (.ite (.fault _) (.bind (.collect fun _ => hP.view _ _ _ _ _ _) fun _ => .pure _))
      (.fault _)
  | iRect b x0 y0 w h mode => exact .bind (hP.view _ _ _ _ _ _) fun _ => .pure _
  | iFree b => exact .bind (hP.freeBuffer _) fun _ => .pure _

theorem opOf {i : Instr} (hi : KeptBySpecials P i) : Ends P N (opOf i) := by
  unfold Machine.opOf
  split
  · exact (hP.bodyOf hi).commitOrAbandon hP.abandoned
  · exact hP.bodyOf hi

theorem takeIncomplete {s : State} (n : Nat) (hs : P s) : P (takeIncomplete n s) := hP.ret _ _ (hP.ctl s
  (fun c => { c with err := .incompleteInput, need := n, result := some (.err .incompleteInput n), busy := false }) hs rfl)

theorem trapEntry {s : State} (k : Kind) (hs : P s) : P (trapEntry k s) := hP.ret _ _ (hP.pooled _ [] (hP.ctl _
  (fun c => { c with err := k.toErr, need := 0, result := some (.err k.toErr 0), phase := .faulted, busy := false })
  (hP.destroyed s hs) rfl))

/-- The property holds where an instruction leaves a next state. -/
theorem exec {i : Instr} {s t : State} (hi : KeptBySpecials P i) (hs : P s) (h : exec i s = .next t) : P t := by
  rw [exec_eq_run] at h
  have hends := hP.opOf hi s hs
  unfold run finish at h
  cases hop : Machine.opOf i s with
  | ok v u =>
    rw [hop] at h
    cases h
    exact hP.ret u v (hends.post hop)
  | error e u =>
    rw [hop] at h
    have hu := hends.post_error hop
    cases e with
    | incomplete n => cases h; exact hP.takeIncomplete n hu
    | fatal k => cases h; exact hP.trapEntry k hu
    | fault f => cases h
    | refuse r => cases h

end

end KeptByCore

end Sys2Proof.Machine

/-! Who can write HOST memory and the reference slots (46_render_pipeline.md R378, 20_memory.md R79). -/

namespace Sys2Proof.Machine

/-- What only a few instructions can write, if any: HOST's memory, the reference slots, HOST's script and issue port have a
property, and so have the configuration and the fetch port. -/
def Untouched (A : Memory → List (Nat × List Nat) → List HostAct → List Byte → Prop) (B : Params → List Byte → Prop)
    (s : State) : Prop :=
  A s.host.outMem s.img.refs s.host.script s.host.issue ∧ B s.inp.params s.inp.fetch

variable {A : Memory → List (Nat × List Nat) → List HostAct → List Byte → Prop} {B : Params → List Byte → Prop}

theorem keptByCore_untouched : KeptByCore (Untouched A B) fun _ => True where
  decoding :=
    { bits := ⟨fun _ _ h => h, fun _ _ h => h, fun _ _ _ h _ => h, fun _ _ h _ => h, fun _ h => h, fun _ _ _ _ _ => trivial⟩
      images := ⟨fun _ _ _ _ h => h, fun _ _ _ _ h _ => h, fun _ _ h => h, fun _ h => h, fun _ _ h => h⟩
      tables := fun _ _ _ h _ => h
      dropped := fun _ _ h => h
      modular := fun _ _ h => h
      groups := fun _ _ h => h }
  waits _ _ := trivial
  ctl _ _ h _ := h
  info _ h _ := h
  par _ _ h _ _ := h
  ret _ _ h := h
  viewed _ _ _ _ _ _ _ _ h _ := h
  destroyed _ h := h
  pooled _ _ h := h
  abandoned _ _ hs ht := ⟨hs.1, ht.2⟩

/-- Where no Save can run, HOST's memory stays. -/
theorem outMem_of_exec {i : Instr} {s t : State} (hi : savesOut i = false) (h : exec i s = .next t) :
    t.host.outMem = s.host.outMem :=
  (keptByCore_untouched (A := fun m _ _ _ => m = s.host.outMem) (B := fun _ _ => True)).exec
    ⟨fun hi' => absurd (hi.symm.trans hi') Bool.false_ne_true, fun _ _ _ h => h, fun _ _ h => h⟩ ⟨rfl, trivial⟩ h |>.1

/-- Only the end of a frame and RESET write the reference slots. -/
theorem refs_of_exec {i : Instr} {s t : State} (hf : i ≠ .pFrameDone) (hr : i ≠ .reset) (h : exec i s = .next t) :
    t.img.refs = s.img.refs :=
  (keptByCore_untouched (A := fun _ r _ _ => r = s.img.refs) (B := fun _ _ => True)).exec
    ⟨fun _ _ _ _ h => h, fun hi => absurd hi hf, fun hi => absurd hi hr⟩ ⟨rfl, trivial⟩ h |>.1

theorem inputs_of_exec {i : Instr} {s t : State} (h : exec i s = .next t) :
    t.inp.params = s.inp.params ∧ t.inp.fetch = s.inp.fetch ∧ t.host.script = s.host.script ∧ t.host.issue = s.host.issue := by
  obtain ⟨⟨hscript, hissue⟩, hparams, hfetch⟩ := (keptByCore_untouched
    (A := fun _ _ a w => a = s.host.script ∧ w = s.host.issue) (B := fun p f => p = s.inp.params ∧ f = s.inp.fetch)).exec
    ⟨fun _ _ _ _ h => h, fun _ _ _ h => h, fun _ _ h => h⟩ ⟨⟨rfl, rfl⟩, rfl, rfl⟩ h
  exact ⟨hparams, hfetch, hscript, hissue⟩

/-- Settles O60: HOST's memory, the slots and the inputs are each a property that the updates of all other operations keep. -/
theorem outAndReferencesChangeOnlyByNamedOperations : Obligations.OutAndReferencesChangeOnlyByNamedOperations := by
  intro i s t h
  refine ⟨fun hne => ?_, fun hne => ?_, inputs_of_exec h⟩
  · have hi : savesOut i = true := by
      by_contra hi
      exact hne (outMem_of_exec (by simpa using hi) h)
    cases i with
    | rSave channel plane y x0 x1 => exact .inl ⟨_, _, _, _, _, rfl⟩
    | rOutside cw ch rect => exact .inr (.inl ⟨_, _, _, rfl⟩)
    | rGroup g => exact .inr (.inr (.inl ⟨_, rfl⟩))
    | pDispatch => exact .inr (.inr (.inr (.inl rfl)))
    | pFrameDone => exact .inr (.inr (.inr (.inr rfl)))
    | _ => cases hi
  · by_contra hi
    rw [not_or] at hi
    exact hne (refs_of_exec hi.1 hi.2 h)

end Sys2Proof.Machine

/-! The invariant of the machine, and that every step keeps it (10_state.md R28, R31, R37, 20_memory.md R76). -/

namespace Sys2Proof.Machine

/-! ### Handles -/

/-- A handle and its buffer's root have been given out. -/
def Buffers.knows (b : Buffers) (e : Nat × Buffer) : Prop := e.1 < b.next ∧ (rootOf e.1 e.2).1 < b.next

theorem handlesOk_iff {b : Buffers} : b.handlesOk = true ↔ ∀ e ∈ b.bufs, b.knows e := by
  simp [Buffers.handlesOk, Buffers.knows, List.all_eq_true]

theorem handlesOk_filter {b : Buffers} {f : Nat × Buffer → Bool} {pool : List Buffer} (h : b.handlesOk = true) :
    ({ b with bufs := b.bufs.filter f, pool := pool } : Buffers).handlesOk = true :=
  handlesOk_iff.2 fun e he => handlesOk_iff.1 h e (List.mem_filter.1 he).1

theorem handlesOk_assocSet {b : Buffers} {h next : Nat} {x : Buffer} {pool : List Buffer} (hb : b.handlesOk = true)
    (hnext : b.next ≤ next) (hh : h < next) (hx : (rootOf h x).1 < next) :
    ({ b with bufs := assocSet b.bufs h x, next := next, pool := pool } : Buffers).handlesOk = true := by
  refine handlesOk_iff.2 fun e he => ?_
  rcases mem_assocSet he with rfl | he
  · exact ⟨hh, hx⟩
  · obtain ⟨h1, h2⟩ := handlesOk_iff.1 hb e he
    exact ⟨Nat.lt_of_lt_of_le h1 hnext, Nat.lt_of_lt_of_le h2 hnext⟩

theorem knows_of_assocGet {b : Buffers} {h : Nat} {x : Buffer} (hb : b.handlesOk = true) (hx : assocGet b.bufs h = some x) :
    b.knows (h, x) := handlesOk_iff.1 hb _ (mem_of_assocGet hx)

/-! ### Sources -/

theorem source_ok {s : State} (h : s.host.sources.all Source.ok = true) : s.source.ok = true := by
  unfold State.source
  cases hx : s.host.sources[s.ctl.src]? with
  | none => rfl
  | some x => exact List.all_eq_true.1 h x (List.mem_of_getElem? hx)

theorem all_set {f : α → Bool} {l : List α} {i : Nat} {a : α} (hl : l.all f = true) (ha : f a = true) :
    (l.set i a).all f = true := by
  rw [List.all_eq_true] at *
  intro y hy
  rcases List.mem_or_eq_of_mem_set hy with hy | rfl
  · exact hl y hy
  · exact ha

theorem sources_moved {s : State} {k : Nat} (h : s.host.sources.all Source.ok = true) (hk : k ≤ s.available) :
    (s.sourceMoved k).host.sources.all Source.ok = true := by
  refine all_set h ?_
  have hs := source_ok h
  simp only [Source.ok, Bool.and_eq_true, decide_eq_true_eq, State.available] at hs hk ⊢
  omega

/-! ### Tables -/

theorem hists_assocSet {l : List (ScopeId × ScopeTables)} {sc : ScopeId} {e : ScopeTables}
    (hl : (l.all fun e => e.2.histsOk) = true) (he : e.histsOk = true) :
    ((assocSet l sc e).all fun e => e.2.histsOk) = true := by
  rw [List.all_eq_true] at *
  intro x hx
  rcases mem_assocSet hx with rfl | hx
  · exact he
  · exact hl x hx

theorem scope_histsOk {s : State} (h : (s.ent.all fun e => e.2.histsOk) = true) (sc : ScopeId) :
    (s.scope sc).histsOk = true := by
  unfold State.scope
  cases hx : assocGet s.ent sc with
  | none => rfl
  | some e => exact List.all_eq_true.1 h _ (mem_of_assocGet hx)

/-! ### The invariant -/

/-- An update that leaves the six parts of the invariant as they are. -/
theorem Inv.congr {s t : State} (h : Inv s) (hmem : t.host.outMem = s.host.outMem)
    (hsources : t.host.sources = s.host.sources) (hsect : t.par.sect = s.par.sect) (hent : t.ent = s.ent)
    (hinfo : t.ctl.infoValid = s.ctl.infoValid) (hheader : t.par.imageHeader = s.par.imageHeader)
    (himg : t.img.handlesOk = s.img.handlesOk) : Inv t :=
  ⟨hmem ▸ h.mem, hsources ▸ h.sources, hsect ▸ h.sect, hent ▸ h.hists, hinfo ▸ hheader ▸ h.info, himg ▸ h.handles⟩

/-- An update of the buffers. -/
theorem Inv.setImg {s : State} {f : Buffers → Buffers} (h : Inv s) (hf : (f s.img).handlesOk = true) : Inv (s.setImg f) :=
  ⟨h.mem, h.sources, h.sect, h.hists, h.info, hf⟩

/-- An update of HOST's side. -/
theorem Inv.setHost {s : State} {f : HostSide → HostSide} (h : Inv s) (hm : (f s.host).outMem.wf = true)
    (hs : (f s.host).sources.all Source.ok = true) : Inv (s.setHost f) :=
  ⟨hm, hs, h.sect, h.hists, h.info, h.handles⟩

theorem Inv.setEnt {s : State} {f : List (ScopeId × ScopeTables) → List (ScopeId × ScopeTables)} (h : Inv s)
    (hf : ((f s.ent).all fun e => e.2.histsOk) = true) : Inv (s.setEnt f) :=
  ⟨h.mem, h.sources, h.sect, hf, h.info, h.handles⟩

theorem inv_keptByBits : KeptByBits Inv fun _ => True where
  bitpos _ _ h := h.congr rfl rfl rfl rfl rfl rfl rfl
  stage _ _ h := h.congr rfl rfl rfl rfl rfl rfl rfl
  advanced _ _ _ h _ := h.congr rfl rfl rfl rfl rfl rfl rfl
  source _ _ h hk := ⟨h.mem, sources_moved h.sources hk, h.sect, h.hists, h.info, h.handles⟩
  drawn _ h := h.congr rfl rfl rfl rfl rfl rfl rfl
  waits _ _ _ _ _ := trivial

theorem inv_keptByImages : KeptByImages Inv where
  allocated _ _ _ _ h :=
    h.setImg (handlesOk_assocSet h.handles (Nat.le_succ _) (Nat.lt_succ_self _) (Nat.lt_succ_self _))
  samples _ _ _ _ h hb := h.setImg (handlesOk_assocSet h.handles (Nat.le_refl _) (knows_of_assocGet h.handles hb).1
    (knows_of_assocGet h.handles hb).2)
  released _ _ h := ⟨h.mem, h.sources, h.sect, h.hists, h.info, handlesOk_filter h.handles⟩
  counted _ h := h.congr rfl rfl rfl rfl rfl rfl rfl
  render _ _ h := h.congr rfl rfl rfl rfl rfl rfl rfl

theorem inv_keptByDecoding : KeptByDecoding Inv fun _ => True where
  bits := inv_keptByBits
  images := inv_keptByImages
  tables _ sc _ h he := h.setEnt (hists_assocSet h.hists (he (scope_histsOk h.hists sc)))
  dropped _ _ h := h.setEnt (List.all_eq_true.2 fun x hx => List.all_eq_true.1 h.hists x (List.mem_filter.1 hx).1)
  modular _ _ h := h.congr rfl rfl rfl rfl rfl rfl rfl
  groups _ _ h := h.congr rfl rfl rfl rfl rfl rfl rfl

theorem inv_keptByCore : KeptByCore Inv fun _ => True where
  decoding := inv_keptByDecoding
  waits _ _ := trivial
  ctl _ _ h hf := h.congr rfl rfl rfl rfl hf rfl rfl
  info _ h hh := ⟨h.mem, h.sources, h.sect, h.hists, fun _ => hh, h.handles⟩
  par _ _ h hh hs := ⟨h.mem, h.sources, hs h.sect, h.hists, fun hi => hh (h.info hi), h.handles⟩
  ret _ _ h := h.congr rfl rfl rfl rfl rfl rfl rfl
  viewed _ _ _ _ _ _ _ _ h hb := h.setImg (handlesOk_assocSet h.handles (Nat.le_succ _) (Nat.lt_succ_self _)
    (Nat.lt_succ_of_lt (knows_of_assocGet h.handles hb).2))
  destroyed _ h := ⟨h.mem, h.sources, rfl, rfl, h.info, handlesOk_filter h.handles⟩
  pooled _ _ h := h.setImg h.handles
  abandoned _ _ hs ht := ⟨hs.mem, ht.sources, hs.sect, hs.hists, hs.info, hs.handles⟩

theorem inv_reset : Inv State.reset := ⟨rfl, rfl, rfl, rfl, fun h => absurd h Bool.false_ne_true, rfl⟩

theorem inv_keptBySpecials (i : Instr) : KeptBySpecials Inv i where
  out _ _ _ bs h := h.setHost (Memory.wf_writeList bs _ _ h.mem) h.sources
  refs _ _ _ h := h.setImg h.handles
  reset _ _ h := ⟨h.mem, h.sources, rfl, rfl, inv_reset.info, rfl⟩

/-! ### Steps -/

/-- An instruction run as a step keeps the invariant; the views that end with it are buffers less. -/
theorem inv_runInstr {i : Instr} {s t : State} (hs : Inv s) (h : runInstr i s = .next t) : Inv t := by
  unfold runInstr afterOp at h
  cases he : exec i s with
  | next u =>
    rw [he] at h
    have hu := inv_keptByCore.exec (inv_keptBySpecials i) hs he
    cases h
    split
    · exact hu
    · exact hu.setImg (handlesOk_filter hu.handles)
  | fault f => rw [he] at h; cases h
  | refused e => rw [he] at h; cases h

theorem sources_fed {h : HostSide} (hs : h.sources.all Source.ok = true) (src n : Nat) (rest : List HostAct) :
    ({ h with script := rest }.act (.feed src n)).sources.all Source.ok = true := by
  simp only [HostSide.act]
  cases hx : h.sources[src]? with
  | none => exact hs
  | some x =>
    have hok : x.ok = true := List.all_eq_true.1 hs x (List.mem_of_getElem? hx)
    refine all_set hs ?_
    simp only [Source.ok, Bool.and_eq_true, decide_eq_true_eq] at hok ⊢
    omega

/-- HOST feeds sources within their bytes, hands over sources not yet read, and writes its memory in order. -/
theorem inv_hostStep {s : State} (hs : Inv s) : Inv (hostStep s) := by
  unfold hostStep
  cases s.host.script with
  | nil => exact hs
  | cons a rest =>
    cases a with
    | feed src n =>
      refine hs.setHost ?_ (sources_fed hs.sources src n rest)
      simp only [HostSide.act]
      cases s.host.sources[src]? <;> exact hs.mem
    | supply bytes => exact hs.setHost hs.mem (by simp [HostSide.act, hs.sources, Source.ok])
    | write addr b => exact hs.setHost (Memory.wf_write _ _ _ hs.mem) hs.sources
    | issue words => exact hs.setHost hs.mem hs.sources

/-- Settles O5, by what each kind of update keeps. -/
theorem stepKeepsInvariant : Obligations.StepKeepsInvariant := by
  intro s t hs h
  unfold step at h
  split_ifs at h
  · unfold fetchStep at h
    cases hd : decode s.inp.fetch with
    | error e => rw [hd] at h; cases h
    | ok i =>
      rw [hd] at h
      have hf : Inv (s.setInp fun x => { x with fetch := [] }) := hs.congr rfl rfl rfl rfl rfl rfl rfl
      exact inv_runInstr hf h
  · unfold issueStep at h
    cases hd : decode s.host.issue with
    | error e => rw [hd] at h; cases h
    | ok i =>
      rw [hd] at h
      simp only at h
      split_ifs at h
      exact inv_runInstr (hs.setHost hs.mem hs.sources) h
  · unfold processStep at h
    cases hsel : select s with
    | none => rw [hsel] at h; cases h; exact hs
    | some i => rw [hsel] at h; exact inv_runInstr hs h
  · cases h
    exact inv_hostStep hs

/-- Settles O4: at reset there are no sources read, sections, tables or buffers. -/
theorem invariantAtReset : Obligations.InvariantAtReset := inv_reset

end Sys2Proof.Machine

/-! How commands end in an error: a fatal error taken (60_exceptions.md R420), a step abandoned (40_parser.md R141), and
what never waits (40_parser.md R164). -/

namespace Sys2Proof.Machine

variable {α : Type}

theorem toErr_injective {k j : Kind} (h : k.toErr = j.toErr) : k = j := by cases k <;> cases j <;> cases h <;> rfl

theorem toErr_ne_incompleteInput (k : Kind) : k.toErr ≠ .incompleteInput := by cases k <;> simp [Kind.toErr]

theorem opOf_noError {i : Instr} (hi : ∀ src opts out, i ≠ .process src opts out) : Yields OpValue.noError (opOf i) := by
  unfold opOf
  split
  · exact (bodyOf_noError hi).commitOrAbandon
  · exact bodyOf_noError hi

/-- Where an instruction other than PROCESS leaves an error as its value, it has taken this error. -/
theorem error_taken {i : Instr} (hi : ∀ src opts out, i ≠ .process src opts out) {s t : State} {e : ErrKind} {n : Nat}
    (h : exec i s = .next t) (hret : t.ret = .result (.err e n)) :
    (∃ u, opOf i s = .error (.incomplete n) u ∧ e = .incompleteInput ∧ t = takeIncomplete n u) ∨
      (∃ k u, opOf i s = .error (.fatal k) u ∧ e = k.toErr ∧ n = 0 ∧ t = trapEntry k u) := by
  rw [exec_eq_run] at h
  unfold run finish at h
  cases hop : opOf i s with
  | ok v u =>
    rw [hop] at h
    cases h
    exact absurd hret (opOf_noError hi _ _ _ hop e n)
  | error x u =>
    rw [hop] at h
    cases x with
    | incomplete m =>
      cases h
      cases hret
      exact .inl ⟨u, rfl, rfl, rfl⟩
    | fatal k =>
      cases h
      cases hret
      exact .inr ⟨k, u, rfl, rfl, rfl, rfl⟩
    | fault f => cases h
    | refuse r => cases h

/-- The operation of an instruction changes neither the configuration nor HOST's script, however it ends. -/
theorem opOf_inputs {i : Instr} {s u : State} {e : Stop} (h : opOf i s = .error e u) :
    u.host.script = s.host.script ∧ u.inp.params = s.inp.params :=
  ((keptByCore_untouched (A := fun _ _ a _ => a = s.host.script) (B := fun p _ => p = s.inp.params)).opOf
    ⟨fun _ _ _ _ h => h, fun _ _ _ h => h, fun _ _ h => h⟩ s ⟨rfl, rfl⟩).post_error h

theorem parseFileHeader_malformed {p : Params} {bits : Bits} {k : Kind}
    (h : firstAnswer (Cfg.parseFileHeader p) bits = .malformed k) : k = .format := by
  obtain ⟨seen, hseen⟩ := firstAnswer_malformed h
  exact asFormat_malformed hseen

theorem fileHeader_malformed {s : State} {k : Kind} (h : firstAnswer (Cfg.parseFileHeader s.inp.params) s.bitsHere = .malformed k) :
    fileHeader s = .error (.fatal .format) s := by
  unfold fileHeader
  rw [Op.bind_ok (getParams_apply s)]
  exact Op.bind_error (parseFileHeader_malformed h ▸ ask_malformed h) _

/-- Settles O23: an error is taken in the state it was raised in. -/
theorem fatalErrorEntry : Obligations.FatalErrorEntry := by
  refine ⟨fun op s t k h => run_fatal h, ?_, ?_⟩
  · intro i s t k n hi h hret
    rcases error_taken hi h hret with ⟨u, -, he, -⟩ | ⟨j, u, hop, he, hn, ht⟩
    · exact absurd he (toErr_ne_incompleteInput k)
    · cases toErr_injective he
      exact ⟨hn, u, ht, opOf_inputs hop⟩
  · intro s k h
    exact run_fatal (commitOrAbandon_fatal (fileHeader_malformed h))

/-! ### Abandoned steps -/

theorem commitOrAbandon_eq_incomplete {op : Op α} {s t : State} {n : Nat}
    (h : commitOrAbandon op s = .error (.incomplete n) t) : ∃ u, op s = .error (.incomplete n) u ∧ t = s.abandonedIn u := by
  unfold commitOrAbandon at h
  cases hop : op s with
  | ok a u => rw [hop] at h; cases h
  | error e u =>
    rw [hop] at h
    cases e with
    | incomplete m => cases h; exact ⟨u, rfl, rfl⟩
    | fatal k => cases h
    | fault f => cases h
    | refuse r => cases h

/-- Every NEED that an instruction reports is at least 1. -/
theorem need_pos {i : Instr} {s u : State} {n : Nat} (h : opOf i s = .error (.incomplete n) u) : 1 ≤ n := by
  have hK : KeptByCore (fun _ => True) (1 ≤ ·) :=
    { decoding :=
        { bits := ⟨fun _ _ h => h, fun _ _ h => h, fun _ _ _ h _ => h, fun _ _ h _ => h, fun _ h => h, fun _ _ _ _ hn => hn⟩
          images := ⟨fun _ _ _ _ h => h, fun _ _ _ _ h _ => h, fun _ _ h => h, fun _ h => h, fun _ _ h => h⟩
          tables := fun _ _ _ h _ => h
          dropped := fun _ _ h => h
          modular := fun _ _ h => h
          groups := fun _ _ h => h }
      waits := fun _ hn => hn
      ctl := fun _ _ h _ => h
      info := fun _ h _ => h
      par := fun _ _ h _ _ => h
      ret := fun _ _ h => h
      viewed := fun _ _ _ _ _ _ _ _ h _ => h
      destroyed := fun _ h => h
      pooled := fun _ _ h => h
      abandoned := fun _ _ h _ => h }
  exact (hK.opOf ⟨fun _ _ _ _ h => h, fun _ _ _ h => h, fun _ _ h => h⟩ s trivial).need h

/-- Settles O24: an abandoned step puts back all but STAGE, the source and the draws. -/
theorem abandonedStepKeepsState : Obligations.AbandonedStepKeepsState := by
  intro i s t n hi h hret
  have hp : ∀ src opts out, i ≠ .process src opts out := fun src opts out h => by
    rw [h] at hi
    cases hi
  rcases error_taken hp h hret with ⟨u, hop, -, rfl⟩ | ⟨k, u, -, he, -, -⟩
  · refine ⟨fun _ => need_pos hop, ?_⟩
    unfold opOf at hop
    rw [if_pos hi] at hop
    obtain ⟨v, -, rfl⟩ := commitOrAbandon_eq_incomplete hop
    rfl
  · exact absurd he.symm (toErr_ne_incompleteInput k)

/-! ### Section decodes -/

/-- What decoding keeps inside a section, where no bytes are waited for. -/
theorem keptByDecoding_reader : KeptByDecoding (fun s => s.par.reader.isSome = true) fun _ => False where
  bits := ⟨fun _ _ h => h, fun _ _ h => h, fun _ _ _ _ _ => rfl, fun _ _ h _ => h, fun _ h => h,
    fun s _ h hr _ => by rw [hr] at h; cases h⟩
  images := ⟨fun _ _ _ _ h => h, fun _ _ _ _ h _ => h, fun _ _ h => h, fun _ h => h, fun _ _ h => h⟩
  tables _ _ _ h _ := h
  dropped _ _ h := h
  modular _ _ h := h
  groups _ _ h := h

/-- The decode of a section waits for nothing. -/
theorem withSection_neverWaits {body : Op α} (sec : Nat)
    (hb : Ends (fun s => s.par.reader.isSome = true) (fun _ => False) body) :
    Ends (fun _ => True) (fun _ => False) (withSection sec body) := by
  intro s _
  refine .getState (.bind (Ends.present _ _ s trivial) fun x t _ _ => .bind (.of_ok rfl trivial) fun _ u hu _ => ?_)
  cases hu
  exact .bind_of (hb _ rfl) (fun _ _ => trivial) fun _ _ _ => .of_ok rfl trivial

/-- A property of every state. -/
theorem keptBySaving_true : KeptBySaving fun _ => True :=
  ⟨⟨fun _ _ _ _ h => h, fun _ _ _ _ h _ => h, fun _ _ h => h, fun _ h => h, fun _ _ h => h⟩, fun _ _ _ h => h⟩

theorem renderAndEnd_neverWaits (k : SecKind) : Ends (fun _ => True) (fun _ => False) (renderAndEnd k) := by
  have last : Ends (fun _ => True) (fun _ => False) (do
      let s ← getState
      if allDone s.par.sect then setPhase .frameDone
      pure OpValue.none) :=
    .bind .getState fun _ => .ite (.bind (.upd fun _ h => h) fun _ => .pure _) (.pure _)
  unfold renderAndEnd
  cases sectionGroup k with
  | none => exact last
  | some g => exact .bind (keptBySaving_true.renderGroup g) fun _ => last

theorem dispatch_neverWaits : Ends (fun _ => True) (fun _ => False) dispatch := by
  refine .bind .getSect fun l => ?_
  cases nextPending 0 l with
  | none => exact .refuse _
  | some e =>
    exact .ite (.bind .getFrame fun fh => .bind (withSection_neverWaits _ (keptByDecoding_reader.sectionBody fh e.2.kind))
      fun _ => .bind (.upd fun _ h => h) fun _ => renderAndEnd_neverWaits e.2.kind) (.refuse _)

/-- An instruction whose operation waits for nothing does not return Incomplete. -/
theorem ret_ne_incomplete {i : Instr} (hi : ∀ src opts out, i ≠ .process src opts out)
    (hb : Ends (fun _ => True) (fun _ => False) (opOf i)) {s t : State} (h : exec i s = .next t) (n : Nat) :
    t.ret ≠ .result (.err .incompleteInput n) := by
  intro hret
  rcases error_taken hi h hret with ⟨u, hop, -, -⟩ | ⟨k, u, -, he, -, -⟩
  · exact (hb s trivial).need hop
  · exact toErr_ne_incompleteInput k he.symm

/-- Settles O29: inside a section bits that are lacking are an error, and the rest of the five operations reads none. -/
theorem sectionsNeverWait : Obligations.SectionsNeverWait := by
  intro i s t hi h n
  have hD := keptByDecoding_reader
  rcases hi with rfl | ⟨sec, rfl⟩ | ⟨sec, g, rfl⟩ | ⟨sec, rfl⟩ | ⟨sec, g, p, rfl⟩
  · exact ret_ne_incomplete (i := .pDispatch) (by simp) dispatch_neverWaits h n
  · exact ret_ne_incomplete (i := .sLfGlobal sec) (by simp)
      (.bind (withSection_neverWaits _ hD.lfGlobalBody) fun _ => .pure _) h n
  · exact ret_ne_incomplete (i := .sLfGroup sec g) (by simp)
      (.bind (withSection_neverWaits _ (hD.lfGroupBody g)) fun _ => .pure _) h n
  · exact ret_ne_incomplete (i := .sHfGlobal sec) (by simp)
      (.bind (withSection_neverWaits _ hD.hfGlobalBody) fun _ => .pure _) h n
  · exact ret_ne_incomplete (i := .sHfGroup sec g p) (by simp)
      (.bind (withSection_neverWaits _ (hD.hfGroupBody g p)) fun _ => .pure _) h n

end Sys2Proof.Machine

/-! Steps and HOST's commands (40_parser.md R130, R138, R142, 70_reset_and_hazards.md R450). -/

namespace Sys2Proof.Machine

/-! ### Steps -/

theorem ne_nil_of_decode {bs : List Byte} {i : Instr} (h : decode bs = .ok i) : bs ≠ [] := by
  rintro rfl
  cases h

theorem step_fetch {s : State} (h : s.inp.fetch ≠ []) : step s = fetchStep s := if_pos h

theorem step_issue {s : State} (hf : s.inp.fetch = []) (h : s.host.issue ≠ []) : step s = issueStep s := by
  unfold step
  rw [if_neg (not_not.2 hf), if_pos h]

theorem step_process {s : State} (hf : s.inp.fetch = []) (hi : s.host.issue = []) (hb : s.ctl.busy = true) :
    step s = processStep s := by
  unfold step
  rw [if_neg (not_not.2 hf), if_neg (not_not.2 hi), if_pos hb]

theorem step_host {s : State} (hf : s.inp.fetch = []) (hi : s.host.issue = []) (hb : s.ctl.busy = false) :
    step s = .next (hostStep s) := by
  unfold step
  rw [if_neg (not_not.2 hf), if_neg (not_not.2 hi), if_neg (by simp [hb])]

theorem isHostCommand_iff (i : Instr) :
    i.isHostCommand = true ↔ i = .reset ∨ i = .outQuery ∨ ∃ src opts out, i = .process src opts out := by
  cases i <;> simp [Instr.isHostCommand]

/-- Settles O1, port by port in the order of `step`. -/
theorem stepRunsDecodedOperation : Obligations.StepRunsDecodedOperation := by
  refine ⟨?_, ?_, ?_, ?_, ?_, ?_, fun s hf hi hb => step_host hf hi hb, isHostCommand_iff, ?_, ?_⟩
  · intro s i h
    rw [step_fetch (ne_nil_of_decode h), fetchStep, h]
    rfl
  · intro s e hf h
    rw [step_fetch hf, fetchStep, h]
  · intro s i hf h hi
    rw [step_issue hf (ne_nil_of_decode h), issueStep, h]
    exact if_pos hi
  · intro s i hf h hi
    rw [step_issue hf (ne_nil_of_decode h), issueStep, h]
    exact if_neg (by simp [hi])
  · intro s e hf hn h
    rw [step_issue hf hn, issueStep, h]
  · intro s i hf hi hb h
    rw [step_process hf hi hb, processStep, h]
    rfl
  · intro i t hi
    simp [afterOp, hi]
  · intro i t hi
    simp [afterOp, hi]

/-- Settles O2, by decoding the words. -/
theorem decodesSampleWords : Obligations.DecodesSampleWords := by
  unfold Obligations.DecodesSampleWords
  decide +kernel

/-! ### HOST's commands -/

theorem execReset_idle {s : State} (h : s.ctl.busy = false) :
    execReset s = .next { State.reset with host := s.host, inp := s.counted.inp } := by
  simp [execReset, h]

/-- Settles O6: the values are those of `State.reset`. -/
theorem resetCommand : Obligations.ResetCommand := by
  refine ⟨fun s h => execReset_idle h, ?_⟩
  decide

theorem atStart_eq (e : ErrKind) : e.atStart = if e = .incompleteInput then .none else e := by cases e <;> rfl

section

variable {s : State} {src : Nat} {opts : Options} {out : Option (List Plane)}

theorem processRefusal_faulted (hb : s.ctl.busy = false) (hp : s.ctl.phase = .faulted) :
    processRefusal src opts out s = none := by
  simp [processRefusal, hb, hp]

theorem exec_process_refused {r : Refusal} (h : processRefusal src opts out s = some r) :
    exec (.process src opts out) s = .refused r := by
  show execProcess src opts out s = _
  simp [execProcess, h]

theorem exec_process_faulted (hb : s.ctl.busy = false) (hp : s.ctl.phase = .faulted) :
    exec (.process src opts out) s = .next { s with ret := .result (.err s.ctl.err 0) } := by
  show execProcess src opts out s = _
  rw [execProcess, processRefusal_faulted hb hp]
  exact if_pos hp

theorem processRefusal_none (hb : s.ctl.busy = false) (hf : s.ctl.phase ≠ .finished)
    (ho : s.ctl.optValid = true → s.ctl.opt = opts ∧ s.ctl.src = src)
    (hout : s.par.frame.isSome = true → s.ctl.out.isSome = out.isSome) : processRefusal src opts out s = none := by
  simp only [processRefusal, State.frameInProgress, hb, hf]
  grind

end

/-- Settles O8: outside FAULTED the operands are taken, in FAULTED the latched error is returned. -/
theorem processCommand : Obligations.ProcessCommand := by
  refine ⟨fun s src opts out hb hf hp ho hout => ?_, fun s src opts out hb hp => exec_process_faulted hb hp⟩
  rw [exec_process_of_accepted (processRefusal_none hb hf ho hout) hp]
  simp [State.processing, State.setCtl, State.setRet, atStart_eq]

theorem exec_busy_refused {s : State} (hb : s.ctl.busy = true) {i : Instr}
    (hi : i = .reset ∨ i = .outQuery ∨ ∃ src opts out, i = .process src opts out) : exec i s = .refused .reentrant := by
  rcases hi with rfl | rfl | ⟨src, opts, out, rfl⟩
  · exact if_pos hb
  · exact if_pos hb
  · exact exec_process_refused (if_pos hb)

theorem execOutQuery_valid {s : State} {h : ImageHeader} (hb : s.ctl.busy = false) (hv : s.ctl.infoValid = true)
    (hh : s.par.imageHeader = some h) :
    execOutQuery s = .next { s with ret := .planes (Cfg.expectedPlanes s.inp.params h s.ctl.opt.pixelFormat) } := by
  have hok : getImageHeader s = .ok h s := by
    unfold getImageHeader
    rw [Op.bind_ok (getState_apply s), hh]
    rfl
  unfold execOutQuery
  rw [if_neg (by simp [hb]), if_pos hv]
  exact run_ok (Op.bind_ok hok _)

/-- Settles O9: the answer, and the refusals in the order `processRefusal` looks for them. -/
theorem outQueryAndRefusals : Obligations.OutQueryAndRefusals := by
  refine ⟨fun s h => execOutQuery_valid, fun s hb hv => ?_, fun s i hb hi => exec_busy_refused hb hi, ?_, ?_, ?_, ?_⟩
  · show execOutQuery s = _
    simp [execOutQuery, hb, hv]
  · exact fun s src opts out hb hf => exec_process_refused (by simp [processRefusal, hb, hf])
  · exact fun s src opts out hb hf hp hv ho => exec_process_refused (by simp [processRefusal, hb, hf, hp, hv, ho])
  · exact fun s src opts out hb hf hp hv ho hs => exec_process_refused (by simp [processRefusal, hb, hf, hp, hv, ho, hs])
  · intro s src opts out hb hf hp ho hfr hout
    refine exec_process_refused ?_
    simp only [processRefusal, State.frameInProgress, hb, hf, hp, hfr]
    grind

/-! ### Step selection -/

/-- The PENDING section found is one of the list, at its index. -/
theorem nextPending_some {l : List Section} {k j : Nat} {x : Section} (h : nextPending k l = some (j, x)) :
    ∃ i, j = k + i ∧ l[i]? = some x ∧ x.state = .pending := by
  induction l generalizing k j x with
  | nil => cases h
  | cons y rest ih =>
    unfold nextPending at h
    cases hr : nextPending (k + 1) rest with
    | none =>
      rw [hr] at h
      simp only at h
      split at h
      · cases h
        exact ⟨0, rfl, rfl, ‹_›⟩
      · cases h
    | some e =>
      obtain ⟨i, hi, hx, hp⟩ := ih hr
      rw [hr] at h
      simp only at h
      split at h
      · next hy =>
        cases h
        exact ⟨0, rfl, rfl, hy.1⟩
      · cases h
        exact ⟨i + 1, by omega, hx, hp⟩

/-- The PENDING section with the smallest logical index, the first of these, is the one found. -/
theorem nextPending_eq {l : List Section} {i : Nat} {x : Section} (hx : l[i]? = some x) (hp : x.state = .pending)
    (hmin : ∀ (j : Nat) (y : Section), l[j]? = some y → y.state = .pending →
      x.logical < y.logical ∨ (x.logical = y.logical ∧ i ≤ j)) (k : Nat) :
    nextPending k l = some (k + i, x) := by
  induction l generalizing i k with
  | nil => simp at hx
  | cons y rest ih =>
    cases i with
    | zero =>
      obtain rfl : y = x := by simpa using hx
      unfold nextPending
      cases hr : nextPending (k + 1) rest with
      | none => exact if_pos hp
      | some e =>
        obtain ⟨m, -, hm, hpm⟩ := nextPending_some hr
        have hle : y.logical ≤ e.2.logical := by
          rcases hmin (m + 1) e.2 hm hpm with h | h <;> omega
        exact if_pos ⟨hp, hle⟩
    | succ i =>
      have hrest : nextPending (k + 1) rest = some (k + 1 + i, x) := by
        refine ih hx (fun j z hz hpz => ?_) (k + 1)
        rcases hmin (j + 1) z hz hpz with h | h <;> omega
      have hy : ¬ (y.state = .pending ∧ y.logical ≤ x.logical) := by
        rintro ⟨hpy, hle⟩
        rcases hmin 0 y rfl hpy with h | h <;> omega
      unfold nextPending
      rw [hrest]
      simp only
      rw [if_neg hy]
      congr 2
      omega

theorem select_of_pending {s : State} {i : Nat} {x : Section} (hph : s.ctl.phase = .awaitingSections)
    (hm : s.ctl.mode = .decode) (h : nextPending 0 s.par.sect = some (i, x)) :
    select s = some (if x.ready = x.total then .pDispatch else .pBuffer) := by
  unfold select
  rw [hph, hm]
  simp only [h, Section.full, beq_iff_eq]

/-- Settles O14, row by row. -/
theorem selectFollowsPhase : Obligations.SelectFollowsPhase := by
  refine ⟨fun s h => select_of_needFileHeader h, fun s h => by rw [select, h], ?_, ?_, ?_, ?_, fun s h => by rw [select, h], ?_⟩
  · intro s h hf
    simp [select, h, hf]
  · intro s h hf
    have hsome : s.par.frame.isSome = true := Option.isSome_iff_ne_none.2 hf
    simp [select, h, hsome]
  · intro s h hm
    simp [select, h, hm]
  · exact fun s i x hph hm hx hp hmin => select_of_pending hph hm (nextPending_eq hx hp hmin 0)
  · rintro s (h | h) <;> rw [select, h]

end Sys2Proof.Machine

/-! The input source's transactions and the colour-management port (40_parser.md R136, R137, 46_render_pipeline.md R373,
R374). -/

namespace Sys2Proof.Machine

variable {α β : Type}

/-! ### The source -/

/-- Each number of the range is the one given where the tape's next value says so. -/
theorem drawRange_of_tape {s : State} {lo hi k : Nat} {rest : List Nat} (hlo : lo ≤ k) (hhi : k ≤ hi)
    (ht : s.inp.tape = (k - lo) :: rest) : drawRange lo hi s = .ok k s.drawn := by
  unfold drawRange
  rw [Op.bind_ok (draw_ok s), ht]
  have hk : lo + (k - lo) % (hi - lo + 1) = k := by
    rw [Nat.mod_eq_of_lt (by omega)]
    omega
  exact congrArg (fun k => EStateM.Result.ok k s.drawn) hk

theorem sourceRead_of_tape {s : State} {cap k : Nat} {rest : List Nat} (hlo : min (min cap s.available) 1 ≤ k)
    (hhi : k ≤ min cap s.available) (ht : s.inp.tape = (k - min (min cap s.available) 1) :: rest) :
    sourceRead cap s = .ok k (s.drawn.staged k) := by
  unfold sourceRead
  rw [Op.bind_ok (getState_apply s), Op.bind_ok (drawRange_of_tape (lo := atLeastOne _) hlo hhi ht)]
  rfl

theorem sourceSkip_of_tape {s : State} {n k : Nat} {rest : List Nat} (hlo : min (min n s.available) 1 ≤ k)
    (hhi : k ≤ min n s.available) (ht : s.inp.tape = (k - min (min n s.available) 1) :: rest) :
    sourceSkip n s = .ok k (s.drawn.sourceMoved k) := by
  unfold sourceSkip
  rw [Op.bind_ok (getState_apply s), Op.bind_ok (drawRange_of_tape (lo := atLeastOne _) hlo hhi ht)]
  rfl

theorem exec_srcRead {s : State} {caps : List Nat} {k : Nat} (h : sourceRead caps.sum s = .ok k (s.drawn.staged k)) :
    exec (.srcRead caps) s = .next (Sys2Proof.Claims.delivered s k) := by
  have hrun : run (sourceRead caps.sum >>= fun k => pure (.nat k)) s = .next ((s.drawn.staged k).setRet (.nat k)) :=
    run_ok (Op.bind_ok h _)
  exact hrun

theorem exec_srcSkip {s : State} {n k : Nat} (h : sourceSkip n s = .ok k (s.drawn.sourceMoved k)) :
    exec (.srcSkip n) s = .next (Sys2Proof.Claims.skipped s k) := by
  have hrun : run (sourceSkip n >>= fun k => pure (.nat k)) s = .next ((s.drawn.sourceMoved k).setRet (.nat k)) :=
    run_ok (Op.bind_ok h _)
  exact hrun

/-! ### Lists of answers -/

theorem allSome_map_some {f : α → Option β} {g : α → β} {l : List α} (h : ∀ a ∈ l, f a = some (g a)) :
    allSome (l.map f) = some (l.map g) := by
  induction l with
  | nil => rfl
  | cons a rest ih =>
    simp only [List.map_cons, allSome, h a List.mem_cons_self, ih fun b hb => h b (List.mem_cons_of_mem _ hb)]

theorem asFloat_ok {v : Sample} {f : F32} {s : State} (h : v.flt? = some f) : asFloat v s = .ok f s := by
  cases v with
  | flt g => cases h; rfl
  | int z => cases h
  | nat n => cases h

theorem collect_asFloat_ok {vs : List Sample} {l : List F32} {s : State} (h : floats vs = some l) :
    collect vs asFloat s = .ok l s := collect_ok vs (fun _ _ _ hv => asFloat_ok hv) h

theorem floats_map_flt (l : List F32) : floats (l.map Sample.flt) = some l := by
  unfold floats
  rw [List.map_map]
  simpa using allSome_map_some (f := Sample.flt? ∘ Sample.flt) (g := id) (l := l) fun _ _ => rfl

/-! ### Colour management -/

section

variable {s : State}

theorem floatBuffer_ok {h : Nat} {b : Buffer} (hb : assocGet s.img.bufs h = some b) (hf : b.ty = .float) :
    floatBuffer h s = .ok b s := by
  unfold floatBuffer
  rw [Op.bind_ok (getBuf_ok hb), hf]
  rfl

theorem floatBuffer_trap {h : Nat} {b : Buffer} (hb : assocGet s.img.bufs h = some b) (hf : b.ty ≠ .float) :
    floatBuffer h s = .error (.fatal .transform) s := by
  unfold floatBuffer
  rw [Op.bind_ok (getBuf_ok hb), decide_eq_false hf]
  rfl

theorem askCms_ok {handle : Nat} (h : s.ctl.opt.cms = some handle) (n : Nat) (l : List F32) :
    askCms n l s = .ok ((List.range n).map fun i => Cfg.cms s.inp.params handle n i l) s := by
  unfold askCms
  rw [Op.bind_ok (getState_apply s), h]
  rfl

theorem askCms_refused (h : s.ctl.opt.cms = none) (n : Nat) (l : List F32) :
    askCms n l s = .error (.refuse .noColorManagement) s := by
  unfold askCms
  rw [Op.bind_ok (getState_apply s), h]
  rfl

/-- The colour-management port up to HOST's answer: the input's floats are asked about. -/
theorem cmsBuffers_eq {input output : Nat} {a b : Buffer} {l : List F32} (ha : Sys2Proof.Claims.Floats s input a l)
    (hb : assocGet s.img.bufs output = some b) (hf : b.ty = .float) :
    cmsBuffers input output s =
      (askCms (b.width * b.height) l >>= fun r => writeAll output (r.map Sample.flt)) s := by
  unfold cmsBuffers
  rw [Op.bind_ok (floatBuffer_ok ha.here ha.floats), Op.bind_ok (floatBuffer_ok hb hf),
    Op.bind_ok (readAll_ok ha.here ha.values), Op.bind_ok (collect_asFloat_ok (floats_map_flt l))]

theorem cmsBuffers_ok {input output handle : Nat} {a b : Buffer} {l : List F32} (hc : s.ctl.opt.cms = some handle)
    (ha : Sys2Proof.Claims.Floats s input a l) (hb : assocGet s.img.bufs output = some b) (hf : b.ty = .float)
    (hw : s.holds .float output 0 0 b.width b.height) :
    cmsBuffers input output s =
      .ok () (s.putTile output b.width 0 0 0 (Sys2Proof.Claims.transformed s handle (b.width * b.height) l)) := by
  rw [cmsBuffers_eq ha hb hf, Op.bind_ok (askCms_ok hc _ _), List.map_map]
  refine writeAll_ok (ty := .float) _ hb (by simp [Sample.type]) fun j hj => ?_
  have hj : j < b.width * b.height := by simpa using hj
  have hpos : 0 < b.width := Nat.pos_of_ne_zero fun h => by simp [h] at hj
  simpa using hw (j % b.width) (j / b.width) (Nat.mod_lt _ hpos) (Nat.div_lt_of_lt_mul hj)

theorem cmsBuffers_refused {input output : Nat} {a b : Buffer} {l : List F32} (hc : s.ctl.opt.cms = none)
    (ha : Sys2Proof.Claims.Floats s input a l) (hb : assocGet s.img.bufs output = some b) (hf : b.ty = .float) :
    cmsBuffers input output s = .error (.refuse .noColorManagement) s := by
  rw [cmsBuffers_eq ha hb hf]
  exact Op.bind_error (askCms_refused hc _ _) _

/-- A buffer that is not one of floats, as input or as output, is a mismatched one. -/
theorem cmsBuffers_trap {input output : Nat} {a b : Buffer} (ha : assocGet s.img.bufs input = some a)
    (hb : assocGet s.img.bufs output = some b) (h : a.ty ≠ .float ∨ b.ty ≠ .float) :
    cmsBuffers input output s = .error (.fatal .transform) s := by
  unfold cmsBuffers
  by_cases hf : a.ty = .float
  · rw [Op.bind_ok (floatBuffer_ok ha hf)]
    exact Op.bind_error (floatBuffer_trap hb (h.resolve_left (not_not.2 hf))) _
  · exact Op.bind_error (floatBuffer_trap ha hf) _

theorem runUnit_fatal {op : Op Unit} {t : State} {k : Kind} (h : op s = .error (.fatal k) t) :
    runUnit op s = .next (trapEntry k t) := run_fatal (Op.bind_error h _)

theorem run_refused {op : Op OpValue} {t : State} {r : Refusal} (h : op s = .error (.refuse r) t) :
    run op s = .refused r := by
  unfold run
  rw [h]
  rfl

theorem runUnit_refused {op : Op Unit} {t : State} {r : Refusal} (h : op s = .error (.refuse r) t) :
    runUnit op s = .refused r := run_refused (Op.bind_error h _)

end

/-- Settles O13: the transaction in place is the one from a buffer into itself. -/
theorem colorManagement : Obligations.ColorManagement := by
  refine ⟨?_, ?_, ?_, ?_⟩
  · exact fun s input output handle a b l hc ha hb hf hw => runUnit_ok (cmsBuffers_ok hc ha hb hf hw)
  · exact fun s buffer handle b l hc hb hw => runUnit_ok (cmsBuffers_ok hc hb hb.here hb.floats hw)
  · exact fun s input output a b ha hb => ⟨fun h => runUnit_fatal (cmsBuffers_trap ha hb h),
      fun h => runUnit_fatal (cmsBuffers_trap ha ha (.inl h))⟩
  · exact fun s input output a b l hc ha hb hf => ⟨runUnit_refused (cmsBuffers_refused hc ha hb hf),
      runUnit_refused (cmsBuffers_refused hc ha ha.here ha.floats)⟩

end Sys2Proof.Machine

namespace Sys2Proof.Laws.Ports

open Sys2Proof.Machine

/-- Settles O11: what is drawn is a count of the range, and the tape can hold each. -/
theorem sourceRead : Obligations.SourceRead := by
  intro s caps
  obtain ⟨k, hlo, hhi, h⟩ := sourceRead_ok caps.sum s
  exact ⟨⟨k, hlo, hhi, exec_srcRead h⟩, fun k rest hlo hhi ht => exec_srcRead (sourceRead_of_tape hlo hhi ht)⟩

/-- Settles O12: as for a read, and a skip writes the source alone. -/
theorem sourceSkip : Obligations.SourceSkip := by
  intro s n
  obtain ⟨k, hlo, hhi, h⟩ := sourceSkip_ok n s
  exact ⟨⟨k, hlo, hhi, exec_srcSkip h⟩, fun k rest hlo hhi ht => exec_srcSkip (sourceSkip_of_tape hlo hhi ht), fun _ => rfl⟩

end Sys2Proof.Laws.Ports

/-! The header steps of the parser (40_parser.md R143 to R149, R156 to R159). -/

namespace Sys2Proof.Machine

variable {α β : Type} {s t : State}

/-! ### Stability under extension -/

theorem firstAnswerFrom_nil (f : Bits → Answer α) (seen : Bits) :
    firstAnswerFrom f seen [] = (f seen).within seen.length := by
  unfold firstAnswerFrom
  cases (f seen).within seen.length <;> rfl

theorem firstAnswerFrom_answered {f : Bits → Answer α} {seen : Bits} (rest : Bits)
    (h : (f seen).within seen.length ≠ .needMore) : firstAnswerFrom f seen rest = (f seen).within seen.length := by
  unfold firstAnswerFrom
  cases hw : (f seen).within seen.length with
  | needMore => exact absurd hw h
  | malformed k => rfl
  | parsed v n => rfl

theorem firstAnswerFrom_cons {f : Bits → Answer α} {seen : Bits} (h : (f seen).within seen.length = .needMore) (b : Bool)
    (more : Bits) : firstAnswerFrom f seen (b :: more) = firstAnswerFrom f (seen ++ [b]) more := by
  conv => lhs; unfold firstAnswerFrom
  rw [h]

theorem within_parsed {a : Answer α} {m n : Nat} {v : α} (h : a.within m = .parsed v n) : a = .parsed v n ∧ n ≤ m := by
  cases a with
  | needMore => simp [Answer.within] at h
  | malformed k => simp [Answer.within] at h
  | parsed w j =>
    by_cases hj : j ≤ m
    · simp only [Answer.within, if_pos hj] at h
      cases h
      exact ⟨rfl, hj⟩
    · simp [Answer.within, hj] at h

/-- An answer with no more bits is the answer with more of them. -/
theorem firstAnswerFrom_append (f : Bits → Answer α) (seen rest more : Bits) (h : firstAnswerFrom f seen rest ≠ .needMore) :
    firstAnswerFrom f seen (rest ++ more) = firstAnswerFrom f seen rest := by
  induction rest generalizing seen with
  | nil =>
    rw [firstAnswerFrom_nil] at h ⊢
    exact firstAnswerFrom_answered _ h
  | cons b rest ih =>
    by_cases hw : (f seen).within seen.length = .needMore
    · rw [firstAnswerFrom_cons hw] at h ⊢
      rw [List.cons_append, firstAnswerFrom_cons hw]
      exact ih _ h
    · rw [firstAnswerFrom_answered _ hw, firstAnswerFrom_answered _ hw]

/-- A parsed value is what the function answers on some beginning of the bits, within it. -/
theorem firstAnswer_parsed {f : Bits → Answer α} {bits : Bits} {v : α} {n : Nat} (h : firstAnswer f bits = .parsed v n) :
    ∃ seen rest, bits = seen ++ rest ∧ f seen = .parsed v n ∧ n ≤ seen.length := by
  suffices ∀ rest pre, firstAnswerFrom f pre rest = .parsed v n →
      ∃ seen more, pre ++ rest = seen ++ more ∧ f seen = .parsed v n ∧ n ≤ seen.length from this bits [] h
  intro rest
  induction rest with
  | nil =>
    intro pre hp
    rw [firstAnswerFrom_nil] at hp
    exact ⟨pre, [], rfl, within_parsed hp⟩
  | cons b rest ih =>
    intro pre hp
    by_cases hw : (f pre).within pre.length = .needMore
    · rw [firstAnswerFrom_cons hw] at hp
      obtain ⟨seen, more, heq, hrest⟩ := ih _ hp
      exact ⟨seen, more, by rw [← heq, List.append_assoc]; rfl, hrest⟩
    · rw [firstAnswerFrom_answered _ hw] at hp
      exact ⟨pre, b :: rest, rfl, within_parsed hp⟩

theorem firstAnswer_length {f : Bits → Answer α} {bits : Bits} {v : α} {n : Nat} (h : firstAnswer f bits = .parsed v n) :
    n ≤ bits.length := by
  obtain ⟨seen, rest, rfl, -, hn⟩ := firstAnswer_parsed h
  exact Nat.le_trans hn (by simp)

/-- Settles O25: the machine takes the answer of the shortest beginning that has one. -/
theorem parsersArePrefixStable : Obligations.ParsersArePrefixStable :=
  fun _ f bits more => ⟨firstAnswerFrom_append f [] bits more, fun _ _ => firstAnswer_length⟩

/-! ### Header steps that complete, and that trap -/

theorem getImageHeader_ok {h : ImageHeader} (hh : s.par.imageHeader = some h) : getImageHeader s = .ok h s := by
  unfold getImageHeader
  rw [Op.bind_ok (getState_apply s), hh]
  rfl

/-- A step that reads bits and completes. -/
theorem exec_commits {op : Op OpValue} {v : OpValue} (h : op s = .ok v t) :
    run (commitOrAbandon op) s = .next (t.setRet v) := run_ok (commitOrAbandon_ok h)

theorem exec_traps {op : Op OpValue} {k : Kind} (h : op s = .error (.fatal k) t) :
    run (commitOrAbandon op) s = .next (trapEntry k t) := run_fatal (commitOrAbandon_fatal h)

theorem check_ok {c : Bool} (h : c = true) (k : Kind) (s : State) : check c k s = .ok () s := by
  subst h
  rfl

theorem check_trap {c : Bool} (h : c = false) (k : Kind) (s : State) : check c k s = .error (.fatal k) s := by
  subst h
  rfl

/-- The state with a position. -/
def State.at_ (s : State) (n : Nat) : State := s.setCtl fun c => { c with bitpos := n }

/-- The position can be held (10_state.md R21). -/
def State.holdsPos (s : State) (n : Nat) : Prop := n < 2 ^ (s.inp.params.posBits.getD Config.posBits)

theorem setBitpos_holds {n : Nat} (h : s.holdsPos n) : setBitpos n s = .ok () (s.at_ n) := setBitpos_ok h

section FileHeader

variable {h : ImageHeader} {n : Nat} (ha : firstAnswer (Cfg.parseFileHeader s.inp.params) s.bitsHere = .parsed h n)
include ha

theorem fileHeader_ok (hl : h.width * h.height ≤ s.ctl.opt.pixelLimit) (hp : s.holdsPos (s.ctl.bitpos + n)) :
    fileHeader s = .ok .none (((s.setPar fun x => { x with imageHeader := some h.withoutProfile }).at_
      (s.ctl.bitpos + n)).setCtl fun c => { c with phase := .needColorProfile }) := by
  unfold fileHeader
  rw [Op.bind_ok (getParams_apply s), Op.bind_ok (ask_ok ha), Op.bind_ok (getState_apply s),
    Op.bind_ok (check_ok (decide_eq_true hl) _ s), Op.bind_ok (upd_apply _ s),
    Op.bind_ok (setBitpos_holds (s := s.setPar _) hp)]
  rfl

theorem fileHeader_tooLarge (hl : s.ctl.opt.pixelLimit < h.width * h.height) :
    fileHeader s = .error (.fatal .resourceLimit) s := by
  unfold fileHeader
  rw [Op.bind_ok (getParams_apply s), Op.bind_ok (ask_ok ha), Op.bind_ok (getState_apply s)]
  exact Op.bind_error (check_trap (decide_eq_false (Nat.not_le.2 hl)) _ s) _

end FileHeader

/-- What P.COLOR_PROFILE does after the profile has been read. -/
def profileRead : Op OpValue := do
  setPhase .needFrameHeaderToc
  upd fun s => s.setCtl fun c => { c with infoValid := true }
  yieldEvent .imageInfo

theorem colorProfile_eq {h : ImageHeader} (hh : s.par.imageHeader = some h) :
    colorProfile s = (readProfile h >>= fun _ => profileRead) s := Op.bind_ok (getImageHeader_ok hh) _

theorem readProfile_simple {h : ImageHeader} {ps : List Nat} (hc : h.color = .simple ps) : readProfile h s = .ok () s := by
  unfold readProfile
  rw [hc]
  rfl

theorem readProfile_icc {h : ImageHeader} {old : List Byte} (hc : h.color = .icc old) :
    readProfile h s = (ask (Cfg.parseColorProfile s.inp.params h) >>= fun r => do
      let s ← getState
      upd fun s => s.setPar fun x => { x with imageHeader := some { h with color := .icc r.1 } }
      setBitpos (s.ctl.bitpos + r.2)) s := by
  unfold readProfile
  rw [hc]
  rfl

theorem readProfile_ok {h : ImageHeader} {old icc : List Byte} {n : Nat} (hc : h.color = .icc old)
    (ha : firstAnswer (Cfg.parseColorProfile s.inp.params h) s.bitsHere = .parsed icc n)
    (hp : s.holdsPos (s.ctl.bitpos + n)) :
    readProfile h s = .ok () ((s.setPar fun x => { x with imageHeader := some { h with color := .icc icc } }).at_
      (s.ctl.bitpos + n)) := by
  rw [readProfile_icc hc, Op.bind_ok (ask_ok ha), Op.bind_ok (getState_apply s), Op.bind_ok (upd_apply _ s)]
  exact setBitpos_holds (s := s.setPar _) hp

theorem parseColorProfile_malformed {p : Params} {h : ImageHeader} {bits : Bits} {k : Kind}
    (hm : firstAnswer (Cfg.parseColorProfile p h) bits = .malformed k) : k ≠ .transform := by
  obtain ⟨seen, hseen⟩ := firstAnswer_malformed hm
  exact asNested_malformed hseen

/-- Settles O15, by the answers of the two parsers. -/
theorem fileHeaderAndProfile : Obligations.FileHeaderAndProfile := by
  refine ⟨?_, ?_, ?_, ?_, ?_, ?_⟩
  · exact fun s h n ha hl hp => exec_commits (fileHeader_ok ha hl hp)
  · exact fun s h n ha hl => exec_traps (fileHeader_tooLarge ha hl)
  · exact fun s k hm => ⟨parseFileHeader_malformed hm, exec_traps (fileHeader_malformed hm)⟩
  · intro s h old k hh hc hm
    refine ⟨parseColorProfile_malformed hm, exec_traps ?_⟩
    rw [colorProfile_eq hh]
    exact Op.bind_error ((readProfile_icc hc).trans (Op.bind_error (ask_malformed hm) _)) _
  · intro s h ps hh hc
    exact exec_commits ((colorProfile_eq hh).trans (Op.bind_ok (readProfile_simple hc) _))
  · intro s h old icc n hh hc ha hp
    exact exec_commits ((colorProfile_eq hh).trans (Op.bind_ok (readProfile_ok hc ha hp) _))

/-! ### P.FRAME_HEADER -/

section FrameHeader

variable {ih : ImageHeader} {fh : FrameHeader} {n : Nat} (hh : s.par.imageHeader = some ih)
include hh

theorem frameHeader_ok (ha : firstAnswer (Cfg.parseFrameHeader s.inp.params ih) s.bitsHere = .parsed fh n)
    (hl : fh.width * fh.height ≤ s.ctl.opt.pixelLimit) (hp : s.holdsPos (s.ctl.bitpos + n)) :
    frameHeader s = .ok .none ((((s.setPar fun x => { x with frame := some fh }).setCtl fun c => c.latchFrame fh)).at_
      (s.ctl.bitpos + n)) := by
  unfold frameHeader
  rw [Op.bind_ok (getParams_apply s), Op.bind_ok (getImageHeader_ok hh), Op.bind_ok (ask_ok ha),
    Op.bind_ok (getState_apply s), Op.bind_ok (check_ok (decide_eq_true hl) _ s), Op.bind_ok (upd_apply _ s),
    Op.bind_ok (setBitpos_holds (s := (s.setPar _).setCtl _) hp)]
  rfl

theorem frameHeader_tooLarge (ha : firstAnswer (Cfg.parseFrameHeader s.inp.params ih) s.bitsHere = .parsed fh n)
    (hl : s.ctl.opt.pixelLimit < fh.width * fh.height) : frameHeader s = .error (.fatal .resourceLimit) s := by
  unfold frameHeader
  rw [Op.bind_ok (getParams_apply s), Op.bind_ok (getImageHeader_ok hh), Op.bind_ok (ask_ok ha),
    Op.bind_ok (getState_apply s)]
  exact Op.bind_error (check_trap (decide_eq_false (Nat.not_le.2 hl)) _ s) _

theorem frameHeader_malformed {k : Kind} (hm : firstAnswer (Cfg.parseFrameHeader s.inp.params ih) s.bitsHere = .malformed k) :
    frameHeader s = .error (.fatal k) s := by
  unfold frameHeader
  rw [Op.bind_ok (getParams_apply s), Op.bind_ok (getImageHeader_ok hh)]
  exact Op.bind_error (ask_malformed hm) _

end FrameHeader

/-- A frame header takes a bit, or it is malformed; what its function rejects is Format. -/
theorem parseFrameHeader_cases (p : Params) (ih : ImageHeader) (bits : Bits) :
    (∃ fh n, Cfg.parseFrameHeader p ih bits = .parsed fh n ∧ 1 ≤ n) ∨ Cfg.parseFrameHeader p ih bits = .needMore ∨
      Cfg.parseFrameHeader p ih bits = .malformed .format := by
  unfold Cfg.parseFrameHeader
  simp only
  split
  · next fh n _ =>
    by_cases hn : 1 ≤ n
    · exact .inl ⟨fh, n, if_pos hn, hn⟩
    · exact .inr (.inr (if_neg hn))
  · exact .inr (.inl rfl)
  · next k hk => exact .inr (.inr (by rw [asFormat_malformed hk]))

theorem parseFrameHeader_malformed {p : Params} {ih : ImageHeader} {bits : Bits} {k : Kind}
    (h : firstAnswer (Cfg.parseFrameHeader p ih) bits = .malformed k) : k = .format := by
  obtain ⟨seen, hseen⟩ := firstAnswer_malformed h
  rcases parseFrameHeader_cases p ih seen with ⟨fh, n, hf, -⟩ | hf | hf <;> rw [hf] at hseen <;> cases hseen
  rfl

theorem parseFrameHeader_length {p : Params} {ih : ImageHeader} {bits : Bits} {fh : FrameHeader} {n : Nat}
    (h : firstAnswer (Cfg.parseFrameHeader p ih) bits = .parsed fh n) : 1 ≤ n := by
  obtain ⟨seen, -, -, hseen, -⟩ := firstAnswer_parsed h
  rcases parseFrameHeader_cases p ih seen with ⟨fh, m, hf, hm⟩ | hf | hf <;> rw [hf] at hseen <;> cases hseen
  exact hm

theorem chooseMode_eq (preview canRef display : Bool) (out : Option (List Plane)) :
    chooseMode preview canRef display out.isSome =
      if preview = true ∨ canRef = true ∨ (display = true ∧ out ≠ none) then .decode else .skip := by
  cases out <;> simp [chooseMode, or_assoc]

/-- Settles O16, by the answers of the frame-header parser. -/
theorem frameHeaderStep : Obligations.FrameHeaderStep := by
  refine ⟨?_, ?_, ?_, fun p ih bits fh n => parseFrameHeader_length⟩
  · intro s ih fh n hh ha hl hp
    rw [← chooseMode_eq]
    exact exec_commits (frameHeader_ok hh ha hl hp)
  · exact fun s ih fh n hh ha hl => exec_traps (frameHeader_tooLarge hh ha hl)
  · intro s ih k hh hm
    obtain rfl := parseFrameHeader_malformed hm
    exact ⟨rfl, exec_traps (frameHeader_malformed hh hm)⟩

/-! ### P.TOC -/

section Toc

variable {fh : FrameHeader} (hf : s.par.frame = some fh)
include hf

theorem toc_malformed {k : Kind} (hm : firstAnswer (Cfg.parseToc s.inp.params fh) s.bitsHere = .malformed k) :
    toc s = .error (.fatal k) s := by
  unfold toc
  rw [Op.bind_ok (getParams_apply s), Op.bind_ok (getFrame_ok hf)]
  exact Op.bind_error (ask_malformed hm) _

variable {tf : TocFields} {n : Nat} (ha : firstAnswer (Cfg.parseToc s.inp.params fh) s.bitsHere = .parsed tf n)
include ha

theorem toc_ok (hc : tf.len.length = numSections fh) (hperm : permOk tf.perm tf.len.length = true)
    (hp : s.holdsPos (alignUp8 (s.ctl.bitpos + n))) :
    toc s = .ok .none (((s.setPar fun x =>
      { x with
        toc := some { len := tf.len, perm := tf.perm, base := alignUp8 (s.ctl.bitpos + n) / 8 }
        sect := buildSections fh tf.perm 0 (alignUp8 (s.ctl.bitpos + n) / 8) tf.len
        skipLeft := if s.ctl.mode = .skip then tf.len.sum else 0 }).at_ (alignUp8 (s.ctl.bitpos + n))).setCtl fun c =>
          { c with phase := .awaitingSections }) := by
  unfold toc
  rw [Op.bind_ok (getParams_apply s), Op.bind_ok (getFrame_ok hf), Op.bind_ok (ask_ok ha), Op.bind_ok (getState_apply s),
    Op.bind_ok (check_ok (decide_eq_true hc) _ s), Op.bind_ok (check_ok hperm _ s)]
  simp only
  rw [Op.bind_ok (upd_apply _ s), Op.bind_ok (setBitpos_holds (s := s.setPar _) hp)]
  rfl

theorem toc_trap (h : tf.len.length ≠ numSections fh ∨ permOk tf.perm tf.len.length = false) :
    toc s = .error (.fatal .format) s := by
  unfold toc
  rw [Op.bind_ok (getParams_apply s), Op.bind_ok (getFrame_ok hf), Op.bind_ok (ask_ok ha), Op.bind_ok (getState_apply s)]
  by_cases hc : tf.len.length = numSections fh
  · rw [Op.bind_ok (check_ok (decide_eq_true hc) _ s)]
    exact Op.bind_error (check_trap (h.resolve_left (not_not.2 hc)) _ s) _
  · exact Op.bind_error (check_trap (decide_eq_false hc) _ s) _

end Toc

theorem length_buildSections (fh : FrameHeader) (perm : Option (List Nat)) (i start : Nat) (lens : List Nat) :
    (buildSections fh perm i start lens).length = lens.length := by
  induction lens generalizing i start with
  | nil => rfl
  | cons n rest ih => simp [buildSections, ih]

theorem getElem?_buildSections (fh : FrameHeader) (perm : Option (List Nat)) (i start : Nat) {lens : List Nat} {k m : Nat}
    (h : lens[k]? = some m) : (buildSections fh perm i start lens)[k]? = some
      { kind := sectionKind fh (logicalOf perm (i + k)), logical := logicalOf perm (i + k),
        start := start + (lens.take k).sum, total := m, ready := 0, state := .pending, bytes := [] } := by
  induction lens generalizing i start k with
  | nil => simp at h
  | cons n rest ih =>
    cases k with
    | zero =>
      obtain rfl : n = m := by simpa using h
      rfl
    | succ k =>
      have hk := ih (i + 1) (start + n) (k := k) (by simpa using h)
      rw [buildSections, List.getElem?_cons_succ, hk]
      simp only [List.take_succ_cons, List.sum_cons]
      rw [show i + 1 + k = i + (k + 1) by omega, Nat.add_assoc]

theorem alignUp8_div (n : Nat) : alignUp8 n / 8 = (n + 7) / 8 := Nat.mul_div_cancel _ (by decide)

theorem parseToc_malformed {p : Params} {fh : FrameHeader} {bits : Bits} {k : Kind}
    (hm : firstAnswer (Cfg.parseToc p fh) bits = .malformed k) : k ≠ .transform := by
  obtain ⟨seen, hseen⟩ := firstAnswer_malformed hm
  exact asNested_malformed hseen

theorem sectionKind_hf (fh : FrameHeader) (h1 : ¬ (fh.groups.length = 1 ∧ fh.numPasses = 1)) {g : Nat}
    (hg : g < fh.groups.length) (p : Nat) :
    sectionKind fh (2 + fh.lfGroups.length + p * fh.groups.length + g) = .hf g p := by
  unfold sectionKind
  rw [if_neg h1, if_neg (by omega), if_neg (by omega), if_neg (by omega)]
  have hk : 2 + fh.lfGroups.length + p * fh.groups.length + g - (fh.lfGroups.length + 2) = g + p * fh.groups.length := by
    omega
  simp only [hk, Nat.add_mul_mod_self_right, Nat.mod_eq_of_lt hg,
    Nat.add_mul_div_right _ _ (Nat.zero_lt_of_lt hg), Nat.div_eq_of_lt hg, Nat.zero_add]

/-- Settles O17: the table of sections entry by entry, and the kinds of the logical indexes. -/
theorem tocStep : Obligations.TocStep := by
  refine ⟨?_, ?_, ?_, ?_, ?_⟩
  · intro s fh tf n hf ha hc hperm hp
    have hok := toc_ok hf ha hc hperm hp
    rw [alignUp8_div] at hok
    refine ⟨_, exec_commits hok, length_buildSections _ _ _ _ _, fun i m hm => ?_⟩
    refine ⟨logicalOf tf.perm i, ?_, ?_⟩
    · cases tf.perm <;> rfl
    · rw [getElem?_buildSections _ _ _ _ hm, Nat.zero_add]
  · exact fun s fh tf n hf ha h => exec_traps (toc_trap hf ha h)
  · exact fun s fh k hf hm => ⟨parseToc_malformed hm, exec_traps (toc_malformed hf hm)⟩
  · exact fun fh hg hp => ⟨if_pos ⟨hg, hp⟩, if_pos ⟨hg, hp⟩⟩
  · intro fh h1
    refine ⟨if_neg h1, ?_, ?_, ?_, fun p g hg => sectionKind_hf fh h1 hg p⟩
    · simp [sectionKind, h1]
    · intro g hg
      rw [sectionKind, if_neg h1, if_neg (by omega), if_pos (by omega)]
      congr 1
      omega
    · rw [sectionKind, if_neg h1, if_neg (by omega), if_neg (by omega), if_pos (by omega)]

end Sys2Proof.Machine

/-! P.FILL, P.BUFFER and P.SKIP: bytes of the source into STAGE, into sections, and passed over (40_parser.md R139, R160,
R167). -/

namespace Sys2Proof.Machine

variable {α β : Type} {s : State}

/-! ### Bytes staged in several reads -/

/-- The input source is there, and what is revealed of it exists. -/
structure State.HasSource (s : State) (x : Source) : Prop where
  here : s.host.sources[s.ctl.src]? = some x
  ok : x.ok = true

theorem State.HasSource.source {x : Source} (h : s.HasSource x) : s.source = x := by
  unfold State.source
  rw [h.here]
  rfl

theorem State.HasSource.available {x : Source} (h : s.HasSource x) : s.available = x.availEnd - x.pos := by
  unfold State.available
  rw [h.source]

/-- The state with other inputs of the step. -/
def State.withInp (s : State) (i : Inputs) : State := { s with inp := i }

theorem staged_withInp (s : State) (i : Inputs) (k : Nat) : (s.withInp i).staged k = (s.staged k).withInp i := rfl

/-- How many bytes are staged at or after BITPOS's byte. -/
def State.stagedHere (s : State) : Nat := s.par.stage.have (s.ctl.bitpos / 8)

/-- BITPOS's byte is not beyond the end of STAGE. -/
def State.Reached (s : State) : Prop := s.ctl.bitpos / 8 ≤ s.par.stage.base + s.par.stage.bytes.length

theorem staged_eq {x : Source} (h : s.HasSource x) (k : Nat) : s.staged k =
    { s with
      par := { s.par with stage := { s.par.stage with bytes := s.par.stage.bytes ++ (x.bytes.drop x.pos).take k } }
      host := { s.host with sources := s.host.sources.set s.ctl.src { x with pos := x.pos + k } } } := by
  unfold State.staged State.sourceMoved State.setSource
  have hsrc : ∀ f, (s.setPar f).source = x := fun _ => h.source
  rw [hsrc, h.source]
  rfl

theorem set_of_getElem? {l : List α} {i : Nat} {a : α} (h : l[i]? = some a) : l.set i a = l := by
  obtain ⟨hi, rfl⟩ := List.getElem?_eq_some_iff.1 h
  exact List.set_getElem_self hi

theorem staged_zero {x : Source} (h : s.HasSource x) : s.staged 0 = s := by
  rw [staged_eq h, List.take_zero, List.append_nil]
  have hset : s.host.sources.set s.ctl.src { x with pos := x.pos + 0 } = s.host.sources := set_of_getElem? h.here
  rw [hset]

theorem HasSource.staged {x : Source} (h : s.HasSource x) {k : Nat} (hk : k ≤ s.available) :
    (s.staged k).HasSource { x with pos := x.pos + k } := by
  have hok := h.ok
  rw [h.available] at hk
  simp only [Source.ok, Bool.and_eq_true, decide_eq_true_eq] at hok
  refine ⟨?_, ?_⟩
  · rw [staged_eq h]
    exact List.getElem?_set_self (List.getElem?_eq_some_iff.1 h.here).1
  · simp only [Source.ok, Bool.and_eq_true, decide_eq_true_eq]
    omega

theorem staged_staged {x : Source} (h : s.HasSource x) {a : Nat} (ha : a ≤ s.available) (b : Nat) :
    (s.staged a).staged b = s.staged (a + b) := by
  rw [staged_eq (HasSource.staged h ha), staged_eq h, staged_eq h]
  simp only [List.set_set, List.append_assoc, ← List.drop_drop, Nat.add_assoc, List.take_add]

/-- As many bytes more are staged as were read. -/
theorem stagedHere_staged {x : Source} (h : s.HasSource x) (hr : s.Reached) {k : Nat} (hk : k ≤ s.available) :
    (s.staged k).stagedHere = s.stagedHere + k ∧ (s.staged k).Reached := by
  have hok := h.ok
  rw [h.available] at hk
  simp only [Source.ok, Bool.and_eq_true, decide_eq_true_eq] at hok
  have hlen : ((x.bytes.drop x.pos).take k).length = k := by
    rw [List.length_take, List.length_drop]
    omega
  unfold State.stagedHere State.Reached Stage.have at *
  rw [staged_eq h]
  simp only [List.length_append, hlen]
  omega

theorem fillLoop_enough {want fuel : Nat} (hgot : want ≤ s.stagedHere) : fillLoop want (fuel + 1) s = .ok () s := by
  unfold fillLoop
  rw [Op.bind_ok (getState_apply s)]
  exact congrFun (if_pos hgot) s

theorem fillLoop_none {want fuel : Nat} (hgot : ¬ want ≤ s.stagedHere) (hav : s.available = 0) :
    fillLoop want (fuel + 1) s = incomplete s := by
  unfold fillLoop
  rw [Op.bind_ok (getState_apply s)]
  exact congrFun ((if_neg hgot).trans (if_pos hav)) s

/-- A turn of the loop that has bytes to read reads some. -/
theorem fillLoop_more {want fuel : Nat} (hgot : ¬ want ≤ s.stagedHere) (hav : s.available ≠ 0) :
    ∃ k, 1 ≤ k ∧ k ≤ s.available ∧
      fillLoop want (fuel + 1) s = fillLoop want fuel ((s.staged k).withInp s.drawn.drawn.inp) := by
  have hturn : fillLoop want (fuel + 1) s = (draw >>= fun extra => sourceRead (want - s.stagedHere + extra) >>= fun k =>
      if k = 0 then incomplete else fillLoop want fuel) s := by
    conv => lhs; unfold fillLoop
    rw [Op.bind_ok (getState_apply s)]
    exact congrFun ((if_neg hgot).trans (if_neg hav)) s
  obtain ⟨extra, hdraw⟩ : ∃ extra, draw s = .ok extra s.drawn := ⟨_, draw_ok s⟩
  obtain ⟨k, hlo, hhi, hread⟩ := sourceRead_ok (want - s.stagedHere + extra) s.drawn
  rw [available_drawn] at hlo hhi
  refine ⟨k, by omega, by omega, ?_⟩
  rw [hturn, Op.bind_ok hdraw, Op.bind_ok hread]
  exact congrFun (if_neg (by omega)) _

theorem fillLoop_ok (want : Nat) {fuel : Nat} {x : Source} (h : s.HasSource x) (hr : s.Reached)
    (hfuel : s.available < fuel) (hw : want ≤ s.stagedHere + s.available) :
    ∃ k i, fillLoop want fuel s = .ok () ((s.staged k).withInp i) ∧ k ≤ s.available ∧ i.params = s.inp.params ∧
      want ≤ s.stagedHere + k := by
  induction fuel generalizing s x with
  | zero => omega
  | succ fuel ih =>
    by_cases hgot : want ≤ s.stagedHere
    · refine ⟨0, s.inp, ?_, Nat.zero_le _, rfl, hgot⟩
      rw [fillLoop_enough hgot, staged_zero h]
      rfl
    · obtain ⟨k, hk1, hk, hturn⟩ := fillLoop_more (fuel := fuel) hgot (by omega)
      obtain ⟨hhere, hr'⟩ := stagedHere_staged h hr hk
      have hsrc := HasSource.staged h hk
      have hav : (s.staged k).available = s.available - k := by
        rw [hsrc.available, h.available, Nat.sub_sub]
      obtain ⟨j, i, hrest, hj, hi, hwant⟩ := ih (s := (s.staged k).withInp s.drawn.drawn.inp) ⟨hsrc.here, hsrc.ok⟩ hr'
        (show (s.staged k).available < fuel by omega)
        (show want ≤ (s.staged k).stagedHere + (s.staged k).available by omega)
      have hj : j ≤ (s.staged k).available := hj
      have hwant : want ≤ (s.staged k).stagedHere + j := hwant
      refine ⟨k + j, i, ?_, by omega, hi, by omega⟩
      rw [hturn, hrest, staged_withInp, staged_staged h hk]
      rfl

/-- The state with the bytes below BITPOS dropped from STAGE. -/
def State.dropped (s : State) : State :=
  s.setPar fun p => { p with stage := p.stage.dropBelow (s.ctl.bitpos / 8) }

theorem dropped_reached (s : State) : s.dropped.Reached := by
  show s.ctl.bitpos / 8 ≤ (s.par.stage.dropBelow (s.ctl.bitpos / 8)).base +
    (s.par.stage.dropBelow (s.ctl.bitpos / 8)).bytes.length
  unfold Stage.dropBelow
  split
  · exact Nat.le_add_right _ _
  · exact Nat.le_trans (Nat.le_max_right _ _) (Nat.le_add_right _ _)

theorem fill_ok {want : Nat} {x : Source} (h : s.HasSource x) (hw : want ≤ s.dropped.stagedHere + s.available) :
    ∃ k i, fill want s = .ok () ((s.dropped.staged k).withInp i) ∧ k ≤ s.available ∧ i.params = s.inp.params ∧
      want ≤ s.dropped.stagedHere + k :=
  fillLoop_ok want (s := s.dropped) ⟨h.here, h.ok⟩ (dropped_reached s) (Nat.lt_succ_self _) hw

theorem fill_incomplete {want : Nat} (hw : s.dropped.stagedHere < want) (hav : s.available = 0) :
    ∃ n, 1 ≤ n ∧ fill want s = .error (.incomplete n) s.dropped.drawn := by
  obtain ⟨n, hn, hinc⟩ := incomplete_ok (α := Unit) s.dropped
  exact ⟨n, hn, (fillLoop_none (s := s.dropped) (by omega) hav).trans hinc⟩

theorem runUnit_incomplete {op : Op Unit} {t : State} {n : Nat} (h : op s = .error (.incomplete n) t) :
    runUnit op s = .next (takeIncomplete n t) := run_incomplete (Op.bind_error h _)

/-- Settles O18: the loop takes bytes turn by turn until enough are staged. -/
theorem fillStage : Obligations.FillStage := by
  refine ⟨fun s want x hx hok hw => ?_, fun s want hw hav => ?_⟩
  · have h : s.HasSource x := ⟨hx, hok⟩
    obtain ⟨k, i, hfill, hk, hi, hwant⟩ := fill_ok h hw
    refine ⟨k, i, ?_, ?_, hi, hwant⟩
    · rw [staged_eq (s := s.dropped) ⟨hx, hok⟩] at hfill
      exact runUnit_ok hfill
    · have hpos : x.pos ≤ x.availEnd := by simp [Source.ok] at hok; exact hok.1
      rw [h.available] at hk
      omega
  · obtain ⟨n, hn, hfill⟩ := fill_incomplete hw hav
    exact ⟨n, hn, runUnit_incomplete hfill⟩

/-! ### P.BUFFER -/

theorem findSection_eq {f : Section → Bool} {l : List Section} {i : Nat} {x : Section} (hx : l[i]? = some x) (hf : f x = true)
    (hbefore : ∀ j y, j < i → l[j]? = some y → f y = false) (k : Nat) : findSection f k l = some (k + i, x) := by
  induction l generalizing i k with
  | nil => simp at hx
  | cons y rest ih =>
    unfold findSection
    cases i with
    | zero =>
      obtain rfl : y = x := by simpa using hx
      exact if_pos hf
    | succ i =>
      have hy : f y = false := hbefore 0 y (Nat.succ_pos _) rfl
      rw [hy, ih hx (fun j z hj hz => hbefore (j + 1) z (by omega) hz) (k + 1)]
      simp only [Bool.false_eq_true, if_false]
      congr 2
      omega

theorem findSection_none {f : Section → Bool} {l : List Section} (h : ∀ x ∈ l, f x = false) (k : Nat) :
    findSection f k l = none := by
  induction l generalizing k with
  | nil => rfl
  | cons y rest ih =>
    unfold findSection
    rw [h y List.mem_cons_self, ih fun x hx => h x (List.mem_cons_of_mem _ hx)]
    rfl

theorem getSect_ok (h : s.par.sect ≠ []) : getSect s = .ok s.par.sect s := by
  unfold getSect
  rw [Op.bind_ok (getState_apply s)]
  cases hs : s.par.sect with
  | nil => exact absurd hs h
  | cons x rest => rfl

theorem getSect_absent (h : s.par.sect = []) : getSect s = .error (.fault (.absent .sect)) s := by
  unfold getSect
  rw [Op.bind_ok (getState_apply s), h]
  rfl

theorem ne_nil_of_getElem? {l : List α} {i : Nat} {a : α} (h : l[i]? = some a) : l ≠ [] := by
  rintro rfl
  simp at h

theorem full_eq_false {x : Section} (h : x.ready ≠ x.total) : x.full = false := beq_false_of_ne h

theorem full_eq_true {x : Section} (h : x.ready = x.total) : x.full = true := beq_iff_eq.2 h

section

variable {i : Nat} {x : Section} (hx : s.par.sect[i]? = some x) (hready : x.ready ≠ x.total)
  (hbefore : ∀ (j : Nat) (y : Section), j < i → s.par.sect[j]? = some y → y.ready = y.total)
include hx hready hbefore

theorem fillingSection_eq : fillingSection s.par.sect = some (i, x) := by
  unfold fillingSection
  rw [findSection_eq hx (by rw [full_eq_false hready]; rfl)
    (fun j y hj hy => by rw [full_eq_true (hbefore j y hj hy)]; rfl) 0, Nat.zero_add]

theorem buffer_eq : buffer s = (getState >>= fun s =>
    if s.par.stage.have (x.start + x.ready) = 0 then fill 1 >>= fun _ => moveBytes i (x.start + x.ready) x
    else moveBytes i (x.start + x.ready) x) s := by
  unfold buffer
  rw [Op.bind_ok (getSect_ok (ne_nil_of_getElem? hx)), fillingSection_eq hx hready hbefore]
  rfl

theorem buffer_staged (hh : s.par.stage.have (x.start + x.ready) ≠ 0) :
    buffer s = moveBytes i (x.start + x.ready) x s := by
  rw [buffer_eq hx hready hbefore, Op.bind_ok (getState_apply s)]
  exact congrFun (if_neg hh) s

theorem buffer_unstaged (hh : s.par.stage.have (x.start + x.ready) = 0) :
    buffer s = (fill 1 >>= fun _ => moveBytes i (x.start + x.ready) x) s := by
  rw [buffer_eq hx hready hbefore, Op.bind_ok (getState_apply s)]
  exact congrFun (if_pos hh) s

end

theorem moveBytes_ok {i at_ : Nat} {x : Section}
    (hp : s.holdsPos (8 * (at_ + ((s.par.stage.bytesFrom at_).take (x.total - x.ready)).length))) :
    moveBytes i at_ x s = .ok .none ((s.setPar fun q =>
      { q with sect := q.sect.set i (x.filled ((s.par.stage.bytesFrom at_).take (x.total - x.ready))) }).at_
        (8 * (at_ + ((s.par.stage.bytesFrom at_).take (x.total - x.ready)).length))) := by
  unfold moveBytes
  rw [Op.bind_ok (getState_apply s), Op.bind_ok (upd_apply _ s), Op.bind_ok (setBitpos_holds (s := s.setPar _) hp)]
  rfl

theorem have_dropBelow (g : Stage) (at_ : Nat) : (g.dropBelow at_).have at_ = g.have at_ := by
  unfold Stage.dropBelow Stage.have
  split
  · simp only [List.length_nil]
    omega
  · simp only [List.length_drop]
    omega

/-- Settles O19: the first section that is not ready is found, then its bytes are moved. -/
theorem bufferStep : Obligations.BufferStep := by
  refine ⟨?_, ?_, ?_, ?_⟩
  · intro s i x hx hready hbefore hh hp
    exact run_ok ((buffer_staged hx hready hbefore (by omega)).trans (moveBytes_ok hp))
  · intro s hs hall
    have hnone : fillingSection s.par.sect = none := findSection_none (fun x hx => by
      obtain ⟨i, hi⟩ := List.mem_iff_getElem?.1 hx
      rw [full_eq_true (hall i x hi)]
      rfl) 0
    have hok : buffer s = .ok .none s := by
      unfold buffer
      rw [Op.bind_ok (getSect_ok hs), hnone]
      rfl
    exact run_ok hok
  · intro s hs
    have hfault : buffer s = .error (.fault (.absent .sect)) s := Op.bind_error (getSect_absent hs) _
    show run buffer s = _
    unfold run
    rw [hfault]
    rfl
  · intro s i x hx hready hbefore hh hb hav
    have hdiv : s.ctl.bitpos / 8 = x.start + x.ready := by omega
    obtain ⟨n, hn, hfill⟩ := fill_incomplete (s := s) (want := 1) (by
      show (s.par.stage.dropBelow (s.ctl.bitpos / 8)).have (s.ctl.bitpos / 8) < 1
      rw [have_dropBelow, hdiv, hh]
      exact Nat.one_pos) hav
    exact ⟨n, hn, run_incomplete ((buffer_unstaged hx hready hbefore hh).trans (Op.bind_error hfill _))⟩

/-! ### P.SKIP -/

/-- P.SKIP once staged bytes and the source's have been passed over. -/
def skipFinish : Op OpValue := do
  skipBitpos
  let s ← getState
  if s.par.skipLeft = 0 then do
    upd fun s => s.setPar fun p => { p with sect := p.sect.map fun x => { x with state := .skipped } }
    setPhase .frameDone
  pure .none

/-- The state with `k` staged bytes passed over and `rest` left to skip. -/
def State.skipPast (s : State) (k rest : Nat) : State :=
  s.setPar fun p => { p with stage := p.stage.dropBelow (s.ctl.bitpos / 8 + k), skipLeft := rest }

section

variable {c : Toc} (hc : s.par.toc = some c)
include hc

theorem skip_eq {k rest : Nat} (hk : min s.par.skipLeft s.stagedHere = k) (hr : s.par.skipLeft - k = rest) :
    skip s = (skipSource >>= fun _ => skipFinish) (s.skipPast k rest) := by
  subst hk hr
  unfold skip
  rw [Op.bind_ok (getState_apply s), hc, Op.bind_ok (present_some c _ s), Op.bind_ok (upd_apply _ s)]
  rfl

theorem skipBitpos_ok (hp : s.holdsPos (8 * (c.base + c.len.sum))) :
    skipBitpos s = .ok () (s.at_ (8 * (c.base + c.len.sum - s.par.skipLeft))) := by
  unfold skipBitpos
  rw [Op.bind_ok (getState_apply s), hc, Op.bind_ok (present_some c _ s)]
  exact setBitpos_holds (Nat.lt_of_le_of_lt (Nat.mul_le_mul_left 8 (Nat.sub_le _ _)) hp)

theorem skipFinish_done (hp : s.holdsPos (8 * (c.base + c.len.sum))) (h0 : s.par.skipLeft = 0) :
    skipFinish s = .ok .none (((s.setPar fun p => { p with sect := p.sect.map fun x => { x with state := .skipped } }).at_
      (8 * (c.base + c.len.sum))).setCtl fun d => { d with phase := .frameDone }) := by
  unfold skipFinish
  rw [Op.bind_ok (skipBitpos_ok hc hp), h0, Nat.sub_zero, Op.bind_ok (getState_apply _)]
  exact congrFun (if_pos h0) _

theorem skipFinish_more (hp : s.holdsPos (8 * (c.base + c.len.sum))) (h0 : s.par.skipLeft ≠ 0) :
    skipFinish s = .ok .none (s.at_ (8 * (c.base + c.len.sum - s.par.skipLeft))) := by
  unfold skipFinish
  rw [Op.bind_ok (skipBitpos_ok hc hp), Op.bind_ok (getState_apply _)]
  exact congrFun (if_neg h0) _

theorem skipSource_incomplete (hp : s.holdsPos (8 * (c.base + c.len.sum))) (h0 : s.par.skipLeft ≠ 0) (hav : s.available = 0) :
    ∃ n, 1 ≤ n ∧ skipSource s = .error (.incomplete n) (s.at_ (8 * (c.base + c.len.sum - s.par.skipLeft))).drawn := by
  obtain ⟨n, hn, hinc⟩ := incomplete_ok (α := Unit) (s.at_ (8 * (c.base + c.len.sum - s.par.skipLeft)))
  refine ⟨n, hn, ?_⟩
  unfold skipSource
  rw [Op.bind_ok (getState_apply s)]
  refine (congrFun ((if_neg h0).trans (if_pos hav)) s).trans ?_
  rw [Op.bind_ok (skipBitpos_ok hc hp), hinc]

end

theorem skipSource_zero (h0 : s.par.skipLeft = 0) : skipSource s = .ok () s := by
  unfold skipSource
  rw [Op.bind_ok (getState_apply s)]
  exact congrFun (if_pos h0) s

theorem skipSource_ok (h0 : s.par.skipLeft ≠ 0) (hav : s.available ≠ 0) :
    ∃ k, 1 ≤ k ∧ k ≤ min s.par.skipLeft s.available ∧ skipSource s =
      .ok () ((s.drawn.sourceMoved k).setPar fun p => { p with skipLeft := p.skipLeft - k }) := by
  obtain ⟨k, hlo, hhi, hskip⟩ := sourceSkip_ok s.par.skipLeft s
  refine ⟨k, by omega, hhi, ?_⟩
  unfold skipSource
  rw [Op.bind_ok (getState_apply s)]
  refine (congrFun ((if_neg h0).trans (if_neg hav)) s).trans ?_
  rw [Op.bind_ok hskip]
  exact congrFun (if_neg (by omega)) _

/-- Settles O21: what is staged is passed over, then what the source skips. -/
theorem skipStep : Obligations.SkipStep := by
  refine ⟨?_, ?_, ?_⟩
  · intro s c hc hle hp
    have heq := skip_eq (s := s) hc (k := s.par.skipLeft) (rest := 0) (Nat.min_eq_left hle) (Nat.sub_self _)
    exact run_ok (heq.trans ((Op.bind_ok (skipSource_zero rfl) _).trans (skipFinish_done (s := s.skipPast _ 0) hc hp rfl)))
  · intro s c rest hc hleft hrest hav hp
    have heq := skip_eq (s := s) hc (k := s.par.stage.have (s.ctl.bitpos / 8)) (rest := rest)
      (Nat.min_eq_right (by unfold State.stagedHere; omega)) (by omega)
    obtain ⟨k, hk1, hk, hskip⟩ := skipSource_ok (s := s.skipPast _ rest) (Nat.ne_of_gt hrest) (Nat.ne_of_gt hav)
    have hk : k ≤ min rest s.available := hk
    refine ⟨k, hk1, hk, ?_⟩
    by_cases hrk : rest = k
    · have hok := heq.trans ((Op.bind_ok hskip _).trans (skipFinish_done (s := State.setPar _ _) hc hp
        (show rest - k = 0 by omega)))
      have hb : c.base + c.len.sum - (rest - k) = c.base + c.len.sum := by omega
      rw [if_pos hrk, if_pos hrk, hb]
      exact run_ok hok
    · have hok := heq.trans ((Op.bind_ok hskip _).trans (skipFinish_more (s := State.setPar _ _) hc hp
        (show rest - k ≠ 0 by omega)))
      rw [if_neg hrk, if_neg hrk]
      exact run_ok hok
  · intro s c rest hc hleft hrest hav hp
    have heq := skip_eq (s := s) hc (k := s.par.stage.have (s.ctl.bitpos / 8)) (rest := rest)
      (Nat.min_eq_right (by unfold State.stagedHere; omega)) (by omega)
    obtain ⟨n, hn, hinc⟩ := skipSource_incomplete (s := s.skipPast _ rest) hc hp (Nat.ne_of_gt hrest) hav
    exact ⟨n, hn, run_incomplete (heq.trans (Op.bind_error hinc _))⟩

end Sys2Proof.Machine

/-! P.DISPATCH and the end of a frame (40_parser.md R164, R168 to R172). -/

namespace Sys2Proof.Machine

open Sys2Proof.Claims

variable {α β : Type} {s t : State}

/-! ### How an operation without a value ends -/

theorem runUnit_next_none {op : Op Unit} (h : runUnit op s = .next t) (hret : t.ret = .none) :
    ∃ u, op s = .ok () u ∧ t = u.setRet .none := by
  unfold runUnit run at h
  cases hop : op s with
  | ok a u =>
    rw [Op.bind_ok hop] at h
    cases h
    exact ⟨u, rfl, rfl⟩
  | error e u =>
    rw [Op.bind_error hop] at h
    cases e with
    | incomplete n => cases h; cases hret
    | fatal k => cases h; cases hret
    | fault f => cases h
    | refuse r => cases h

theorem runUnit_next_error {op : Op Unit} (h : runUnit op s = .next t) (hret : t.ret ≠ .none) :
    ∃ e u, op s = .error e u ∧ finish (.error e u) = .next t := by
  unfold runUnit run at h
  cases hop : op s with
  | ok a u =>
    rw [Op.bind_ok hop] at h
    cases h
    exact absurd rfl hret
  | error e u =>
    rw [Op.bind_error hop] at h
    exact ⟨e, u, rfl, h⟩

theorem run_error {op : Op OpValue} {e : Stop} {u : State} (h : op s = .error e u) : run op s = finish (.error e u) := by
  unfold run
  rw [h]

/-! ### P.DISPATCH -/

/-- What P.DISPATCH does with the section stored `i`-th. -/
def sectionDispatch (fh : FrameHeader) (i : Nat) (x : Section) : Op OpValue :=
  withSection i (sectionBody fh x.kind) >>= fun _ =>
    upd (fun s => (s.setRet .none).setPar fun q =>
      { q with sect := q.sect.set i { x with state := .decoded, bytes := [] } }) >>= fun _ => renderAndEnd x.kind

section

variable {i : Nat} {x : Section} {fh : FrameHeader} (hx : Runnable s i x) (hf : s.par.frame = some fh)
include hx hf

theorem dispatch_eq : dispatch s = sectionDispatch fh i x s := by
  have hnext : nextPending 0 s.par.sect = some (i, x) := by
    rw [nextPending_eq hx.here hx.pending hx.least 0, Nat.zero_add]
  unfold dispatch
  rw [Op.bind_ok (getSect_ok (ne_nil_of_getElem? hx.here)), hnext]
  refine (congrFun (if_pos (full_eq_true hx.ready)) s).trans ?_
  rw [Op.bind_ok (getFrame_ok hf)]
  rfl

/-- Where the decode completes, the section is marked and its group rendered. -/
theorem dispatch_of_ok {u : State} (h : withSection i (sectionBody fh x.kind) s = .ok () u) :
    dispatch s = renderAndEnd x.kind (markDecoded (u.setRet .none) i x) := by
  rw [dispatch_eq hx hf, sectionDispatch, Op.bind_ok h]
  rfl

/-- Where it does not, P.DISPATCH ends as it does. -/
theorem dispatch_of_error {e : Stop} {u : State} (h : withSection i (sectionBody fh x.kind) s = .error e u) :
    dispatch s = .error e u := by
  rw [dispatch_eq hx hf, sectionDispatch]
  exact Op.bind_error h _

end

/-- The end of P.DISPATCH: PHASE. -/
def endSection : Op OpValue := do
  let s ← getState
  if allDone s.par.sect then setPhase .frameDone
  pure .none

theorem endSection_ok (s : State) : endSection s = .ok .none (afterSection s) := by
  unfold endSection afterSection
  rw [Op.bind_ok (getState_apply s)]
  by_cases h : allDone s.par.sect = true
  · rw [if_pos (show (s.par.sect.all fun x => decide (x.state ≠ .pending)) = true from h)]
    exact congrFun (if_pos h) s
  · rw [if_neg (show ¬ (s.par.sect.all fun x => decide (x.state ≠ .pending)) = true from h)]
    exact congrFun (if_neg h) s

theorem renderAndEnd_none {k : SecKind} (hk : sectionGroup k = none) (s : State) :
    renderAndEnd k s = .ok .none (afterSection s) := by
  unfold renderAndEnd
  rw [hk]
  exact endSection_ok s

theorem renderAndEnd_some {k : SecKind} {g : Nat} (hk : sectionGroup k = some g) (s : State) :
    renderAndEnd k s = (renderGroup g >>= fun _ => endSection) s := by
  unfold renderAndEnd
  rw [hk]
  rfl

theorem withSection_ok {body : Op α} {i : Nat} {x : Section} {a : α} {u : State} (hx : s.par.sect[i]? = some x)
    (h : body (opened s x) = .ok a u) : withSection i body s = .ok a (u.setPar fun p => { p with reader := none }) := by
  unfold withSection
  rw [Op.bind_ok (getState_apply s), hx, Op.bind_ok (present_some x _ s), Op.bind_ok (upd_apply _ s)]
  refine (Op.bind_ok h _).trans ?_
  rfl

theorem afterSection_setRet (s : State) (v : OpValue) : afterSection (s.setRet v) = (afterSection s).setRet v := by
  unfold afterSection
  by_cases h : (s.par.sect.all fun x => decide (x.state ≠ .pending)) = true
  · rw [if_pos h, if_pos (show ((s.setRet v).par.sect.all fun x => decide (x.state ≠ .pending)) = true from h)]
    rfl
  · rw [if_neg h, if_neg (show ¬ ((s.setRet v).par.sect.all fun x => decide (x.state ≠ .pending)) = true from h)]

/-- A combined section's decodes, one after the other, are its body. -/
theorem combinedBody_ok {fh : FrameHeader} {v : State} (hf : s.par.frame = some fh) (h : CombinedRuns fh s v) :
    combinedBody s = .ok () v := by
  obtain ⟨a, b, c, ha, hb, hc, hv⟩ := h
  unfold combinedBody
  rw [Op.bind_ok (getFrame_ok hf), Op.bind_ok ha, Op.bind_ok hb]
  cases he : fh.encoding with
  | varDct =>
    rw [he] at hc
    exact (Op.bind_ok hc _).trans hv
  | modular =>
    rw [he] at hc
    subst hc
    exact hv

section

variable {i : Nat} {x : Section} {fh : FrameHeader} (hx : Runnable s i x) (hf : s.par.frame = some fh)
include hx hf

/-- A section that completes no group. -/
theorem exec_dispatch_none {u : State} (hk : sectionGroup x.kind = none)
    (h : withSection i (sectionBody fh x.kind) s = .ok () u) :
    exec .pDispatch s = .next ((afterSection (markDecoded (u.setRet .none) i x)).setRet .none) :=
  run_ok ((dispatch_of_ok hx hf h).trans (renderAndEnd_none hk _))

/-- A section whose decode does not complete. -/
theorem exec_dispatch_error {t : State} (h : runUnit (withSection i (sectionBody fh x.kind)) s = .next t)
    (hret : t.ret ≠ .none) : exec .pDispatch s = .next t := by
  obtain ⟨e, u, hop, hfin⟩ := runUnit_next_error h hret
  exact (run_error (dispatch_of_error hx hf hop)).trans hfin

omit hx hf in
/-- A section that completes data for a group ends as R.GROUP ends. -/
theorem exec_dispatch_group {g : Nat} {t u : State} (hk : sectionGroup x.kind = some g)
    (h : dispatch s = renderAndEnd x.kind (markDecoded t i x))
    (hg : exec (.rGroup g) (markDecoded t i x) = .next u) :
    (u.ret = .none → exec .pDispatch s = .next ((afterSection u).setRet .none)) ∧
      (u.ret ≠ .none → exec .pDispatch s = .next u) := by
  rw [renderAndEnd_some hk] at h
  refine ⟨fun hret => ?_, fun hret => ?_⟩
  · obtain ⟨w, hw, rfl⟩ := runUnit_next_none hg hret
    refine (run_ok (h.trans ((Op.bind_ok hw _).trans (endSection_ok w)))).trans ?_
    rw [afterSection_setRet]
    rfl
  · obtain ⟨e, w, hw, hfin⟩ := runUnit_next_error hg hret
    exact (run_error (h.trans (Op.bind_error hw _))).trans hfin

end

/-- The section operation that belongs to a section runs the decode P.DISPATCH runs. -/
theorem sectionBody_runs {i : Nat} {x : Section} {fh : FrameHeader}
    (h : exec (.sLfGlobal i) s = .next t ∧ x.kind = .lfGlobal ∨
      (∃ g, exec (.sLfGroup i g) s = .next t ∧ x.kind = .lf g) ∨
      (exec (.sHfGlobal i) s = .next t ∧ x.kind = .hfGlobal ∧ fh.encoding = .varDct)) :
    runUnit (withSection i (sectionBody fh x.kind)) s = .next t ∧ sectionGroup x.kind = none := by
  rcases h with ⟨h, hk⟩ | ⟨g, h, hk⟩ | ⟨h, hk, he⟩
  · exact hk ▸ ⟨h, rfl⟩
  · exact hk ▸ ⟨h, rfl⟩
  · rw [hk, sectionBody, he]
    exact ⟨h, rfl⟩

/-- Settles O20, by how the section's decode ends, and then how R.GROUP does. -/
theorem dispatchSection : Obligations.DispatchSection := by
  refine ⟨?_, ?_, ?_, ?_⟩
  · intro s i x fh hx hf he hk
    have hbody : sectionBody fh x.kind (opened s x) = .ok () (opened s x) := by
      rw [hk, sectionBody, he]
      rfl
    have h := exec_dispatch_none hx hf (by rw [hk]; rfl) (withSection_ok hx.here hbody)
    refine h.trans ?_
    show Host.Outcome.next ((afterSection ((markDecoded (s.setPar fun p => { p with reader := none }) i x).setRet .none)).setRet
      .none) = _
    rw [afterSection_setRet]
    rfl
  · intro s t i x fh hx hf h hret
    obtain ⟨hrun, hk⟩ := sectionBody_runs h
    obtain ⟨u, hu, rfl⟩ := runUnit_next_none hrun hret
    exact exec_dispatch_none hx hf hk hu
  · intro s t i x fh hx hf h hret
    have hrun : runUnit (withSection i (sectionBody fh x.kind)) s = .next t := by
      rcases h with h | h | h | ⟨g, p, h, hk⟩
      · exact (sectionBody_runs (.inl h)).1
      · exact (sectionBody_runs (.inr (.inl h))).1
      · exact (sectionBody_runs (.inr (.inr h))).1
      · exact hk ▸ h
    exact exec_dispatch_error hx hf hrun hret
  · intro s t u i g x fh hx hf h hret hg
    rcases h with ⟨p, hk, h⟩ | ⟨hk, rfl, v, hv, rfl⟩
    · obtain ⟨w, hw, rfl⟩ := runUnit_next_none (show runUnit (withSection i (sectionBody fh x.kind)) s = .next t from hk ▸ h) hret
      exact exec_dispatch_group (by rw [hk]; rfl) (dispatch_of_ok hx hf hw) hg
    · have hbody : sectionBody fh x.kind (opened s x) = .ok () v := by
        rw [hk]
        exact combinedBody_ok hf hv
      exact exec_dispatch_group (by rw [hk]; rfl) (dispatch_of_ok hx hf (withSection_ok hx.here hbody)) hg

/-! ### P.FRAME_DONE -/

/-- What P.FRAME_DONE does after the frame has been kept, or skipped: `c` is the command state it began in. -/
def closeFrame (c : Control) : Op OpValue := do
  upd fun t => t.destroyFrame.setCtl fun c => { c with frameCount := c.frameCount + 1 }
  if c.fLast then finishStream else setPhase .needFrameHeaderToc
  if c.surfaced then yieldEvent .frameReady else pure .none

theorem surfaced_eq (c : Control) : c.surfaced = Sys2Proof.Claims.surfaced c := by
  unfold Control.surfaced Sys2Proof.Claims.surfaced
  cases c.fDisplay <;> cases c.fPreview <;> cases c.opt.skipPreview <;> cases c.fLast <;> rfl

theorem run_closeFrame (s : State) : run (closeFrame s.ctl) s = .next (frameClosed s) := by
  unfold closeFrame frameClosed run
  rw [← surfaced_eq]
  cases hl : s.ctl.fLast <;> cases hs : s.ctl.surfaced <;> rfl

theorem frameDone_decode (hm : s.ctl.mode = .decode) : frameDone s = (keepFrame >>= fun _ => closeFrame s.ctl) s := by
  unfold frameDone
  rw [Op.bind_ok (getState_apply s), hm]
  rfl

theorem frameDone_skip (hm : s.ctl.mode = .skip) : frameDone s = closeFrame s.ctl s := by
  unfold frameDone
  rw [Op.bind_ok (getState_apply s), hm]
  rfl

theorem getRender_ok {r : Render} (hr : s.rnd = some r) : getRender s = .ok r s := by
  unfold getRender
  rw [Op.bind_ok (getState_apply s), hr]
  rfl

/-- The end of `finishRender`: the buffers of the stage in progress are released and the pipeline is dropped. -/
def dropRender : Op (List Nat) := do
  let r ← getRender
  each (r.next.map Prod.snd) release
  upd fun s => s.setRnd none
  pure r.chans

theorem finishRender_rendered {r : Render} {fh : FrameHeader} (hr : s.rnd = some r) (hf : s.par.frame = some fh)
    (h : ¬ (r.rendered < fh.numPasses ∨ fh.numPasses = 0)) : finishRender s = dropRender s := by
  unfold finishRender
  rw [Op.bind_ok (getRender_ok hr), Op.bind_ok (getFrame_ok hf)]
  exact congrFun (if_neg h) s

theorem finishRender_unrendered {r : Render} {fh : FrameHeader} {u : State} (hr : s.rnd = some r) (hf : s.par.frame = some fh)
    (h : r.rendered < fh.numPasses ∨ fh.numPasses = 0) (hu : renderFrame s = .ok () u) : finishRender s = dropRender u := by
  unfold finishRender
  rw [Op.bind_ok (getRender_ok hr), Op.bind_ok (getFrame_ok hf)]
  exact (congrFun (if_pos h) s).trans (Op.bind_ok hu _)

theorem dropRender_ok {r : Render} (hr : s.rnd = some r) :
    dropRender s = .ok r.chans ((s.released (r.next.map Prod.snd)).setRnd none) := by
  unfold dropRender
  rw [Op.bind_ok (getRender_ok hr), Op.bind_ok (each_release_ok _ s)]
  rfl

/-- Releasing buffers touches the buffers alone. -/
theorem released_frame (l : List Nat) (s : State) : (s.released l).par = s.par ∧ (s.released l).ctl = s.ctl ∧
    (s.released l).inp = s.inp := by
  induction l generalizing s with
  | nil => exact ⟨rfl, rfl, rfl⟩
  | cons h rest ih => exact ih _

/-- What is left of a rendered frame is kept. -/
theorem keepFrame_of_finish {u : State} {v : Render} {fh : FrameHeader} (hv : u.rnd = some v) (hf : u.par.frame = some fh)
    (hfin : finishRender s = dropRender u) : keepFrame s = .ok () (finished u v fh) := by
  obtain ⟨hpar, hctl, hinp⟩ := released_frame (v.next.map Prod.snd) u
  have hframe : ((u.released (v.next.map Prod.snd)).setRnd none).par.frame = some fh := by
    show (u.released (v.next.map Prod.snd)).par.frame = some fh
    rw [hpar, hf]
  unfold keepFrame
  rw [Op.bind_ok (hfin.trans (dropRender_ok hv)), Op.bind_ok (getState_apply _), Op.bind_ok (getFrame_ok hframe)]
  unfold finished
  simp only [State.setRnd, hctl, hinp]
  split
  · rfl
  · exact each_release_ok _ _

theorem finished_ctl (s : State) (r : Render) (fh : FrameHeader) : (finished s r fh).ctl = s.ctl := by
  unfold finished
  simp only
  split
  · exact (released_frame _ s).2.1
  · exact (released_frame _ _).2.1.trans (released_frame _ s).2.1

/-- Rendering changes no command state, but for what a Save notes of the planes it has checked. -/
theorem renderFrame_ctl {u : State} (h : renderFrame s = .ok () u) : u.ctl = s.ctl := by
  have hK : KeptBySaving fun t => t.ctl = s.ctl :=
    ⟨⟨fun _ _ _ _ h => h, fun _ _ _ _ h _ => h, fun _ _ h => h, fun _ h => h, fun _ _ h => h⟩, fun _ _ _ h => h⟩
  exact (hK.renderFrame (N := fun _ => True) s rfl).post h

theorem run_keepFrame {u : State} {v : Render} {fh : FrameHeader} (hm : s.ctl.mode = .decode)
    (hk : keepFrame s = .ok () (finished u v fh)) (hc : u.ctl = s.ctl) :
    exec .pFrameDone s = .next (frameClosed (finished u v fh)) := by
  show run frameDone s = _
  rw [← run_closeFrame, finished_ctl, hc]
  unfold run
  rw [frameDone_decode hm, Op.bind_ok hk]

/-- Settles O22: the frame is kept, then closed. -/
theorem frameDoneStep : Obligations.FrameDoneStep := by
  refine ⟨?_, ?_, ?_, ?_, fun s => rfl⟩
  · intro s hm
    show run frameDone s = _
    rw [← run_closeFrame]
    unfold run
    rw [frameDone_skip hm]
  · intro s hm hr
    have hfault : frameDone s = .error (.fault (.absent .render)) s := by
      rw [frameDone_decode hm]
      refine Op.bind_error (Op.bind_error (Op.bind_error ?_ _) _) _
      unfold getRender
      rw [Op.bind_ok (getState_apply s), hr]
      rfl
    exact run_error hfault
  · intro s fh r hm hr hf hn hpos
    exact run_keepFrame hm (keepFrame_of_finish hr hf (finishRender_rendered hr hf (by omega))) rfl
  · intro s u fh r v hm hr hf h hu hv hfu
    exact run_keepFrame hm (keepFrame_of_finish hv hfu (finishRender_unrendered hr hf h hu)) (renderFrame_ctl hu)

end Sys2Proof.Machine

/-! The histograms and the ANS state (41_ans.md R191 to R206): what each encoding's table is, and what the operations on a
scope's tables leave. -/

namespace Sys2Proof.Machine

open Sys2Proof.Claims

variable {s : State}

/-! ### The tables of the encodings -/

theorem sum_map_range (n : Nat) (f : Nat → Nat) : ((List.range n).map f).sum = ∑ i ∈ Finset.range n, f i := by
  induction n with
  | zero => rfl
  | succ n ih => rw [List.range_succ, List.map_append, List.sum_append, ih, Finset.sum_range_succ]; simp

theorem set_map_range (n x v : Nat) (f : Nat → Nat) :
    ((List.range n).map f).set x v = (List.range n).map fun i => if i = x then v else f i := by
  apply List.ext_getElem (by simp)
  intro i h1 h2
  simp only [List.getElem_set, List.getElem_map, List.getElem_range]
  split <;> split <;> grind

theorem replicate_eq_map_range (n v : Nat) : List.replicate n v = (List.range n).map fun _ => v := by simp

theorem distOf_single (las x v : Nat) :
    distOf las [(x, v)] = (List.range (2 ^ las)).map fun i => if i = x then v else 0 := by
  simp only [distOf, List.foldl, replicate_eq_map_range, set_map_range]

theorem distOf_two {las a b v w : Nat} (hab : a ≠ b) :
    distOf las [(a, v), (b, w)] = (List.range (2 ^ las)).map fun i => if i = a then v else if i = b then w else 0 := by
  simp only [distOf, List.foldl, replicate_eq_map_range, set_map_range]
  congr 1; funext i
  split <;> split <;> grind

/-! ### Their sums -/

theorem sum_ite_lt {m n : Nat} (h : m ≤ n) (c : Nat) : (∑ i ∈ Finset.range n, if i < m then c else 0) = m * c := by
  have hf : (Finset.range n).filter (· < m) = Finset.range m := by ext i; simp; omega
  rw [← Finset.sum_filter, hf, Finset.sum_const, Finset.card_range, smul_eq_mul]

theorem sum_single {n x : Nat} (hx : x < n) (v : Nat) : ((List.range n).map fun i => if i = x then v else 0).sum = v := by
  rw [sum_map_range, Finset.sum_ite_eq', if_pos (Finset.mem_range.2 hx)]

theorem sum_two {n a b : Nat} (ha : a < n) (hb : b < n) (hab : a ≠ b) (v w : Nat) :
    ((List.range n).map fun i => if i = a then v else if i = b then w else 0).sum = v + w := by
  have hsplit : ∀ i, (if i = a then v else if i = b then w else 0) = (if i = a then v else 0) + if i = b then w else 0 := by
    intro i
    split <;> split <;> grind
  rw [sum_map_range]
  simp only [hsplit]
  rw [Finset.sum_add_distrib, Finset.sum_ite_eq', Finset.sum_ite_eq', if_pos (Finset.mem_range.2 ha),
    if_pos (Finset.mem_range.2 hb)]

/-- An even distribution over `m` symbols gives out all of 4096: the quotient to each, the remainder to the first. -/
theorem sum_flatDist {las m : Nat} (h1 : 1 ≤ m) (h2 : m ≤ 2 ^ las) : (flatDist las m).sum = 4096 := by
  have hmod : 4096 % m < m := Nat.mod_lt _ h1
  have hsplit : ∀ i, (if i < 4096 % m then 4096 / m + 1 else if i < m then 4096 / m else 0) =
      (if i < m then 4096 / m else 0) + if i < 4096 % m then 1 else 0 := by
    intro i
    split <;> split <;> grind
  rw [flatDist, sum_map_range]
  simp only [hsplit]
  rw [Finset.sum_add_distrib, sum_ite_lt h2, sum_ite_lt (by omega), Nat.mul_one, Nat.div_add_mod]

theorem natOfBits_take_lt (b : Bits) (n : Nat) : natOfBits (b.take n) < 2 ^ n := by
  rw [natOfBits_take]
  exact Nat.mod_lt _ (Nat.two_pow_pos n)

/-! ### Decoding and storing a histogram -/

/-- A histogram of an encoding that follows is decoded, and satisfies the sum rule. -/
theorem histDecode_ok {las n : Nat} {k : HistKind} {d : List Nat} (hlas : las ≤ 12) (h : HistogramHere s las k d n) :
    histDecode k las s = .ok d (s.moved n) ∧ histOk las d = true := by
  rw [histOk_iff]
  cases k with
  | single =>
    obtain ⟨x, hx, hlt, rfl⟩ := h
    refine ⟨?_, hlas, by simp, sum_single hlt _⟩
    show histSingle las s = _
    rw [histSingle, Op.bind_ok (getParams_apply s), Op.bind_ok (parse_ok hx),
      Op.bind_ok (check_ok (decide_eq_true hlt) _ _), distOf_single]
    rfl
  | two =>
    obtain ⟨a, b, m1, m2, q, ha, hb, hla, hlb, hab, hread, rfl, rfl, rfl⟩ := h
    have hq := natOfBits_take_lt (s.moved (m1 + m2)).bitsHere 12
    refine ⟨?_, hlas, by simp, by rw [sum_two hla hlb hab]; omega⟩
    have hc : (decide (a < 2 ^ las) && decide (b < 2 ^ las) && decide (a ≠ b)) = true := by simp [hla, hlb, hab]
    show histTwo las s = _
    rw [histTwo, Op.bind_ok (getParams_apply s), Op.bind_ok (parse_ok ha), Op.bind_ok (parse_ok hb),
      Op.bind_ok (check_ok hc _ _), moved_moved, Op.bind_ok (readBits_ok hread), moved_moved, distOf_two hab]
    rfl
  | flat =>
    obtain ⟨m, hm, h1, h2, rfl⟩ := h
    refine ⟨?_, hlas, by simp, sum_flatDist h1 h2⟩
    show histFlat las s = _
    rw [histFlat, Op.bind_ok (getParams_apply s), Op.bind_ok (parse_ok hm), Op.bind_ok (check_ok (by simp [h1, h2]) _ _)]
    rfl
  | complex =>
    obtain ⟨hd, hlen, hsum⟩ := h
    refine ⟨?_, hlas, hlen, hsum⟩
    show histComplex las s = _
    rw [histComplex, Op.bind_ok (getParams_apply s), parse_ok hd]

theorem storeHist_ok {las : Nat} {d : List Nat} (hd : histOk las d = true) (sc : ScopeId) (s : State) :
    storeHist sc las d s = .ok (s.scope sc).codes.length (histStored s sc las d none) := by
  rw [storeHist, Op.bind_ok (check_ok hd _ _)]
  rfl

theorem histThen_ok {β : Type} {las n : Nat} {k : HistKind} {d : List Nat} (hlas : las ≤ 12) (h : HistogramHere s las k d n)
    (sc : ScopeId) (f : List Nat → Nat → Op β) :
    histThen k sc las f s = f d (s.scope sc).codes.length (histStored (s.moved n) sc las d none) := by
  obtain ⟨hdec, hok⟩ := histDecode_ok hlas h
  rw [histThen, Op.bind_ok hdec, Op.bind_ok (storeHist_ok hok sc _), moved_scope]

/-! ### A scope's tables -/

@[simp] theorem scope_withScope (s : State) (sc : ScopeId) (t : ScopeTables) : (s.withScope sc t).scope sc = t := by
  rw [State.withScope, State.scope, State.setEnt_ent, assocGet_assocSet, if_pos rfl, Option.getD_some]

theorem assocSet_assocSet {κ β : Type} [DecidableEq κ] (l : List (κ × β)) (k : κ) (a b : β) :
    assocSet (assocSet l k a) k b = assocSet l k b := by
  induction l with
  | nil => simp [assocSet]
  | cons x rest ih =>
    obtain ⟨k', v⟩ := x
    by_cases hk : k' = k
    · simp [assocSet, hk]
    · simp [assocSet, hk, ih]

@[simp] theorem withScope_withScope (s : State) (sc : ScopeId) (t u : ScopeTables) :
    (s.withScope sc t).withScope sc u = s.withScope sc u := by
  simp [State.withScope, State.setEnt, assocSet_assocSet]

/-- ANS.ALIAS replaces the histogram by the one with its table (R198). -/
theorem compileAlias_ok {sc : ScopeId} {hist las : Nat} {c : Code} (hc : (s.scope sc).codes[hist]? = some c)
    (hok : histOk las c.dist = true) :
    compileAlias sc hist las s = .ok () (s.withScope sc { s.scope sc with
      codes := (s.scope sc).codes.set hist { las := las, dist := c.dist, table := some (aliasTable c.dist las) } }) := by
  rw [compileAlias, Op.bind_ok (getState_apply s), hc, Op.bind_ok (present_some _ _ s), Op.bind_ok (check_ok hok _ s)]
  rfl

theorem compileAlias_stored {las : Nat} {d : List Nat} (hok : histOk las d = true) (sc : ScopeId) (s : State) :
    compileAlias sc (s.scope sc).codes.length las (histStored s sc las d none) =
      .ok () (histStored s sc las d (some (aliasTable d las))) := by
  have hc : ((histStored s sc las d none).scope sc).codes[(s.scope sc).codes.length]? =
      some { las := las, dist := d, table := none } := by simp [histStored]
  rw [compileAlias_ok hc hok]
  simp [histStored]

/-- Settles O30: each encoding decodes to its table and is stored under the sum rule; ANS.HIST compiles what it stored. -/
theorem histogramOperations : Obligations.HistogramOperations := by
  refine ⟨?_, ?_, ?_⟩
  · intro s sc las k d n hlas h
    rw [exec_histOp, exec_commits (histThen_ok hlas h sc _)]
  · intro s sc las k d m n hlas hk h
    obtain ⟨-, hok⟩ := histDecode_ok hlas h
    have hcompile : ansHist sc las s =
        .ok d (histStored (s.moved (m + n)) sc las d (some (aliasTable d las))) := by
      rw [ansHist_eq, Op.bind_ok (getParams_apply s), Op.bind_ok (parse_ok hk), histThen_ok hlas h, moved_moved]
      have hcompiled := compileAlias_stored hok sc (s.moved (m + n))
      rw [moved_scope] at hcompiled ⊢
      exact Op.bind_ok hcompiled _
    rw [exec_ansHist, exec_commits (Op.bind_ok hcompile _)]
  · intro s sc las k h
    have hrej := parse_rejects ⟨k, h⟩ fun _ _ => asFormat_malformed
    have hdec : histDecode .complex las s = .error (.fatal .format) s := by
      show histComplex las s = _
      rw [histComplex, Op.bind_ok (getParams_apply s), hrej]
    exact (exec_histOp .complex sc las s).trans (exec_traps (histThen_of_error hdec sc _))

/-! ### The state -/

theorem ansInit_ok (sc : ScopeId) (h : s.canRead 32) :
    ansInit sc s = .ok (BitVec.ofNat 32 (natOfBits (s.bitsHere.take 32))) ((s.moved 32).withScope sc { s.scope sc with
      ansState := some (BitVec.ofNat 32 (natOfBits (s.bitsHere.take 32))) }) := by
  rw [ansInit, Op.bind_ok (readBits_ok h), Op.bind_ok (setScope_ok sc _ _), moved_scope]
  rfl

/-- Settles O32: the table is compiled where it stands, the state is the next 32 bits, and the final check compares it. -/
theorem ansTablesAndState : Obligations.AnsTablesAndState := by
  refine ⟨?_, ?_, ?_⟩
  · intro s sc hist las c hc hlas hlen hsum
    exact runUnit_ok (compileAlias_ok hc (histOk_iff.2 ⟨hlas, hlen, hsum⟩))
  · intro s sc h
    exact runUnit_ok (commitOrAbandon_ok (Op.bind_ok (ansInit_ok sc h) _))
  · intro s sc w hw
    have hfinal : ansFinal sc s = check (decide (w = Cfg.ansFinalState s.inp.params)) .checksum s := by
      rw [ansFinal, Op.bind_ok (getState_apply s), hw]
    by_cases hfin : w = Cfg.ansFinalState s.inp.params
    · rw [if_pos hfin]
      exact runUnit_ok (hfinal.trans (check_ok (decide_eq_true hfin) _ s))
    · rw [if_neg hfin]
      exact runUnit_fatal (hfinal.trans (check_trap (decide_eq_false hfin) _ s))

/-! ### Reading a symbol -/

/-- A symbol's read, up to the refill. -/
theorem ansRead_eq {sc : ScopeId} {ctx sym off : Nat} {c : Code} {a : AliasTable} {w : Word}
    (hc : (s.scope sc).codes[Cfg.contextToHistogram s.inp.params sc ctx]? = some c) (ha : c.table = some a)
    (hw : (s.scope sc).ansState = some w) (hl : aliasLookup a c.las (w.toNat % 4096) = (sym, off)) :
    ansRead sc ctx s = (do
      let x ← ansRefill (nth c.dist sym * (w.toNat / 4096) + off)
      setScope sc fun t => { t with ansState := some (BitVec.ofNat 32 x) }
      pure sym : Op Nat) s := by
  have hst : ansState sc s = .ok w s := by
    rw [ansState, Op.bind_ok (getState_apply s), hw]
    rfl
  rw [ansRead, Op.bind_ok (getState_apply s), hc, Op.bind_ok (present_some _ _ s), ha, Op.bind_ok (present_some _ _ s),
    Op.bind_ok hst]
  simp only [hl]
  rfl

theorem ansRefill_large {x : Nat} (hx : 2 ^ 16 ≤ x) (s : State) : ansRefill x s = .ok x s := by
  rw [ansRefill, if_neg (Nat.not_lt.2 hx)]
  rfl

theorem ansRefill_small {x : Nat} (hx : x < 2 ^ 16) (h : s.canRead 16) :
    ansRefill x s = .ok (x * 2 ^ 16 + natOfBits (s.bitsHere.take 16)) (s.moved 16) := by
  rw [ansRefill, if_pos hx, Op.bind_ok (readBits_ok h)]
  rfl

/-- Settles O34: the slot's symbol and offset give the new state, which is refilled exactly below 2^16. -/
theorem ansReadSymbol : Obligations.AnsReadSymbol := by
  rintro s sc ctx c a w sym off x hc ha hw hl rfl
  have heq := ansRead_eq hc ha hw hl
  refine ⟨fun hx => ?_, fun hx hread => ?_⟩
  · have hok := heq.trans (Op.bind_ok (ansRefill_large hx s) _)
    exact exec_commits (Op.bind_ok (hok.trans (Op.bind_ok (setScope_ok sc _ s) _)) _)
  · have hok := heq.trans (Op.bind_ok (ansRefill_small hx hread) _)
    rw [Op.bind_ok (setScope_ok sc _ _), moved_scope] at hok
    exact exec_commits (Op.bind_ok hok _)

/-! ### No update wraps (R206) -/

theorem nth_le_sum (d : List Nat) (i : Nat) : nth d i ≤ d.sum := by
  unfold nth
  cases h : d[i]? with
  | none => exact Nat.zero_le _
  | some v => exact List.single_le_sum (fun _ _ => Nat.zero_le _) _ (List.mem_of_getElem? h)

/-- A probability is at most 4096 and the state's upper part below 2^20, so the product and the offset stay below
`freq * 2^20`. -/
theorem ansUpdate_lt {freq off state : Nat} (hf : freq ≤ 4096) (ho : off < freq) (hs : state < 2 ^ 32) :
    ansUpdate freq off state < 2 ^ 32 := by
  have hq : state / 4096 + 1 ≤ 2 ^ 20 := by omega
  calc ansUpdate freq off state < freq * (state / 4096) + freq := Nat.add_lt_add_left ho _
    _ = freq * (state / 4096 + 1) := by ring
    _ ≤ 4096 * 2 ^ 20 := Nat.mul_le_mul hf hq
    _ = 2 ^ 32 := by norm_num

/-- Settles O35: the bound of a probability bounds the update, and a refill begins below 2^16. -/
theorem ansUpdateNeverWraps : Obligations.AnsUpdateNeverWraps := by
  intro d sym off state b hsum hoff hstate
  refine ⟨ansUpdate_lt (hsum ▸ nth_le_sum d sym) hoff hstate, fun hx hb => ?_⟩
  omega

end Sys2Proof.Machine

/-! The Huffman tables and their reading (42_huffman.md R221 to R228). -/

namespace Sys2Proof.Machine

variable {s : State}

/-! ### The checks as numbers -/

theorem distinct_iff (l : List Nat) : distinct l = true ↔ l.Nodup := by
  induction l with
  | nil => simp [distinct]
  | cons x rest ih => simp [distinct, ih]

theorem simpleOk_iff (a : Nat) (syms : List Nat) :
    (decide (1 ≤ syms.length) && decide (syms.length ≤ 4) && distinct syms && syms.all fun x => decide (x < a)) = true ↔
      1 ≤ syms.length ∧ syms.length ≤ 4 ∧ syms.Nodup ∧ ∀ x ∈ syms, x < a := by
  simp [distinct_iff, and_assoc]

/-- The space check of R225 as the sum it states. -/
theorem lengthsOk_iff (l : List Nat) : lengthsOk l = true ↔
    (∀ x ∈ l, x ≤ 15) ∧ (l.map fun x => if x = 0 then 0 else 2 ^ (15 - x)).sum = 2 ^ 15 := by
  simp only [lengthsOk, codeSpace, Bool.and_eq_true, List.all_eq_true, decide_eq_true_eq]
  refine and_congr_right fun _ => decide_eq_true_iff.trans (sub_eq_zero.trans ?_)
  exact ⟨fun h => by exact_mod_cast h.symm, fun h => by exact_mod_cast h.symm⟩

/-- Zeros after the lengths take no space. -/
theorem lengthsOk_padded (l : List Nat) (n : Nat) : lengthsOk (l ++ List.replicate n 0) = lengthsOk l := by
  rw [Bool.eq_iff_iff, lengthsOk_iff, lengthsOk_iff]
  simp [or_imp, forall_and, List.mem_replicate]

/-! ### The simple path -/

/-- The tables after HUFF.SIMPLE or HUFF.BUILD has appended one. -/
def tableStored (s : State) (sc : ScopeId) (t : HuffTable) : State :=
  s.withScope sc { s.scope sc with htabs := (s.scope sc).htabs ++ [t] }

theorem storeTable_ok (sc : ScopeId) (t : HuffTable) (s : State) : storeTable sc t s = .ok () (tableStored s sc t) := rfl

theorem huffSimple_parsed {sc : ScopeId} {a n : Nat} {syms : List Nat}
    (h : s.answers (Cfg.simpleSymbols s.inp.params a) syms n) (h1 : 1 ≤ syms.length) (h4 : syms.length ≤ 4)
    (hd : syms.Nodup) (ha : ∀ x ∈ syms, x < a) :
    huffSimple sc a s = (simpleSelector syms.length >>= fun sel =>
      storeTable sc (simpleTable (Cfg.huffTableBits s.inp.params) a syms sel)) (s.moved n) := by
  rw [huffSimple, Op.bind_ok (getParams_apply s), Op.bind_ok (parse_ok h),
    Op.bind_ok (check_ok ((simpleOk_iff a syms).2 ⟨h1, h4, hd, ha⟩) _ _)]

theorem huffSimple_rejects {sc : ScopeId} {a n : Nat} {syms : List Nat}
    (h : s.answers (Cfg.simpleSymbols s.inp.params a) syms n)
    (hbad : ¬ syms.Nodup ∨ (∃ x ∈ syms, a ≤ x) ∨ syms = [] ∨ 4 < syms.length) :
    huffSimple sc a s = .error (.fatal .format) (s.moved n) := by
  rw [huffSimple, Op.bind_ok (getParams_apply s), Op.bind_ok (parse_ok h), Op.check_bind_of_not]
  rw [simpleOk_iff]
  rintro ⟨h1, h4, hd, ha⟩
  rcases hbad with hn | ⟨x, hx, hge⟩ | rfl | hlong
  · exact hn hd
  · exact absurd (ha x hx) (Nat.not_lt.2 hge)
  · cases h1
  · omega

theorem simpleSelector_other {n : Nat} (hn : n ≠ 4) (s : State) : simpleSelector n s = .ok false s := by
  rw [simpleSelector, if_neg hn]
  rfl

theorem simpleSelector_four {sel : Bool} (h : s.canRead 1) (hsel : s.bitsHere.head? = some sel) :
    simpleSelector 4 s = .ok sel (s.moved 1) := by
  have hbit : decide (natOfBits (s.bitsHere.take 1) = 1) = sel := by
    obtain ⟨rest, hr⟩ := List.head?_eq_some_iff.1 hsel
    rw [hr]
    cases sel <;> rfl
  rw [simpleSelector, if_pos rfl, Op.bind_ok (readBits_ok h), hbit]
  rfl

/-- Inside a section a bit that is not there is an over-read (R166). -/
theorem needBits_overread {n : Nat} (hr : s.par.reader ≠ none) (h : ¬ n ≤ s.bitsHere.length) :
    needBits n s = .error (.fatal .format) s := by
  obtain ⟨r, hr⟩ := Option.ne_none_iff_exists'.1 hr
  rw [needBits, Op.bind_ok (getState_apply s), if_neg h, hr]
  rfl

theorem simpleSelector_overread (hr : s.par.reader ≠ none) (h : s.bitsHere = []) :
    simpleSelector 4 s = .error (.fatal .format) s := by
  have hread : readBits 1 s = .error (.fatal .format) s := Op.bind_error (needBits_overread hr (by simp [h])) _
  rw [simpleSelector, if_pos rfl, Op.bind_error hread]

theorem moved_reader_ne_none (h : s.par.reader ≠ none) (n : Nat) : (s.moved n).par.reader ≠ none := by
  obtain ⟨r, hr⟩ := Option.ne_none_iff_exists'.1 h
  simp [reader_moved hr]

/-! ### The general path -/

theorem huffLengths_parsed {a skip n : Nat} {l : List Nat} (h : s.answers (Cfg.codeLengths s.inp.params a skip) l n)
    (ha : l.length ≤ a) :
    huffLengths a skip s = (check (lengthsOk l) .format >>= fun _ => pure (l ++ List.replicate (a - l.length) 0)) (s.moved n) := by
  rw [huffLengths, Op.bind_ok (getParams_apply s), Op.bind_ok (parse_ok h), Op.bind_ok (check_ok (decide_eq_true ha) _ _)]
  simp only [lengthsOk_padded]

theorem huffLengths_rejects {a skip : Nat} {k : Kind}
    (h : firstAnswer (Cfg.codeLengths s.inp.params a skip) s.bitsHere = .malformed k) :
    huffLengths a skip s = .error (.fatal .format) s := by
  rw [huffLengths, Op.bind_ok (getParams_apply s), Op.bind_error (parse_rejects ⟨k, h⟩ fun _ _ => asFormat_malformed)]

/-- Settles O36: the simple path's symbols and the general path's lengths are checked before a table is made of them. -/
theorem huffmanTables : Obligations.HuffmanTables := by
  refine ⟨?_, ?_, ?_, ?_, ?_⟩
  · intro s sc a n syms h h1 h4 hd ha
    have heq := huffSimple_parsed (sc := sc) h h1 h4 hd ha
    refine ⟨fun hne => ?_, fun hfour hread sel hsel => ?_, fun hfour hr hend => ?_⟩
    · rw [Op.bind_ok (simpleSelector_other hne _), storeTable_ok, tableStored, moved_scope] at heq
      exact runUnit_ok (commitOrAbandon_ok heq)
    · rw [hfour, Op.bind_ok (simpleSelector_four hread hsel), storeTable_ok, tableStored, moved_scope, moved_scope] at heq
      exact runUnit_ok (commitOrAbandon_ok heq)
    · rw [hfour, Op.bind_error (simpleSelector_overread (moved_reader_ne_none hr n) hend)] at heq
      exact runUnit_fatal (commitOrAbandon_fatal heq)
  · intro s sc a n syms h hbad
    exact runUnit_fatal (commitOrAbandon_fatal (huffSimple_rejects h hbad))
  · intro s sc a skip n l h ha hl
    have heq := huffLengths_parsed h ha
    by_cases hsum : (l.map fun x => if x = 0 then 0 else 2 ^ (15 - x)).sum = 2 ^ 15
    · rw [if_pos hsum]
      rw [Op.bind_ok (check_ok ((lengthsOk_iff l).2 ⟨hl, hsum⟩) _ _)] at heq
      exact exec_commits (Op.bind_ok heq _)
    · rw [if_neg hsum]
      rw [Op.check_bind_of_not (fun hok => hsum ((lengthsOk_iff l).1 hok).2)] at heq
      exact exec_traps (Op.bind_error heq _)
  · intro s sc a skip k h
    exact exec_traps (Op.bind_error (huffLengths_rejects h) _)
  · intro s sc l hl
    have heq : huffBuild sc l s = (check (lengthsOk l) .format >>= fun _ =>
        storeTable sc (buildTable (Cfg.huffTableBits s.inp.params) l)) s := by
      rw [huffBuild, Op.bind_ok (getParams_apply s)]
    by_cases hsum : (l.map fun x => if x = 0 then 0 else 2 ^ (15 - x)).sum = 2 ^ 15
    · rw [if_pos hsum]
      rw [Op.bind_ok (check_ok ((lengthsOk_iff l).2 ⟨hl, hsum⟩) _ _)] at heq
      exact runUnit_ok heq
    · rw [if_neg hsum]
      rw [Op.check_bind_of_not (fun hok => hsum ((lengthsOk_iff l).1 hok).2)] at heq
      exact runUnit_fatal heq

/-! ### Reading a symbol, in a section or outside one -/

theorem peekBits_ok {n : Nat} (h : s.par.reader = none → n ≤ s.bitsHere.length) :
    peekBits n s = .ok (natOfBits (s.bitsHere.take n)) s := by
  cases hr : s.par.reader with
  | some r => rw [peekBits_section hr, natOfBits_take]
  | none =>
    rw [peekBits, Op.bind_ok (getState_apply s), hr]
    exact (Op.bind_ok (needBits_ok (h hr)) _).trans rfl

theorem moved_reader_none {n : Nat} (h : (s.moved n).par.reader = none) : s.par.reader = none := by
  by_contra hne
  exact moved_reader_ne_none hne n h

section

variable {t : HuffTable} {e : HuffEntry} (hpeek : s.par.reader = none → t.tableBits ≤ s.bitsHere.length)
  (he : t.root[natOfBits (s.bitsHere.take t.tableBits)]? = some e)

include hpeek he

theorem huffReadTable_short (hle : e.bits ≤ t.tableBits) (hread : s.canRead e.bits) :
    huffReadTable t s = .ok e.value (s.moved e.bits) := by
  rw [huffReadTable, Op.bind_ok (peekBits_ok hpeek), he, Op.bind_ok (present_some _ _ s), if_neg (Nat.not_lt.2 hle),
    Op.bind_ok (consume_ok hread)]
  rfl

theorem huffReadTable_long {sub : List HuffEntry} {e2 : HuffEntry} (hlt : t.tableBits < e.bits)
    (hread : s.canRead t.tableBits)
    (hpeek2 : s.par.reader = none → e.bits - t.tableBits ≤ (s.moved t.tableBits).bitsHere.length)
    (hsub : t.subs[e.value]? = some sub)
    (he2 : sub[natOfBits ((s.moved t.tableBits).bitsHere.take (e.bits - t.tableBits))]? = some e2)
    (hread2 : (s.moved t.tableBits).canRead e2.bits) :
    huffReadTable t s = .ok e2.value (s.moved (t.tableBits + e2.bits)) := by
  rw [huffReadTable, Op.bind_ok (peekBits_ok hpeek), he, Op.bind_ok (present_some _ _ s), if_pos hlt,
    Op.bind_ok (consume_ok hread), Op.bind_ok (peekBits_ok fun h => hpeek2 (moved_reader_none h)), hsub,
    Op.bind_ok (present_some _ _ _), he2, Op.bind_ok (present_some _ _ _), Op.bind_ok (consume_ok hread2), moved_moved]
  rfl

end

theorem exec_huffRead {sc : ScopeId} {ctx v : Nat} {t : HuffTable} {u : State}
    (ht : (s.scope sc).htabs[Cfg.contextToHistogram s.inp.params sc ctx]? = some t) (h : huffReadTable t s = .ok v u) :
    exec (.huffRead sc ctx) s = .next (u.setRet (.nat v)) := by
  have hread : huffRead sc ctx s = .ok v u := by
    rw [huffRead, Op.bind_ok (getState_apply s), ht, Op.bind_ok (present_some _ _ s), h]
  exact exec_commits (Op.bind_ok hread _)

/-- Settles O37: one root lookup, or the root's bits and one second-level lookup. -/
theorem huffmanRead : Obligations.HuffmanRead := by
  intro s sc ctx t e ht hpeek he
  refine ⟨fun hle hread => exec_huffRead ht (huffReadTable_short hpeek he hle hread), ?_⟩
  intro sub e2 hlt hread hpeek2 hsub he2 hread2
  exact exec_huffRead ht (huffReadTable_long hpeek he hlt hread hpeek2 hsub he2 hread2)

end Sys2Proof.Machine

/-! Reading a value of a scope changes little (20_memory.md R79). -/

namespace Sys2Proof.Machine

/-- `t` is `s` but for what reading from a scope touches: the position, STAGE, the scope's tables, HOST's cursors, the
draws. -/
structure SameButReading (sc : ScopeId) (s t : State) : Prop where
  ctl : t.ctl = { s.ctl with bitpos := t.ctl.bitpos }
  par : t.par = { s.par with reader := t.par.reader, stage := t.par.stage }
  grp : t.grp = s.grp
  mod : t.mod = s.mod
  img : t.img = s.img
  rnd : t.rnd = s.rnd
  ret : t.ret = s.ret
  host : t.host = { s.host with sources := t.host.sources }
  params : t.inp.params = s.inp.params
  scopes : ∀ sc', sc' ≠ sc → assocGet t.ent sc' = assocGet s.ent sc'

theorem sameButReading_refl (sc : ScopeId) (s : State) : SameButReading sc s s :=
  ⟨rfl, rfl, rfl, rfl, rfl, rfl, rfl, rfl, rfl, fun _ _ => rfl⟩

theorem SameButReading.kept (sc : ScopeId) (s : State) : KeptByReading sc (SameButReading sc s) where
  bitpos t n h := { h with ctl := by rw [State.setCtl_ctl, h.ctl] }
  stage t g h := { h with par := by rw [State.setPar_par, h.par] }
  reader t r h := { h with par := by rw [State.setPar_par, h.par] }
  source t f h := { h with host := by rw [State.setSource, State.setHost_host, h.host] }
  drawn t h := { h with }
  tables t e h := { h with
    scopes := fun sc' hne => by rw [State.setEnt_ent, assocGet_assocSet, if_neg hne, h.scopes sc' hne] }

/-- Settles O39: the frame of reading is kept by each part of it. -/
theorem readingAValueKeepsTheRest : Obligations.ReadingAValueKeepsTheRest := by
  intro s t sc ctx v h
  have ht := ((SameButReading.kept sc s).readValue ctx).of_ok (sameButReading_refl sc s) h
  refine ⟨?_, ht.params, ht.scopes⟩
  rw [← ht.ctl, ← ht.par, ← ht.host, ← ht.grp, ← ht.mod, ← ht.img, ← ht.rnd, ← ht.ret]

end Sys2Proof.Machine

/-! Tiles of samples in image buffers (47_image_buffer.md R393 to R396): what a written tile leaves as it was. -/

namespace Sys2Proof.Machine

open Sys2Proof.Claims

variable {s : State} {h w x0 y0 k : Nat} {vs : List Sample}

/-! ### A written tile changes the buffers only -/

theorem putSample_eq (s : State) (h x y : Nat) (v : Sample) :
    s.putSample h x y v = s.setImg fun _ => (s.putSample h x y v).img := by
  unfold State.putSample
  split
  · rfl
  · split <;> rfl

theorem putTile_eq (s : State) (h w x0 y0 k : Nat) (vs : List Sample) :
    s.putTile h w x0 y0 k vs = s.setImg fun _ => (s.putTile h w x0 y0 k vs).img := by
  induction vs generalizing s k with
  | nil => rfl
  | cons v rest ih => rw [State.putTile, ih, putSample_eq]; rfl

@[simp] theorem putTile_ctl : (s.putTile h w x0 y0 k vs).ctl = s.ctl := by rw [putTile_eq]; rfl
@[simp] theorem putTile_par : (s.putTile h w x0 y0 k vs).par = s.par := by rw [putTile_eq]; rfl
@[simp] theorem putTile_grp : (s.putTile h w x0 y0 k vs).grp = s.grp := by rw [putTile_eq]; rfl
@[simp] theorem putTile_mod : (s.putTile h w x0 y0 k vs).mod = s.mod := by rw [putTile_eq]; rfl
@[simp] theorem putTile_rnd : (s.putTile h w x0 y0 k vs).rnd = s.rnd := by rw [putTile_eq]; rfl
@[simp] theorem putTile_inp : (s.putTile h w x0 y0 k vs).inp = s.inp := by rw [putTile_eq]; rfl

@[simp] theorem putTile_cell (h' x' y' : Nat) (mode : Access) :
    (s.putTile h w x0 y0 k vs).cell h' x' y' mode = s.cell h' x' y' mode := by
  induction vs generalizing s k with
  | nil => rfl
  | cons v rest ih => rw [State.putTile, ih, putSample_cell]

@[simp] theorem putTile_canWrite (ty : SampleType) (h' x' y' : Nat) :
    (s.putTile h w x0 y0 k vs).canWrite ty h' x' y' = s.canWrite ty h' x' y' := by
  induction vs generalizing s k with
  | nil => rfl
  | cons v rest ih => rw [State.putTile, ih, putSample_canWrite]

/-! ### Owned buffers -/

theorem root_of_cell {x y : Nat} {mode : Access} {c : Nat × Nat} (ho : Owned s h) (hc : s.cell h x y mode = some c) : c.1 = h := by
  obtain ⟨b, hb, hown⟩ := ho
  unfold State.cell at hc
  rw [hb] at hc
  dsimp only at hc
  repeat' split at hc
  all_goals cases hc
  rw [rootOf_owned hown]

theorem owned_putSample {x y : Nat} {v : Sample} {h' : Nat} (ho : Owned s h') : Owned (s.putSample h x y v) h' := by
  obtain ⟨b, hb, hown⟩ := ho
  have hshape := putSample_shape s h x y v h'
  rw [hb] at hshape
  cases hb' : assocGet (s.putSample h x y v).img.bufs h' with
  | none => rw [hb'] at hshape; cases hshape
  | some b' =>
    rw [hb'] at hshape
    simp only [Option.map_some, Option.some.injEq, Prod.mk.injEq] at hshape
    obtain ⟨-, -, -, -, ho'⟩ := hshape
    exact ⟨b', hb', ho'.trans hown⟩

theorem owned_putTile {h' : Nat} (ho : Owned s h') : Owned (s.putTile h w x0 y0 k vs) h' := by
  induction vs generalizing s k with
  | nil => exact ho
  | cons v rest ih => exact ih (owned_putSample ho)

/-- A sample written into an owned buffer is seen in no other owned buffer. -/
theorem sample_putSample_owned {x y : Nat} {v : Sample} {h' : Nat} (ho : Owned s h) (ho' : Owned s h') (hne : h' ≠ h) (x' y' : Nat) :
    (s.putSample h x y v).sample h' x' y' = s.sample h' x' y' := by
  unfold State.sample
  rw [putSample_cell]
  cases hc' : s.cell h' x' y' .read with
  | none => rfl
  | some c' =>
    have hroot' := root_of_cell ho' hc'
    unfold State.putSample
    cases hc : s.cell h x y .write with
    | none => rfl
    | some c =>
      have hroot := root_of_cell ho hc
      dsimp only
      cases hb : assocGet s.img.bufs c.1 with
      | none => rfl
      | some b => simp only [State.sampleIn, State.setImg_img, assocGet_assocSet, hroot', hroot, if_neg hne]

theorem sample_putTile_owned {h' : Nat} (ho : Owned s h) (ho' : Owned s h') (hne : h' ≠ h) (x' y' : Nat) :
    (s.putTile h w x0 y0 k vs).sample h' x' y' = s.sample h' x' y' := by
  induction vs generalizing s k with
  | nil => rfl
  | cons v rest ih =>
    rw [State.putTile, ih (owned_putSample ho) (owned_putSample ho'), sample_putSample_owned ho ho' hne]

theorem tile_congr {t : State} (hs : ∀ x y, t.sample h x y = s.sample h x y) (w ht x0 y0 : Nat) :
    t.tile h w ht x0 y0 = s.tile h w ht x0 y0 := by
  unfold State.tile
  simp only [hs]

theorem intAt_congr {t : State} {x y : Nat} (hs : t.sample h x y = s.sample h x y) : t.intAt h x y = s.intAt h x y := by
  rw [intAt_eq_bind, intAt_eq_bind, hs]

/-! ### Writing and looking at samples -/

theorem isWritten_cell {x y : Nat} {c : Nat × Nat} (hc : s.cell h x y .read = some c) :
    isWritten h x y s = .ok (s.sample h x y).isSome s := by
  obtain ⟨r, hr, hl⟩ := locate_ok hc
  rw [isWritten, Op.bind_ok hl, State.sample, hc]
  simp only [State.sampleIn, hr]
  rfl

theorem isWritten_ok {x y : Nat} {v : Sample} (hv : s.sample h x y = some v) : isWritten h x y s = .ok true s := by
  have hc : ∃ c, s.cell h x y .read = some c := by
    unfold State.sample at hv
    cases hc : s.cell h x y .read with
    | none => rw [hc] at hv; cases hv
    | some c => exact ⟨c, rfl⟩
  obtain ⟨c, hc⟩ := hc
  rw [isWritten_cell hc, hv]
  rfl

/-- A tile of samples of the buffer's type is written where the rectangle may be written. -/
theorem writeTile_holds {ty : SampleType} {ht : Nat} (hr : s.holds ty h x0 y0 w ht) (ht' : ∀ v ∈ vs, v.type = ty)
    (hlen : vs.length ≤ w * ht) : writeTile h w x0 y0 vs s = .ok () (s.putTile h w x0 y0 0 vs) := by
  refine writeTile_ok vs ht' fun j hj => ?_
  have hj' : j < w * ht := Nat.lt_of_lt_of_le hj hlen
  have hw : 0 < w := Nat.pos_of_mul_pos_right (Nat.zero_lt_of_lt hj')
  exact hr _ _ (Nat.mod_lt _ hw) (Nat.div_lt_of_lt_mul hj')

theorem type_of_mem_map_flt {l : List F32} {v : Sample} (h : v ∈ l.map Sample.flt) : v.type = .float := by
  obtain ⟨f, -, rfl⟩ := List.mem_map.1 h
  rfl

theorem type_of_mem_map_int {l : List Int} {v : Sample} (h : v ∈ l.map Sample.int) : v.type = .int := by
  obtain ⟨f, -, rfl⟩ := List.mem_map.1 h
  rfl

theorem allSome_length {α : Type} {l : List (Option α)} {as : List α} (h : allSome l = some as) : as.length = l.length := by
  induction l generalizing as with
  | nil => cases h; rfl
  | cons x rest ih =>
    cases x with
    | none => cases h
    | some a =>
      cases hr : allSome rest with
      | none => simp only [allSome, hr] at h; cases h
      | some bs => simp only [allSome, hr, Option.some.injEq] at h; subst h; simp [ih hr]

theorem collect_asInt_ok (l : List Int) (s : State) : collect (l.map Sample.int) asInt s = .ok l s := by
  refine collect_ok (g := Sample.int?) _ (fun _ _ _ hv => asInt_ok hv) ?_
  rw [List.map_map]
  simpa using allSome_map_some (f := Sample.int? ∘ Sample.int) (g := id) (l := l) fun _ _ => rfl

end Sys2Proof.Machine

/-! The transforms (45_transforms.md): the sizes of their tiles, their views, the DC laws. -/

namespace Sys2Proof.Machine

open Sys2Proof.Claims

variable {s : State}

/-! ### The layout -/

theorem perm_range_of_isPermutation {l : List Nat} {m : Nat} (h : isPermutation l m = true) : l.Perm (List.range m) := by
  simp only [isPermutation, Bool.and_eq_true, beq_iff_eq, List.all_eq_true, List.contains_iff_mem] at h
  obtain ⟨hlen, hall⟩ := h
  exact ((List.nodup_range.subperm hall).perm_of_length_le (by simp [hlen])).symm

theorem coeffLayout_perm (p : Params) (kind : XKind) (h w : Nat) : (Cfg.coeffLayout p kind h w).Perm (List.range (h * w)) := by
  unfold Cfg.coeffLayout
  dsimp only
  split
  · next hperm => exact perm_range_of_isPermutation hperm
  · exact List.Perm.refl _

/-- The usual layout of a thin block is the transposition, which meets every place. -/
theorem usual_coeffLayout_perm (kind : XKind) (h w : Nat) : isPermutation (Usual.coeffLayout (kind, h, w)) (h * w) = true := by
  simp only [isPermutation, Bool.and_eq_true, beq_iff_eq, List.all_eq_true, List.contains_iff_mem]
  refine ⟨by simp [Usual.coeffLayout], fun k hk => ?_⟩
  rw [List.mem_range] at hk
  rw [Usual.coeffLayout, List.mem_map]
  by_cases hw : w < h
  · have hh : 0 < h := Nat.zero_lt_of_lt hw
    have hu : k / h < w := Nat.div_lt_of_lt_mul hk
    refine ⟨k % h * w + k / h, List.mem_range.2 ?_, ?_⟩
    · calc k % h * w + k / h < (k % h + 1) * w := by rw [Nat.succ_mul]; omega
        _ ≤ h * w := Nat.mul_le_mul_right _ (Nat.mod_lt _ hh)
    · dsimp only
      rw [if_pos hw, Nat.mul_add_mod_of_lt hu, Nat.mul_comm (k % h), Nat.mul_add_div (Nat.zero_lt_of_lt hu),
        Nat.div_eq_of_lt hu, Nat.add_zero, Nat.mul_comm, Nat.div_add_mod]
  · exact ⟨k, List.mem_range.2 hk, if_neg hw⟩

theorem coeffLayout_usual {p : Params} (hp : p.coeffLayout = .usual) {kind : XKind} {h w u v : Nat} (hu : u < w) (hv : v < h) :
    (Cfg.coeffLayout p kind h w)[v * w + u]? = some (if w < h then u * h + v else v * w + u) := by
  have hlt : v * w + u < h * w := by
    calc v * w + u < (v + 1) * w := by rw [Nat.succ_mul]; omega
      _ ≤ h * w := Nat.mul_le_mul_right _ hv
  have hw : 0 < w := Nat.zero_lt_of_lt hu
  have hl : Cfg.coeffLayout p kind h w = Usual.coeffLayout (kind, h, w) := by
    simp only [Cfg.coeffLayout, hp, Fn.get, usual_coeffLayout_perm, if_true]
  rw [hl, Usual.coeffLayout, List.getElem?_map, List.getElem?_range hlt, Option.map_some, Nat.mul_add_mod_of_lt hu,
    Nat.mul_comm v w, Nat.mul_add_div hw, Nat.div_eq_of_lt hu, Nat.add_zero]

/-! ### The sizes of tiles -/

@[simp] theorem length_tile8 (f : Nat → Nat → F32) : (tile8 f).length = 64 := by simp [tile8]

theorem length_idct2d (h w : Nat) (l : List F32) : (idct2d h w l).length = h * w := by
  simp [idct2d, transpose, List.length_flatMap]

theorem length_dcLaw {n : Nat} {l f : List F32} (hf : f.length = n) : (dcLaw n l f).length = n := by
  unfold dcLaw
  split
  · exact List.length_replicate
  · exact hf

theorem length_quadLaw {l f : List F32} (hf : f.length = 64) : (quadLaw l f).length = 64 := by
  unfold quadLaw
  split
  · exact length_tile8 _
  · exact hf

theorem length_leftRightLaw {l f : List F32} (hf : f.length = 64) : (leftRightLaw l f).length = 64 := by
  unfold leftRightLaw
  split
  · exact length_tile8 _
  · exact hf

theorem length_topBottomLaw {l f : List F32} (hf : f.length = 64) : (topBottomLaw l f).length = 64 := by
  unfold topBottomLaw
  split
  · exact length_tile8 _
  · exact hf

theorem length_afvLaw {k : AfvConstants} {cx cy : Nat} {l f : List F32} (hf : f.length = 64) : (afvLaw k cx cy l f).length = 64 := by
  unfold afvLaw
  split
  · exact length_tile8 _
  · exact hf

/-- An entry that is no DCT of its own size is 8×8. -/
theorem size_of_ok {x : XType} (h : x.ok = true) : x.kind = .idct ∨ x.h * x.w = 64 := by
  unfold XType.ok at h
  split at h
  · exact .inl ‹_›
  all_goals
    simp only [Bool.and_eq_true, decide_eq_true_eq] at h
    right
  · obtain ⟨⟨-, hh⟩, hw⟩ := h
    rw [hh, hw]
  all_goals
    obtain ⟨hh, hw⟩ := h
    rw [hh, hw]

/-! The tile functions that end in an 8×8 raster. -/

theorem length_identityParts (n : Nat) (l : List F32) : (identityParts n l).length = 64 := by
  unfold identityParts
  exact length_tile8 _

theorem length_dct2x2Rounds (l : List F32) : (dct2x2Rounds l).length = 64 := by
  unfold dct2x2Rounds
  rw [dct2x2Round, length_tile8]

theorem length_dct4x4Parts (l : List F32) : (dct4x4Parts l).length = 64 := by
  unfold dct4x4Parts
  exact length_tile8 _

theorem length_dct8x4Parts (l : List F32) : (dct8x4Parts l).length = 64 := by
  unfold dct8x4Parts
  exact length_tile8 _

theorem length_dct4x8Parts (l : List F32) : (dct4x8Parts l).length = 64 := by
  unfold dct4x8Parts
  exact length_tile8 _

theorem length_afvParts (k : AfvConstants) (cx cy : Nat) (l : List F32) : (afvParts k cx cy l).length = 64 := by
  unfold afvParts
  exact length_tile8 _

/-- A tile has as many samples as its shape. -/
theorem length_tileByFrequency {x : XType} (hx : x.kind = .idct ∨ x.h * x.w = 64) (p : Params) (l : List F32) :
    (tileByFrequency p x l).length = x.h * x.w := by
  unfold tileByFrequency
  cases hk : x.kind with
  | idct => exact length_dcLaw (length_idct2d _ _ _)
  | afv k => rw [hx.resolve_left (by simp [hk])]; exact length_dcLaw (length_afvLaw (length_afvParts _ _ _ _))
  | identity => rw [hx.resolve_left (by simp [hk])]; exact length_dcLaw (length_quadLaw (length_identityParts _ _))
  | dct2x2 => rw [hx.resolve_left (by simp [hk])]; exact length_dcLaw (length_quadLaw (length_dct2x2Rounds _))
  | dct4x4 => rw [hx.resolve_left (by simp [hk])]; exact length_dcLaw (length_quadLaw (length_dct4x4Parts _))
  | dct8x4 => rw [hx.resolve_left (by simp [hk])]; exact length_dcLaw (length_leftRightLaw (length_dct8x4Parts _))
  | dct4x8 => rw [hx.resolve_left (by simp [hk])]; exact length_dcLaw (length_topBottomLaw (length_dct4x8Parts _))

theorem length_tileOf {x : XType} (hx : x.kind = .idct ∨ x.h * x.w = 64) (p : Params) (l : List F32) :
    (tileOf p x l).length = x.h * x.w :=
  length_tileByFrequency hx p _

theorem ok_of_xtype {p : Params} {t : Nat} {x : XType} (h : xtype p t = some x) : x.ok = true := by
  unfold xtype at h
  split at h
  · next hx =>
    split at h
    · cases h; assumption
    · cases h
  · cases h

/-! ### A transform between views -/

section

variable {x : XType} {coeff out : Nat}

theorem isTile_iff (b : Buffer) (h w : Nat) : b.isTile h w = true ↔ b.width = w ∧ b.height = h ∧ b.ty = .float := by
  simp [Buffer.isTile, and_assoc]

theorem transformViews_ok (hx : x.kind = .idct ∨ x.h * x.w = 64) {l : List F32} (hv : Views s coeff out x.h x.w l) :
    transformViews x coeff out s = .ok () (s.putTile out x.w 0 0 0 ((tileOf s.inp.params x l).map Sample.flt)) := by
  obtain ⟨⟨a, ha, hac⟩, ⟨b, hb, hbc⟩, hvals, hroom⟩ := hv
  obtain ⟨haw, hah, hat⟩ := hac
  obtain ⟨hbw, hbh, hbt⟩ := hbc
  have hshape : (a.isTile x.h x.w && b.isTile x.h x.w) = true := by
    rw [Bool.and_eq_true, isTile_iff, isTile_iff]
    exact ⟨⟨haw, hah, hat⟩, hbw, hbh, hbt⟩
  have hread : readAll coeff s = .ok (l.map Sample.flt) s := readAll_ok ha (by rw [haw, hah]; exact hvals)
  have hwrite : writeAll out ((tileOf s.inp.params x l).map Sample.flt) s =
      .ok () (s.putTile out b.width 0 0 0 ((tileOf s.inp.params x l).map Sample.flt)) := by
    refine writeAll_ok (ty := .float) _ hb (fun v hv => type_of_mem_map_flt hv) fun j hj => ?_
    rw [List.length_map, length_tileOf hx] at hj
    have hw : 0 < x.w := Nat.pos_of_mul_pos_left (Nat.zero_lt_of_lt hj)
    have := hroom (j % x.w) (j / x.w) (Nat.mod_lt _ hw) (Nat.div_lt_of_lt_mul (by rwa [Nat.mul_comm]))
    simpa only [hbw, Nat.zero_add] using this
  rw [transformViews, Op.bind_ok (getBuf_ok ha), Op.bind_ok (getBuf_ok hb), Op.bind_ok (check_ok hshape _ s),
    Op.bind_ok hread, Op.bind_ok (collect_asFloat_ok (floats_map_flt l)), Op.bind_ok (getParams_apply s), hwrite, hbw]

/-- Views of another shape or sample type are rejected. -/
theorem transformViews_trap {a b : Buffer} (ha : assocGet s.img.bufs coeff = some a) (hb : assocGet s.img.bufs out = some b)
    (hbad : ¬ (a.width = x.w ∧ a.height = x.h ∧ a.ty = .float ∧ b.width = x.w ∧ b.height = x.h ∧ b.ty = .float)) :
    transformViews x coeff out s = .error (.fatal .transform) s := by
  rw [transformViews, Op.bind_ok (getBuf_ok ha), Op.bind_ok (getBuf_ok hb), Op.check_bind_of_not]
  rw [Bool.and_eq_true, isTile_iff, isTile_iff]
  rintro ⟨⟨h1, h2, h3⟩, h4, h5, h6⟩
  exact hbad ⟨h1, h2, h3, h4, h5, h6⟩

end

theorem exec_xIdct {h w coeff out : Nat} (hpair : isIdctPair h w = true) (s : State) :
    exec (.xIdct h w coeff out) s = runUnit (transformViews { kind := .idct, h := h, w := w } coeff out) s := by
  show runUnit (check (isIdctPair h w) .transform >>= fun _ => _) s = _
  rw [hpair]
  rfl

/-- Settles O53: each transform writes its tile over the sample view; the layout is a permutation of the places. -/
theorem transformTiles : Obligations.TransformTiles := by
  refine ⟨fun s coeff out l => ⟨?_, ?_⟩, fun p kind h w => ⟨coeffLayout_perm p kind h w, ?_⟩⟩
  · intro h w hpair hv
    rw [exec_xIdct hpair]
    exact runUnit_ok (transformViews_ok (x := { kind := .idct, h := h, w := w }) (.inl rfl) hv)
  · intro hv
    have hsmall : ∀ kind, runUnit (transformViews { kind := kind, h := 8, w := 8 } coeff out) s =
        .next (tiled s out 8 (tileOf s.inp.params { kind := kind, h := 8, w := 8 } l)) := fun kind =>
      runUnit_ok (transformViews_ok (x := { kind := kind, h := 8, w := 8 }) (.inr rfl) hv)
    exact ⟨fun k => hsmall (.afv k), hsmall .identity, hsmall .dct2x2, hsmall .dct4x4, hsmall .dct8x4, hsmall .dct4x8⟩
  · exact fun hp u v hu hv => coeffLayout_usual hp hu hv

/-! ### What does not exist -/

theorem catalogued_none {t : Nat} (h : xtype s.inp.params t = none) : catalogued t s = .error (.fatal .transform) s := by
  rw [catalogued, Op.bind_ok (getParams_apply s), h]
  rfl

theorem mem_usualCatalog_lt : ∀ e ∈ usualCatalog, e.1 < 27 := by decide

/-- The suggested catalog has the ids below 27. -/
theorem xtype_usualCatalog {p : Params} (hp : p.catalog = some usualCatalog) (t : Nat) :
    (xtype p t).isSome = true ↔ t < 27 := by
  rw [xtype, hp, Option.getD_some]
  constructor
  · intro h
    cases hx : assocGet usualCatalog t with
    | none => rw [hx] at h; cases h
    | some x => exact mem_usualCatalog_lt _ (mem_of_assocGet hx)
  · intro h
    interval_cases t <;> rfl

/-- Settles O54: the catalog, the sizes and the shapes are looked up before anything else is done. -/
theorem transformErrors : Obligations.TransformErrors := by
  refine ⟨?_, fun p t hp => xtype_usualCatalog hp t, ?_, ?_, ?_⟩
  · intro s t ht
    have hcat := catalogued_none ht
    refine ⟨fun c pred => ?_, fun c nz p => ?_, fun bx byy => ?_, fun bx byy => ?_⟩
    · exact exec_traps (Op.bind_error (Op.bind_error hcat _) _)
    · exact runUnit_fatal (commitOrAbandon_fatal (Op.bind_error hcat _))
    · exact runUnit_fatal (Op.bind_error hcat _)
    · exact runUnit_fatal (Op.bind_error (Op.bind_error hcat _) _)
  · exact fun h w => List.contains_iff_mem
  · intro s h w coeff out hpair
    refine runUnit_fatal (Op.check_bind_of_not ?_ _ _ s)
    rw [hpair]
    exact Bool.false_ne_true
  · intro s coeff out h w a b ha hb hbad
    refine ⟨?_, ?_⟩
    · cases hpair : isIdctPair h w with
      | false =>
        refine runUnit_fatal (Op.check_bind_of_not ?_ _ _ s)
        rw [hpair]
        exact Bool.false_ne_true
      | true =>
        rw [exec_xIdct hpair]
        exact runUnit_fatal (transformViews_trap (x := { kind := .idct, h := h, w := w }) ha hb hbad)
    · rintro rfl rfl
      have hsmall : ∀ kind, runUnit (transformViews { kind := kind, h := 8, w := 8 } coeff out) s =
          .next (trapEntry .transform s) := fun kind =>
        runUnit_fatal (transformViews_trap (x := { kind := kind, h := 8, w := 8 }) ha hb hbad)
      exact ⟨fun k => hsmall (.afv k), hsmall .identity, hsmall .dct2x2, hsmall .dct4x4, hsmall .dct8x4, hsmall .dct4x8⟩

/-! ### The DC laws -/

theorem zeroBut_replicate {keep : List Nat} {i n : Nat} : zeroBut keep i (List.replicate n 0#32) = true := by
  induction n generalizing i with
  | zero => rfl
  | succ n ih => simp [List.replicate_succ, zeroBut, ih]

/-- A block with its first coefficient alone gives the constant tile, whatever the transform. -/
theorem dcLaw_first (n m : Nat) (d : F32) (f : List F32) : dcLaw n (d :: List.replicate m 0) f = List.replicate n d := by
  have h : zeroBut [0] 0 (d :: List.replicate m 0) = true := by simp [zeroBut, zeroBut_replicate]
  rw [dcLaw, if_pos h]
  rfl

theorem tile8_congr {f g : Nat → Nat → F32} (h : ∀ y x, f y x = g y x) : tile8 f = tile8 g := by
  rw [show f = g from funext fun y => funext fun x => h y x]

/-- Beyond its four coefficients a corner is zero. -/
theorem zeroBut_corner_quad (a b c d : F32) : zeroBut [0, 1, 8, 9] 0 (corner a b c d) = true := by
  simp [corner, tile8, zeroBut, List.range, List.range.loop]

theorem zeroBut_corner_first (a b c d : F32) :
    zeroBut [0] 0 (corner a b c d) = (isZero b && isZero c && isZero d) := by
  simp [corner, tile8, zeroBut, List.range, List.range.loop, isZero, Bool.and_assoc]

theorem zeroBut_corner_left (a b : F32) : zeroBut [0, 1] 0 (corner a b 0 0) = true := by
  simp [corner, tile8, zeroBut, List.range, List.range.loop]

theorem zeroBut_corner_top (a b : F32) : zeroBut [0, 8] 0 (corner a 0 b 0) = true := by
  simp [corner, tile8, zeroBut, List.range, List.range.loop]

theorem zeroBut_corner_afv (a b c : F32) : zeroBut [0, 1, 8] 0 (corner a b c 0) = true := by
  simp [corner, tile8, zeroBut, List.range, List.range.loop]

theorem means_corner (a b c d : F32) : means (corner a b c d) = butterfly a b c d := rfl

/-- A corner that is more than its first coefficient gives each quarter its mean. -/
theorem dcLaw_quadLaw_corner {a b c d : F32} (h : ¬ ((isZero b && isZero c && isZero d) = true)) (f : List F32) :
    dcLaw 64 (corner a b c d) (quadLaw (corner a b c d) f) = tile8 fun y x =>
      if y < 4 then
        if x < 4 then F32.add (F32.add a b) (F32.add c d) else F32.sub (F32.add a b) (F32.add c d)
      else
        if x < 4 then F32.add (F32.sub a b) (F32.sub c d) else F32.sub (F32.sub a b) (F32.sub c d) := by
  rw [dcLaw, if_neg (by rwa [zeroBut_corner_first]), quadLaw, if_pos (zeroBut_corner_quad a b c d), means_corner]
  refine tile8_congr fun y x => ?_
  have hdiv : ∀ n, n / 4 = 0 ↔ n < 4 := fun n => by omega
  simp only [quad, hdiv, butterfly]

/-- Settles O55: the law of the first coefficient comes before every transform, the laws of the sub-blocks next. -/
theorem dcLaws : Obligations.DcLaws := by
  refine ⟨fun h w d => dcLaw_first _ _ d _, fun p d k => ⟨?_, ?_, ?_, ?_, ?_, ?_⟩, ?_, ?_, ?_⟩
  · exact dcLaw_first 64 63 d _
  · exact dcLaw_first 64 63 d _
  · exact dcLaw_first 64 63 d _
  · exact dcLaw_first 64 63 d _
  · exact dcLaw_first 64 63 d _
  · exact dcLaw_first 64 63 d _
  · rintro p a b c d f (rfl | rfl | rfl) h
    · exact dcLaw_quadLaw_corner h _
    · exact dcLaw_quadLaw_corner h _
    · exact dcLaw_quadLaw_corner h _
  · intro a b hb
    constructor
    · rw [Cfg.dct8x4, dcLaw, if_neg (by simp [zeroBut_corner_first, hb]), leftRightLaw, if_pos (zeroBut_corner_left a b)]
      rfl
    · rw [Cfg.dct4x8, dcLaw, if_neg (by simp [zeroBut_corner_first, hb]), topBottomLaw, if_pos (zeroBut_corner_top a b)]
      rfl
  · intro p k a b c
    by_cases hfirst : zeroBut [0] 0 (corner a b c 0) = true
    · refine ⟨a, a, a, ?_⟩
      simp only [Cfg.afv, dcLaw, if_pos hfirst, ite_self]
      rfl
    · refine ⟨afvPartDc (Cfg.afvConstants p k) (corner a b c 0) 0, afvPartDc (Cfg.afvConstants p k) (corner a b c 0) 1,
        afvPartDc (Cfg.afvConstants p k) (corner a b c 0) 2, ?_⟩
      simp only [Cfg.afv, dcLaw, if_neg hfirst, afvLaw, if_pos (zeroBut_corner_afv a b c)]
      refine tile8_congr fun y x => ?_
      split
      · split <;> rfl
      · rfl

end Sys2Proof.Machine

/-! The block steps of the group decoder (43_group_decoder.md R247 to R257). -/

namespace Sys2Proof.Machine

open Sys2Proof.Claims

variable {s : State} {hf : HfBlock} {fh : FrameHeader} {r : Rect} {m : HfMeta} {q : Nat} {g : LfGlobal} {side : Side}

/-! ### B.PREDNZ -/

theorem nzAt_ok {c x y v : Nat} (h : assocGet hf.nzMap (c, x, y) = some v) (s : State) : nzAt hf c x y s = .ok v s := by
  rw [nzAt, h, present_some]

/-- The end of B.PREDNZ: the block in progress is the one whose count was predicted. -/
def storePrediction (x y v : Nat) : Op Nat := do
  setHf fun h => { h with blk := (x, y) }
  pure v

theorem exec_predNz {c x y v : Nat} (hh : s.grp.hf = some hf) (hp : predNz c x y s = storePrediction x y v s) :
    exec (.bPredNz c x y) s = .next (withHf s { hf with blk := (x, y) } (.nat v)) :=
  (run_ok (Op.bind_ok hp _)).trans (congrArg _ (setHf_setRet hh _ _))

/-- Settles O40: the four cases of the neighbours. -/
theorem predictedNonzeros : Obligations.PredictedNonzeros := by
  intro s hf c x y hh
  refine ⟨exec_predNz hh ?_, fun top ht => exec_predNz hh ?_, fun left hl => exec_predNz hh ?_, fun top left ht hl =>
    exec_predNz hh ?_⟩
  · rw [predNz, Op.bind_ok (getHf_ok hh), if_pos ⟨rfl, rfl⟩]
    rfl
  · rw [predNz, Op.bind_ok (getHf_ok hh), if_neg (by omega), if_pos rfl, Nat.add_sub_cancel, Op.bind_ok (nzAt_ok ht s)]
    rfl
  · rw [predNz, Op.bind_ok (getHf_ok hh), if_neg (by omega), if_neg (by omega), if_pos rfl, Nat.add_sub_cancel,
      Op.bind_ok (nzAt_ok hl s)]
    rfl
  · rw [predNz, Op.bind_ok (getHf_ok hh), if_neg (by omega), if_neg (by omega), if_neg (by omega), Nat.add_sub_cancel,
      Nat.add_sub_cancel, Op.bind_ok (nzAt_ok ht s), Op.bind_ok (nzAt_ok hl s)]
    rfl

/-! ### Places of a block -/

theorem getSide_ok (h : s.grp.side = some side) : getSide s = .ok side s := by
  rw [getSide, Op.bind_ok (getState_apply s), h, present_some]

theorem getHfGlobal_ok {hg : HfGlobal} (h : s.grp.hfGlobal = some hg) : getHfGlobal s = .ok hg s := by
  rw [getHfGlobal, Op.bind_ok (getState_apply s), h, present_some]

theorem channelBuffer_ok {l : List Nat} {c h : Nat} (hl : l[c]? = some h) (s : State) : channelBuffer l c s = .ok h s := by
  rw [channelBuffer, hl, present_some]

/-- What a block step finds does not hang on the buffers' contents, but for the quant index. -/
structure GroupAt (s : State) (hf : HfBlock) (fh : FrameHeader) (r : Rect) (side : Side) : Prop where
  hfHere : s.grp.hf = some hf
  frameHere : s.par.frame = some fh
  rectHere : fh.groups[hf.group]? = some r
  sideHere : s.grp.side = some side

theorem groupAt_of_blockAt {b : Nat × Nat} (hb : BlockAt s b hf fh r m q g side) : GroupAt s hf fh r side :=
  ⟨hb.hfHere, hb.frameHere, hb.rectHere, hb.sideHere⟩

theorem GroupAt.groupRect (hg : GroupAt s hf fh r side) : groupRect s = .ok r s := by
  rw [Machine.groupRect, Op.bind_ok (getHf_ok hg.hfHere), Op.bind_ok (getFrame_ok hg.frameHere), hg.rectHere, present_some]

/-- A written tile leaves the places. -/
theorem GroupAt.tilePut (hg : GroupAt s hf fh r side) (x : XType) (r' : Rect) (b : Nat × Nat) (h : Nat) (vs : List Sample) :
    GroupAt (tilePut s x r' b h vs) hf fh r side := by
  obtain ⟨h1, h2, h3, h4⟩ := hg
  exact ⟨by rw [Claims.tilePut, putTile_grp, h1], by rw [Claims.tilePut, putTile_par, h2], h3, by rw [Claims.tilePut, putTile_grp, h4]⟩

theorem readTile_at {l : List Nat} {c h : Nat} {x : XType} {b : Nat × Nat} {vs : List Sample} (ht : TileAt s l c x r b h vs) :
    readTile h x.w x.h (tileCorner r b).1 (tileCorner r b).2 s = .ok vs s :=
  readTile_ok ht.values

theorem readCoeffs_ok {c h : Nat} {x : XType} {b : Nat × Nat} {l : List Int} (hg : GroupAt s hf fh r side)
    (ht : TileAt s side.coeff c x r b h (l.map Sample.int)) : readCoeffs c x b s = .ok l s := by
  rw [readCoeffs, Op.bind_ok hg.groupRect, Op.bind_ok (getSide_ok hg.sideHere), Op.bind_ok (channelBuffer_ok ht.buffer s)]
  rw [Op.bind_ok (readTile_at ht), collect_asInt_ok]

theorem readDequantised_ok {c h : Nat} {x : XType} {b : Nat × Nat} {l : List F32} (hg : GroupAt s hf fh r side)
    (ht : TileAt s side.deq c x r b h (l.map Sample.flt)) : readDequantised c x b s = .ok l s := by
  rw [readDequantised, Op.bind_ok hg.groupRect, Op.bind_ok (getSide_ok hg.sideHere), Op.bind_ok (channelBuffer_ok ht.buffer s)]
  rw [Op.bind_ok (readTile_at ht), collect_asFloat_ok (floats_map_flt l)]

/-- A tile of the block's shape is written where there is room. -/
theorem writeTile_room {ty : SampleType} {l : List Nat} {c h : Nat} {x : XType} {b : Nat × Nat} {vs : List Sample}
    (hr : TileRoom s ty l c x r b h) (ht : ∀ v ∈ vs, v.type = ty) (hlen : vs.length ≤ x.w * x.h) :
    writeTile h x.w (tileCorner r b).1 (tileCorner r b).2 vs s = .ok () (tilePut s x r b h vs) :=
  writeTile_holds hr.room ht hlen

theorem writeCoeffs_ok {c h : Nat} {x : XType} {b : Nat × Nat} {l : List Int} (hg : GroupAt s hf fh r side)
    (hr : TileRoom s .int side.coeff c x r b h) (hlen : l.length ≤ x.w * x.h) :
    writeCoeffs c x b l s = .ok () (tilePut s x r b h (l.map Sample.int)) := by
  rw [writeCoeffs, Op.bind_ok hg.groupRect, Op.bind_ok (getSide_ok hg.sideHere), Op.bind_ok (channelBuffer_ok hr.buffer s)]
  exact writeTile_room hr (fun v hv => type_of_mem_map_int hv) (by simpa using hlen)

theorem writeDequantised_ok {c h : Nat} {x : XType} {b : Nat × Nat} {l : List F32} (hg : GroupAt s hf fh r side)
    (hr : TileRoom s .float side.deq c x r b h) (hlen : l.length ≤ x.w * x.h) :
    writeDequantised c x b l s = .ok () (tilePut s x r b h (l.map Sample.flt)) := by
  rw [writeDequantised, Op.bind_ok hg.groupRect, Op.bind_ok (getSide_ok hg.sideHere), Op.bind_ok (channelBuffer_ok hr.buffer s)]
  exact writeTile_room hr (fun v hv => type_of_mem_map_flt hv) (by simpa using hlen)

/-- A written tile leaves the room of another. -/
theorem tileRoom_tilePut {ty : SampleType} {l : List Nat} {c h : Nat} {x : XType} {b : Nat × Nat}
    (hr : TileRoom s ty l c x r b h) (x' : XType) (r' : Rect) (b' : Nat × Nat) (h' : Nat) (vs : List Sample) :
    TileRoom (tilePut s x' r' b' h' vs) ty l c x r b h :=
  ⟨hr.buffer, fun i j hi hj => by rw [Claims.tilePut, putTile_canWrite]; exact hr.room i j hi hj⟩

/-! ### B.DEQUANT -/

/-- Writing the three channels' dequantised coefficients one after the other. -/
theorem each_writeDequantised_ok {x : XType} {b : Nat × Nat} {pd : Nat → Nat} {f : Nat → List F32} {cs : List Nat}
    (hg : GroupAt s hf fh r side) (hr : ∀ c ∈ cs, TileRoom s .float side.deq c x r b (pd c))
    (hlen : ∀ c, (f c).length ≤ x.w * x.h) :
    each cs (fun c => writeDequantised c x b (f c)) s =
      .ok () (cs.foldl (fun u c => tilePut u x r b (pd c) ((f c).map Sample.flt)) s) := by
  induction cs generalizing s with
  | nil => rfl
  | cons c rest ih =>
    obtain ⟨hc, hrest⟩ := List.forall_mem_cons.1 hr
    rw [each, Op.bind_ok (writeDequantised_ok hg hc (hlen c))]
    exact ih (hg.tilePut _ _ _ _ _) fun d hd => tileRoom_tilePut (hrest d hd) _ _ _ _ _

theorem tileFactor_ok {h : Nat} {b : Nat × Nat} {f : Int}
    (hf : s.intAt h (b.1 / Cfg.tileBlocks s.inp.params) (b.2 / Cfg.tileBlocks s.inp.params) = some f) :
    tileFactor h b s = .ok f s := by
  rw [intAt_eq_bind] at hf
  obtain ⟨v, hv, hint⟩ := Option.bind_eq_some_iff.1 hf
  rw [tileFactor, Op.bind_ok (getParams_apply s)]
  rw [Op.bind_ok (isWritten_ok hv), Op.bind_ok (check_true _ s), Op.bind_ok (readSample_ok hv), asInt_ok hint]

/-- A tile without a factor is malformed side data. -/
theorem tileFactor_trap {h : Nat} {b : Nat × Nat}
    (hc : (s.cell h (b.1 / Cfg.tileBlocks s.inp.params) (b.2 / Cfg.tileBlocks s.inp.params) .read).isSome = true)
    (hv : s.sample h (b.1 / Cfg.tileBlocks s.inp.params) (b.2 / Cfg.tileBlocks s.inp.params) = none) :
    tileFactor h b s = .error (.fatal .format) s := by
  obtain ⟨c, hc⟩ := Option.isSome_iff_exists.1 hc
  rw [tileFactor, Op.bind_ok (getParams_apply s)]
  rw [Op.bind_ok (isWritten_cell hc), hv]
  exact Op.bind_error (check_false _ s) _

theorem isAc_iff (p : Params) (t k : Nat) : isAc p t k = true ↔ k ∉ Cfg.lfPositions p t := by simp [isAc]

section

variable {bx byy t : Nat} {x : XType} (hx : xtype s.inp.params t = some x) (hb : BlockAt s (bx, byy) hf fh r m q g side)

include hx hb

theorem dequantBlock_zero (hq : q = 0) : dequantBlock bx byy t s = .error (.fatal .format) s := by
  subst hq
  rw [dequantBlock, Op.bind_ok (catalogued_ok hx), Op.bind_ok (blockQuant_ok hb)]
  exact Op.bind_error (check_false _ s) _

/-- A block whose quant step is not zero, up to the colour-correlation factors. -/
theorem dequantBlock_eq (hq : 1 ≤ q) {hg : HfGlobal} (hhg : s.grp.hfGlobal = some hg) :
    dequantBlock bx byy t s = (do
      let fx ← tileFactor m.corrX (framePos r (bx, byy))
      let fb ← tileFactor m.corrB (framePos r (bx, byy))
      let coeffs ← collect [0, 1, 2] fun c => readCoeffs c x (bx, byy)
      let a : DequantInput :=
        { t := t, q := q, bx := (framePos r (bx, byy)).1, byy := (framePos r (bx, byy)).2, coeffs := coeffs
          quantizer := g.quantizer, colorCorr := g.colorCorr, tileX := fx, tileB := fb
          matrices := [0, 1, 2].map fun c => assocGet hg.dequant (t, c) }
      each [0, 1, 2] fun c => writeDequantised c x (bx, byy)
        ((List.range (x.w * x.h)).map fun k =>
          if isAc s.inp.params t k then Cfg.dequant s.inp.params a c k else 0) : Op Unit) s := by
  rw [dequantBlock, Op.bind_ok (catalogued_ok hx), Op.bind_ok (blockQuant_ok hb), Op.bind_ok (check_ok (decide_eq_true hq) _ s),
    Op.bind_ok (getLfGlobal_ok hb.lfHere), Op.bind_ok (getHfGlobal_ok hhg), Op.bind_ok (getHfMeta_ok hb.metaHere),
    Op.bind_ok (groupRect_ok hb), Op.bind_ok (getParams_apply s)]

end

theorem collect_cons_ok {α β : Type} {f : α → Op β} {x : α} {xs : List α} {y : β} {ys : List β} (hx : f x s = .ok y s)
    (hxs : collect xs f s = .ok ys s) : collect (x :: xs) f s = .ok (y :: ys) s := by
  rw [collect, Op.bind_ok hx, Op.bind_ok hxs]
  rfl

theorem collect_map_ok {α β : Type} {f : α → Op β} {a : α → β} {xs : List α} (h : ∀ c ∈ xs, f c s = .ok (a c) s) :
    collect xs f s = .ok (xs.map a) s := by
  induction xs with
  | nil => rfl
  | cons x rest ih =>
    obtain ⟨hx, hrest⟩ := List.forall_mem_cons.1 h
    exact collect_cons_ok hx (ih hrest)

theorem lt_three_of_mem {c : Nat} (hc : c ∈ [0, 1, 2]) : c < 3 := by
  simp only [List.mem_cons, List.not_mem_nil, or_false] at hc
  omega

/-- Settles O43: the coefficients and the factors of the block are read, and the three tiles written. -/
theorem dequantizedBlock : Obligations.DequantizedBlock := by
  refine ⟨?_, ?_⟩
  · rintro s bx byy t x hf fh r m q tb g side hg pc pd l fx fb a hx hb hhg hq rfl hfx hfb htiles rfl
    have hgroup := groupAt_of_blockAt hb
    have hcoeffs : collect [0, 1, 2] (fun c => readCoeffs c x (bx, byy)) s = .ok ([0, 1, 2].map l) s :=
      collect_map_ok fun c hc => readCoeffs_ok hgroup (htiles c (lt_three_of_mem hc)).1
    have hdeq := dequantBlock_eq hx hb hq hhg
    rw [Op.bind_ok (tileFactor_ok hfx), Op.bind_ok (tileFactor_ok hfb), Op.bind_ok hcoeffs] at hdeq
    rw [each_writeDequantised_ok (pd := pd) hgroup (fun c hc => (htiles c (lt_three_of_mem hc)).2) (by simp)] at hdeq
    refine (runUnit_ok hdeq).trans ?_
    congr 3
    funext u c
    rw [List.map_map]
    congr 1
    refine List.map_congr_left fun k _ => congrArg Sample.flt ?_
    beta_reduce
    by_cases hk : k ∈ Cfg.lfPositions s.inp.params t
    · rw [if_pos hk, if_neg (by rw [isAc_iff]; exact not_not_intro hk)]
    · rw [if_neg hk, if_pos ((isAc_iff _ _ _).2 hk)]
      rfl
  · intro s bx byy t x hf fh r m q tb g side hg hx hb
    refine ⟨fun hq => runUnit_fatal (dequantBlock_zero hx hb hq), ?_⟩
    rintro hq hhg rfl hc hv
    refine runUnit_fatal ((dequantBlock_eq hx hb hq hhg).trans (Op.bind_error (tileFactor_trap hc hv) _))

/-! ### B.XFORM -/

theorem lfAt_ok {c h : Nat} {b : Nat × Nat} {z : Int} (hside : s.grp.side = some side) (hl : side.lf[c]? = some h)
    (hz : s.intAt h b.1 b.2 = some z) : lfAt c b s = .ok z s := by
  rw [intAt_eq_bind] at hz
  obtain ⟨v, hv, hint⟩ := Option.bind_eq_some_iff.1 hz
  rw [lfAt, Op.bind_ok (getSide_ok hside), Op.bind_ok (channelBuffer_ok hl s), Op.bind_ok (isWritten_ok hv),
    Op.bind_ok (check_true _ s), Op.bind_ok (readSample_ok hv), asInt_ok hint]

/-- What B.XFORM finds for one channel: the dequantised coefficients, the LF values at the covered positions, room for
the tile. -/
structure XformAt (s : State) (hf : HfBlock) (fh : FrameHeader) (r : Rect) (side : Side) (g : LfGlobal) (x : XType) (t c : Nat)
    (b : Nat × Nat) (pd hl pl : Nat) (f : List F32) (lf : List Int) : Prop where
  group : GroupAt s hf fh r side
  lfHere : s.grp.lfGlobal = some g
  shape : xtype s.inp.params t = some x
  coeffs : TileAt s side.deq c x r b pd (f.map Sample.flt)
  plane : side.lf[c]? = some hl
  values : allSome ((coveredPositions s.inp.params t (r.x0 / 8 + b.1) (r.y0 / 8 + b.2)).map fun e => s.intAt hl e.1 e.2) = some lf
  room : TileRoom s .float s.grp.planes c x r b pl

theorem XformAt.xformChannel {x : XType} {t c bx byy pd hl pl : Nat} {f : List F32} {lf : List Int}
    (h : XformAt s hf fh r side g x t c (bx, byy) pd hl pl f lf) :
    xformChannel c bx byy t s = .ok () (tilePut s x r (bx, byy) pl (blockTile s x t c g f lf)) := by
  have hlf : collect (coveredPositions s.inp.params t (framePos r (bx, byy)).1 (framePos r (bx, byy)).2) (fun b => lfAt c b) s =
      .ok lf s :=
    collect_ok (g := fun e => s.intAt hl e.1 e.2) _ (fun e _ z hz => lfAt_ok h.group.sideHere h.plane hz) h.values
  have hlen := length_tileOf (size_of_ok (ok_of_xtype h.shape)) s.inp.params
  rw [Machine.xformChannel, Op.bind_ok (catalogued_ok h.shape), Op.bind_ok (getState_apply s),
    Op.bind_ok (getLfGlobal_ok h.lfHere), Op.bind_ok h.group.groupRect, Op.bind_ok (getParams_apply s),
    Op.bind_ok (readDequantised_ok h.group h.coeffs)]
  dsimp only
  rw [Op.bind_ok hlf, Op.bind_ok (channelBuffer_ok h.room.buffer s)]
  exact writeTile_room h.room (fun v hv => type_of_mem_map_flt hv) (by rw [List.length_map, hlen, Nat.mul_comm])

/-- A tile written into another owned plane leaves what B.XFORM finds for a channel. -/
theorem XformAt.tilePut {x : XType} {t c pd hl pl : Nat} {b : Nat × Nat} {f : List F32} {lf : List Int}
    (h : XformAt s hf fh r side g x t c b pd hl pl f lf) {out : Nat} (ho : Owned s out) (hpd : Owned s pd) (hhl : Owned s hl)
    (hne : out ≠ pd) (hne' : out ≠ hl) (vs : List Sample) :
    XformAt (tilePut s x r b out vs) hf fh r side g x t c b pd hl pl f lf where
  group := h.group.tilePut _ _ _ _ _
  lfHere := by rw [Claims.tilePut, putTile_grp, h.lfHere]
  shape := by rw [Claims.tilePut, putTile_inp, h.shape]
  coeffs := ⟨h.coeffs.buffer,
    (tile_congr (fun x' y' => sample_putTile_owned ho hpd hne.symm x' y') _ _ _ _).trans h.coeffs.values⟩
  plane := h.plane
  values := by
    have hint : ∀ e : Nat × Nat, (Claims.tilePut s x r b out vs).intAt hl e.1 e.2 = s.intAt hl e.1 e.2 := fun e =>
      intAt_congr (sample_putTile_owned ho hhl hne'.symm _ _)
    simp only [hint]
    rw [Claims.tilePut, putTile_inp, h.values]
  room := by
    have hroom := tileRoom_tilePut h.room x r b out vs
    rwa [show (Claims.tilePut s x r b out vs).grp = s.grp from putTile_grp]

theorem blockTile_congr {u : State} (hu : u.inp = s.inp) (x : XType) (t c : Nat) (g : LfGlobal) (f : List F32) (lf : List Int) :
    blockTile u x t c g f lf = blockTile s x t c g f lf := by
  simp only [blockTile, hu]

/-- The channels one after the other: no tile is written where a later channel reads. -/
theorem each_xformChannel_ok {x : XType} {t bx byy : Nat} {pd hl pl : Nat → Nat} {f : Nat → List F32} {lf : Nat → List Int}
    {cs : List Nat}
    (h : ∀ c ∈ cs, XformAt s hf fh r side g x t c (bx, byy) (pd c) (hl c) (pl c) (f c) (lf c) ∧ Owned s (pd c) ∧
      Owned s (hl c) ∧ Owned s (pl c))
    (hne : ∀ c ∈ cs, ∀ d ∈ cs, pl c ≠ pd d ∧ pl c ≠ hl d) :
    each cs (fun c => xformChannel c bx byy t) s =
      .ok () (cs.foldl (fun u c => tilePut u x r (bx, byy) (pl c) (blockTile s x t c g (f c) (lf c))) s) := by
  induction cs generalizing s with
  | nil => rfl
  | cons c rest ih =>
    obtain ⟨⟨hc, -, -, hpl⟩, hrest⟩ := List.forall_mem_cons.1 h
    rw [each, Op.bind_ok hc.xformChannel, ih ?_ fun a ha b hb => hne a (.tail _ ha) b (.tail _ hb)]
    · rw [List.foldl_cons]
      simp only [blockTile_congr (s := s) (u := tilePut s _ _ _ _ _) putTile_inp]
    · intro d hd
      obtain ⟨hd', hpd, hhl, hpl'⟩ := hrest d hd
      obtain ⟨hne1, hne2⟩ := hne c List.mem_cons_self d (.tail _ hd)
      exact ⟨hd'.tilePut hpl hpd hhl hne1 hne2 _, owned_putTile hpd, owned_putTile hhl, owned_putTile hpl'⟩

/-- Settles O44: the three channels' tiles, none of which is read by another channel. -/
theorem transformedBlock : Obligations.TransformedBlock := by
  intro s bx byy t x hf fh r m q g side f lf pd hl pl hx hb hch hne
  have hgroup := groupAt_of_blockAt hb
  have hxform : ∀ c ∈ [0, 1, 2], XformAt s hf fh r side g x t c (bx, byy) (pd c) (hl c) (pl c) (f c) (lf c) ∧ Owned s (pd c) ∧
      Owned s (hl c) ∧ Owned s (pl c) := by
    intro c hc
    obtain ⟨ht, hlf, hvals, hroom, hpd, hhl, hpl⟩ := hch c (lt_three_of_mem hc)
    exact ⟨⟨hgroup, hb.lfHere, hx, ht, hlf, hvals, hroom⟩, hpd, hhl, hpl⟩
  exact runUnit_ok (each_xformChannel_ok hxform fun c hc d hd => hne c d (lt_three_of_mem hc) (lt_three_of_mem hd))

/-! ### B.COEFFS -/

/-- The scan loop does what the relation of its steps says. -/
theorem scanLoop_ok {pass cb offset shift n : Nat} {order : List Nat} {w v : Scan} {t : State}
    (h : ScanRuns pass cb offset shift order n w s v t) : scanLoop pass cb offset shift order n w s = .ok v t := by
  induction h with
  | @spent n w s hw =>
    cases n with
    | zero => rfl
    | succ n =>
      rw [scanLoop, if_pos hw]
      rfl
  | out => rfl
  | @step n u w v s a t hw hr hrest ih =>
    rw [scanLoop, if_neg hw, Op.bind_ok (getParams_apply s), Op.bind_ok hr, ← ih]
    have hprev : prevNzAfter u = decide (u ≠ 0) := by simp [prevNzAfter]
    rw [hprev]
    by_cases hu : u = 0
    · rw [if_pos hu, if_neg (by simpa using hu)]
    · rw [if_neg hu, if_pos hu]

theorem scanRuns_kept {pass cb offset shift n : Nat} {order : List Nat} {w v : Scan} {t : State} {P : State → Prop}
    (hP : KeptByReading (.ac pass) P) (h : ScanRuns pass cb offset shift order n w s v t) (hs : P s) : P t := by
  induction h with
  | spent hw => exact hs
  | out => exact hs
  | step hw hr hrest ih => exact ih ((hP.readValue _).of_ok hs hr)

theorem scanRuns_length {pass cb offset shift n : Nat} {order : List Nat} {w v : Scan} {t : State}
    (h : ScanRuns pass cb offset shift order n w s v t) : v.coeffs.length = w.coeffs.length := by
  induction h with
  | spent hw => rfl
  | out => rfl
  | step hw hr hrest ih => rw [ih, List.length_set]

/-- B.COEFFS up to the scan. -/
theorem decodeCoeffs_eq {c t nz p : Nat} {x : XType} {hg : HfGlobal} {h : Nat} {l : List Int} (hx : xtype s.inp.params t = some x)
    (hb : BlockAt s hf.blk hf fh r m q g side) (hhg : s.grp.hfGlobal = some hg)
    (ht : TileAt s side.coeff c x r hf.blk h (l.map Sample.int)) :
    decodeCoeffs c t nz p s = (do
      let w ← scanLoop p (coveredBlocks s.inp.params t)
        (Cfg.contextOffset s.inp.params (Cfg.blockContext s.inp.params c t q g.blockCtx))
        (Cfg.passShift s.inp.params p fh.passShifts) (scanOrder s.inp.params hg p t c)
        (64 * coveredBlocks s.inp.params t - Cfg.firstAc s.inp.params t)
        { k := Cfg.firstAc s.inp.params t, left := nz
          prev := Cfg.initialPrev s.inp.params nz (64 * coveredBlocks s.inp.params t), coeffs := l }
      setHf fun h => { h with nzLeft := w.left, scanPos := w.k, prevNz := w.prev }
      writeCoeffs c x hf.blk w.coeffs
      check (decide (w.left = 0)) .format : Op Unit) s := by
  rw [decodeCoeffs, Op.bind_ok (catalogued_ok hx), Op.bind_ok (getHf_ok hb.hfHere), Op.bind_ok (getHfGlobal_ok hhg),
    Op.bind_ok (blockContextOf_ok hb c t), Op.bind_ok (getFrame_ok hb.frameHere), Op.bind_ok (getParams_apply s)]
  rw [Op.bind_ok (readCoeffs_ok (groupAt_of_blockAt hb) ht)]

/-- The end of B.COEFFS: the scan's state and the coefficients are stored, and the budget is checked. -/
theorem storeScan_eq {c h : Nat} {x : XType} {v : Scan} (hg : GroupAt s hf fh r side)
    (hr : TileRoom s .int side.coeff c x r hf.blk h) (hlen : v.coeffs.length ≤ x.w * x.h) :
    (do
      setHf fun h => { h with nzLeft := v.left, scanPos := v.k, prevNz := v.prev }
      writeCoeffs c x hf.blk v.coeffs
      check (decide (v.left = 0)) .format : Op Unit) s = check (decide (v.left = 0)) .format (scanned s hf x r h v) := by
  have hset : setHf (fun h => { h with nzLeft := v.left, scanPos := v.k, prevNz := v.prev }) s =
      .ok () (s.setGrp fun g => { g with hf := some { hf with nzLeft := v.left, scanPos := v.k, prevNz := v.prev } }) := by
    rw [setHf, upd_apply, State.setGrp, hg.hfHere]
    rfl
  have hg' : GroupAt (s.setGrp fun g => { g with hf := some { hf with nzLeft := v.left, scanPos := v.k, prevNz := v.prev } })
      { hf with nzLeft := v.left, scanPos := v.k, prevNz := v.prev } fh r side :=
    ⟨rfl, hg.frameHere, hg.rectHere, hg.sideHere⟩
  rw [Op.bind_ok hset, Op.bind_ok (writeCoeffs_ok hg' ⟨hr.buffer, hr.room⟩ hlen)]
  rfl

theorem GroupAt.reading {sc : ScopeId} {t : State} (hg : GroupAt s hf fh r side) (h : SameButReading sc s t) :
    GroupAt t hf fh r side :=
  ⟨by rw [h.grp, hg.hfHere], by rw [h.par, hg.frameHere], hg.rectHere, by rw [h.grp, hg.sideHere]⟩

theorem tileRoom_reading {sc : ScopeId} {t : State} {ty : SampleType} {l : List Nat} {c h : Nat} {x : XType} {b : Nat × Nat}
    (hr : TileRoom s ty l c x r b h) (hs : SameButReading sc s t) : TileRoom t ty l c x r b h := by
  refine ⟨hr.buffer, fun i j hi hj => ?_⟩
  have hroom := hr.room i j hi hj
  unfold State.canWrite State.cell at hroom ⊢
  rwa [hs.img]

/-- The HF block state does not change but by `setHf`. -/
theorem keptByImages_grp (g : Groups) : KeptByImages fun s => s.grp = g where
  allocated _ _ _ _ h := h
  samples _ _ _ _ h _ := h
  released _ _ h := h
  counted _ h := h
  render _ _ h := h

/-- Where an operation completes, a property of the states it keeps holds. -/
theorem Ends.of_ok {α : Type} {P : State → Prop} {N : Nat → Prop} {op : Op α} {t : State} {a : α} (hop : Ends P N op) (hs : P s)
    (h : op s = .ok a t) : P t := (hop s hs).post h

theorem hf_of_getHf_ok {t : State} (h : getHf s = .ok hf t) : s.grp.hf = some hf := by
  unfold getHf at h
  rw [Op.bind_ok (getState_apply s)] at h
  exact (present_eq_ok.1 h).1

/-- Coefficients are written back for the group in progress, which is there. -/
theorem hf_of_writeCoeffs_ok {t : State} {c : Nat} {x : XType} {b : Nat × Nat} {l : List Int}
    (h : writeCoeffs c x b l s = .ok () t) : (∃ hf, s.grp.hf = some hf) ∧ t.grp = s.grp := by
  refine ⟨?_, ((keptByImages_grp s.grp).writeCoeffs (N := fun _ => True) c x b l).of_ok rfl h⟩
  unfold writeCoeffs groupRect at h
  obtain ⟨r, _, hr, -⟩ := Op.bind_eq_ok.1 h
  obtain ⟨hf, _, hhf, -⟩ := Op.bind_eq_ok.1 hr
  exact ⟨hf, hf_of_getHf_ok hhf⟩

/-- Whenever B.COEFFS completes, the budget it stored in the HF block state is zero. -/
theorem nzLeft_of_decodeCoeffs {u : State} {c t nz p : Nat} (h : decodeCoeffs c t nz p s = .ok () u) :
    ∃ hf, u.grp.hf = some hf ∧ hf.nzLeft = 0 := by
  have hend : ∃ (w : Scan) (x : XType) (b : Nat × Nat) (v : State), (do
      setHf fun h => { h with nzLeft := w.left, scanPos := w.k, prevNz := w.prev }
      writeCoeffs c x b w.coeffs
      check (decide (w.left = 0)) .format : Op Unit) v = .ok () u := by
    unfold decodeCoeffs at h
    obtain ⟨x, _, -, h⟩ := Op.bind_eq_ok.1 h
    obtain ⟨hf, _, -, h⟩ := Op.bind_eq_ok.1 h
    obtain ⟨_, _, -, h⟩ := Op.bind_eq_ok.1 h
    obtain ⟨_, _, -, h⟩ := Op.bind_eq_ok.1 h
    obtain ⟨_, _, -, h⟩ := Op.bind_eq_ok.1 h
    obtain ⟨_, _, -, h⟩ := Op.bind_eq_ok.1 h
    obtain ⟨_, _, -, h⟩ := Op.bind_eq_ok.1 h
    obtain ⟨w, v, -, h⟩ := Op.bind_eq_ok.1 h
    exact ⟨w, x, hf.blk, v, h⟩
  obtain ⟨w, x, b, v, h⟩ := hend
  obtain ⟨_, a, hset, h⟩ := Op.bind_eq_ok.1 h
  obtain ⟨_, d, hwrite, hcheck⟩ := Op.bind_eq_ok.1 h
  obtain ⟨hzero, rfl⟩ := check_eq_ok.1 hcheck
  obtain ⟨⟨hf, hhf⟩, hgrp⟩ := hf_of_writeCoeffs_ok hwrite
  refine ⟨hf, by rw [hgrp, hhf], ?_⟩
  have ha : v.grp.hf.map (fun h => { h with nzLeft := w.left, scanPos := w.k, prevNz := w.prev }) = some hf := by
    cases hset
    exact hhf
  obtain ⟨old, -, rfl⟩ := Option.map_eq_some_iff.1 ha
  exact of_decide_eq_true hzero

/-- Settles O42: the scan is run step by step, its end stored, and the budget that is left checked to be zero. -/
theorem coefficients : Obligations.Coefficients := by
  refine ⟨?_, ?_, ?_⟩
  · rintro s t' c t nz p x hf fh r m q h g side hg l v cb first hx hb hhg ht hr hcb rfl
    rw [← coveredBlocks_of_xtype hx] at hcb
    subst hcb
    have hlen : l.length = x.w * x.h := by simpa using allSome_length ht.values
    have hrun : ∀ {v : Scan} {t' : State}, ScanRuns p (coveredBlocks s.inp.params t)
        (Cfg.contextOffset s.inp.params (Cfg.blockContext s.inp.params c t q g.blockCtx))
        (Cfg.passShift s.inp.params p fh.passShifts) (scanOrder s.inp.params hg p t c)
        (64 * coveredBlocks s.inp.params t - Cfg.firstAc s.inp.params t)
        { k := Cfg.firstAc s.inp.params t, left := nz
          prev := Cfg.initialPrev s.inp.params nz (64 * coveredBlocks s.inp.params t), coeffs := l } s v t' →
        decodeCoeffs c t nz p s = check (decide (v.left = 0)) .format (scanned t' hf x r h v) := by
      intro v t' hscan
      have hkept := scanRuns_kept (SameButReading.kept _ s) hscan (sameButReading_refl _ s)
      rw [decodeCoeffs_eq hx hb hhg ht, Op.bind_ok (scanLoop_ok hscan)]
      exact storeScan_eq ((groupAt_of_blockAt hb).reading hkept) (tileRoom_reading hr hkept) (by rw [scanRuns_length hscan, hlen])
    have hok : ∀ {v : Scan} {t' : State}, decodeCoeffs c t nz p s = check (decide (v.left = 0)) .format (scanned t' hf x r h v) →
        v.left = 0 → exec (.bCoeffs c t nz p) s = .next ((scanned t' hf x r h v).setRet .none) := fun hdec h0 =>
      runUnit_ok (commitOrAbandon_ok (hdec.trans (check_ok (decide_eq_true h0) _ _)))
    refine ⟨fun hscan => ⟨hok (hrun hscan), fun hne => ?_⟩, ?_⟩
    · exact runUnit_fatal (commitOrAbandon_fatal ((hrun hscan).trans (check_trap (decide_eq_false hne) _ _)))
    · rintro rfl
      exact hok (hrun (.spent rfl)) rfl
  · intro s u c t nz p hexec hret
    obtain ⟨v, hv, rfl⟩ := runUnit_next_none hexec hret
    have hend := nzLeft_of_decodeCoeffs (of_commitOrAbandon_ok hv)
    exact hend
  · rintro p pass old d (rfl | hp)
    · rfl
    · unfold Cfg.accumulate
      split
      · rfl
      · rw [hp]
        rfl

end Sys2Proof.Machine

/-! The image-buffer operations (47_image_buffer.md). -/

namespace Sys2Proof.Machine

open Sys2Proof.Claims

variable {s : State}

/-! ### How an operation ends in a model fault -/

theorem run_fault {op : Op OpValue} {f : Fault} {u : State} (h : op s = .error (.fault f) u) : run op s = .fault f := by
  rw [run_error h]
  rfl

/-! ### The stride -/

theorem dvd_roundUp (n align : Nat) : align ∣ roundUp n align := Nat.dvd_mul_left _ _

theorem le_roundUp {align : Nat} (ha : 0 < align) (n : Nat) : n ≤ roundUp n align := by
  have hmod : (n + align - 1) % align < align := Nat.mod_lt _ ha
  have hdiv := Nat.div_add_mod' (n + align - 1) align
  unfold roundUp
  omega

theorem roundUp_lt {align : Nat} (ha : 0 < align) (n : Nat) : roundUp n align < n + align := by
  have hdiv := Nat.div_add_mod' (n + align - 1) align
  unfold roundUp
  omega

/-! ### Taking a view -/

theorem any_forbids_of_viewFree {h : Nat} {b : Buffer} {x0 y0 w ht : Nat} {mode : Access} (hv : ViewFree s h b x0 y0 w ht mode) :
    (s.img.bufs.any fun e => e.2.forbids (rootOf h b).1
      { x0 := (rootOf h b).2.1 + x0, y0 := (rootOf h b).2.2 + y0, w := w, h := ht } mode) = false :=
  List.any_eq_false.2 fun e he => by simp [hv e he]

section

variable {h x0 y0 w ht : Nat} {b : Buffer} {mode : Access}

theorem view_ok (hb : assocGet s.img.bufs h = some b) (hx : x0 + w ≤ b.width) (hy : y0 + ht ≤ b.height)
    (hv : ViewFree s h b x0 y0 w ht mode) : view h x0 y0 w ht mode s = .ok s.img.next (s.viewed h b x0 y0 w ht mode) := by
  rw [view, Op.bind_ok (getBuf_ok hb), if_pos ⟨hx, hy⟩]
  dsimp only
  rw [Op.bind_ok (getState_apply s), any_forbids_of_viewFree hv]
  rfl

theorem view_overlap (hb : assocGet s.img.bufs h = some b) (hx : x0 + w ≤ b.width) (hy : y0 + ht ≤ b.height)
    (hv : ¬ ViewFree s h b x0 y0 w ht mode) : view h x0 y0 w ht mode s = .error (.fault .viewOverlap) s := by
  have hany : (s.img.bufs.any fun e => e.2.forbids (rootOf h b).1
      { x0 := (rootOf h b).2.1 + x0, y0 := (rootOf h b).2.2 + y0, w := w, h := ht } mode) = true := by
    by_contra hany
    exact hv fun e he => Bool.eq_false_iff.2 (List.any_eq_false.1 (Bool.eq_false_iff.2 hany) e he)
  rw [view, Op.bind_ok (getBuf_ok hb), if_pos ⟨hx, hy⟩]
  dsimp only
  rw [Op.bind_ok (getState_apply s), hany]
  rfl

theorem view_outside (hb : assocGet s.img.bufs h = some b) (hout : ¬ (x0 + w ≤ b.width ∧ y0 + ht ≤ b.height)) :
    view h x0 y0 w ht mode s = .error (.fault .outOfBounds) s := by
  rw [view, Op.bind_ok (getBuf_ok hb), if_neg hout]
  rfl

end

/-! ### Rows as views -/

theorem repeats_iff (l : List Nat) : repeats l = true ↔ ¬ l.Nodup := by
  induction l with
  | nil => simp [repeats]
  | cons x rest ih =>
    simp only [repeats, Bool.or_eq_true, List.contains_iff_mem, ih, List.nodup_cons]
    tauto

section

variable {h : Nat} {b : Buffer} {mode : Access}

theorem viewed_next (x0 y0 w ht : Nat) : (s.viewed h b x0 y0 w ht mode).img.next = s.img.next + 1 := rfl

theorem assocGet_viewed {k : Nat} (hk : k ≠ s.img.next) (x0 y0 w ht : Nat) :
    assocGet (s.viewed h b x0 y0 w ht mode).img.bufs k = assocGet s.img.bufs k := by
  rw [State.viewed, State.setImg_img, assocGet_assocSet, if_neg hk]

/-- The view of a row does not forbid one of another row. -/
theorem viewFree_viewed_row {y y' : Nat} (hne : y' ≠ y) (hv : ViewFree s h b 0 y' b.width 1 mode) :
    ViewFree (s.viewed h b 0 y b.width 1 mode) h b 0 y' b.width 1 mode := by
  intro e he
  rcases mem_assocSet he with rfl | he
  · have hmeets : Rect.meets
        { x0 := (rootOf h b).2.1 + 0, y0 := (rootOf h b).2.2 + y, w := b.width, h := 1 }
        { x0 := (rootOf h b).2.1 + 0, y0 := (rootOf h b).2.2 + y', w := b.width, h := 1 } = false := by
      simp only [Rect.meets, Bool.and_eq_false_iff, decide_eq_false_iff_not]
      right
      omega
    simp only [Buffer.forbids, hmeets, Bool.and_false]
  · exact hv e he

theorem lt_next_of_assocGet (hs : s.img.handlesOk = true) (hb : assocGet s.img.bufs h = some b) : h < s.img.next :=
  (handles_lt hs (mem_of_assocGet hb)).1

theorem collect_view_ok {rows : List Nat} (hb : assocGet s.img.bufs h = some b) (hlt : h < s.img.next)
    (hin : ∀ y ∈ rows, y < b.height) (hnd : rows.Nodup) (hv : ∀ y ∈ rows, ViewFree s h b 0 y b.width 1 mode) :
    collect rows (fun y => view h 0 y b.width 1 mode) s =
      .ok ((List.range rows.length).map fun k => s.img.next + k) (rowsViewed s h b rows mode) := by
  induction rows generalizing s with
  | nil => rfl
  | cons y rest ih =>
    obtain ⟨hy, hin⟩ := List.forall_mem_cons.1 hin
    obtain ⟨hvy, hv⟩ := List.forall_mem_cons.1 hv
    obtain ⟨hnot, hnd⟩ := List.nodup_cons.1 hnd
    have hrest := ih (s := s.viewed h b 0 y b.width 1 mode) (by rw [assocGet_viewed hlt.ne]; exact hb)
      (by rw [viewed_next]; omega) hin hnd
      fun y' hy' => viewFree_viewed_row (fun heq => hnot (heq ▸ hy')) (hv y' hy')
    rw [collect, Op.bind_ok (view_ok hb (by omega) hy hvy), Op.bind_ok hrest, viewed_next, List.length_cons,
      List.range_succ_eq_map, List.map_cons, List.map_map]
    have hshift : ((fun k => s.img.next + k) ∘ Nat.succ) = fun k => s.img.next + 1 + k := by
      funext k
      simp only [Function.comp_apply]
      omega
    rw [hshift]
    rfl

theorem exec_iRows {rows : List Nat} (hb : assocGet s.img.bufs h = some b) :
    exec (.iRows h rows mode) s = run (if rows.all fun y => decide (y < b.height) then
      if repeats rows then stop (.fault .viewOverlap)
      else do
        let hs ← collect rows fun y => view h 0 y b.width 1 mode
        pure (.bufs hs)
    else stop (.fault .outOfBounds)) s := by
  show run _ s = run _ s
  unfold run
  rw [Op.bind_ok (getBuf_ok hb)]

theorem all_lt_iff (rows : List Nat) (n : Nat) : (rows.all fun y => decide (y < n)) = true ↔ ∀ y ∈ rows, y < n := by simp

end

/-! ### Cells -/

/-- The cell of a sample, in one equivalence. -/
theorem cell_eq_some {h x y : Nat} {mode : Access} {c : Nat × Nat} : s.cell h x y mode = some c ↔
    ∃ b r, assocGet s.img.bufs h = some b ∧ x < b.width ∧ y < b.height ∧ assocGet s.img.bufs (rootOf h b).1 = some r ∧
      clashes s.img.bufs h (rootOf h b).1 ((rootOf h b).2.1 + x) ((rootOf h b).2.2 + y) mode = false ∧
      ¬ (mode = .write ∧ b.writable = false) ∧
      c = ((rootOf h b).1, ((rootOf h b).2.2 + y) * r.width + ((rootOf h b).2.1 + x)) := by
  constructor
  · intro hc
    unfold State.cell at hc
    repeat' split at hc
    all_goals cases hc
    next _ b hb hin _ r hr hcl hw =>
    exact ⟨b, r, hb, hin.1, hin.2, hr, Bool.eq_false_iff.2 hcl, hw, rfl⟩
  · rintro ⟨b, r, hb, hx, hy, hr, hcl, hw, rfl⟩
    simp only [State.cell, hb, if_pos (And.intro hx hy), hr, hcl, if_neg hw, Bool.false_eq_true, if_false]

/-- Who forbids reading forbids writing. -/
theorem forbids_write_of_read {v : Buffer} {root : Nat} {r : Rect} (h : v.forbids root r .read = true) :
    v.forbids root r .write = true := by
  unfold Buffer.forbids at h ⊢
  split at h
  · cases h
  · simp_all

theorem cell_read_of_write {h x y : Nat} {c : Nat × Nat} (hc : s.cell h x y .write = some c) : s.cell h x y .read = some c := by
  obtain ⟨b, r, hb, hx, hy, hr, hcl, -, rfl⟩ := cell_eq_some.1 hc
  refine cell_eq_some.2 ⟨b, r, hb, hx, hy, hr, ?_, by simp, rfl⟩
  unfold clashes at hcl ⊢
  rw [List.any_eq_false] at hcl ⊢
  intro e he hbad
  simp only [Bool.and_eq_true] at hbad
  exact hcl e he (by simp only [Bool.and_eq_true]; exact ⟨hbad.1, forbids_write_of_read hbad.2⟩)

theorem sample_putSample_self {h x y : Nat} {c : Nat × Nat} (hc : s.cell h x y .write = some c) (v : Sample) :
    (s.putSample h x y v).sample h x y = some v := by
  obtain ⟨b, r, -, -, -, hr, -, -, rfl⟩ := cell_eq_some.1 hc
  rw [State.sample, putSample_cell, cell_read_of_write hc]
  simp only [State.sampleIn, State.putSample, hc, hr, State.setImg_img, assocGet_assocSet, if_true]
  exact storeRead_write_same _ _ _

theorem sample_putSample_of_ne {h x y h' x' y' : Nat} (hne : s.cell h' x' y' .read ≠ s.cell h x y .write) (v : Sample) :
    (s.putSample h x y v).sample h' x' y' = s.sample h' x' y' := by
  rw [State.sample, putSample_cell, State.sample]
  cases hc' : s.cell h' x' y' .read with
  | none => rfl
  | some c' =>
    unfold State.putSample
    cases hc : s.cell h x y .write with
    | none => rfl
    | some c =>
      rw [hc', hc] at hne
      dsimp only
      cases hb : assocGet s.img.bufs c.1 with
      | none => rfl
      | some b =>
        simp only [State.sampleIn, State.setImg_img, assocGet_assocSet]
        by_cases hroot : c'.1 = c.1
        · rw [if_pos hroot, hroot, hb]
          exact storeRead_write_other _ _ _ _ fun hkey => hne (congrArg some (Prod.ext hroot hkey))
        · rw [if_neg hroot]

/-! ### What a view shows -/

/-- A rectangle within another meets no more than it does. -/
theorem forbids_of_within {v : Buffer} {root : Nat} {x y w ht i j : Nat} {mode : Access} (hi : i < w) (hj : j < ht)
    (h : v.forbids root { x0 := x + i, y0 := y + j, w := 1, h := 1 } .read = true) :
    v.forbids root { x0 := x, y0 := y, w := w, h := ht } mode = true := by
  unfold Buffer.forbids at h ⊢
  split at h
  · cases h
  · simp only [Bool.and_eq_true, Bool.or_eq_true, decide_eq_true_eq, Rect.meets, reduceCtorEq, or_false] at h ⊢
    obtain ⟨⟨hroot, hm⟩, hx, hy⟩ := h
    exact ⟨⟨hroot, .inl hm⟩, by omega, by omega⟩

section

variable {h x0 y0 w ht : Nat} {b : Buffer} {mode : Access}

/-- Within a rectangle that no view forbids, no holder is kept from reading. -/
theorem clashes_of_viewFree (hv : ViewFree s h b x0 y0 w ht mode) {i j : Nat} (hi : i < w) (hj : j < ht) (k : Nat) :
    clashes s.img.bufs k (rootOf h b).1 ((rootOf h b).2.1 + x0 + i) ((rootOf h b).2.2 + y0 + j) .read = false := by
  unfold clashes
  rw [List.any_eq_false]
  intro e he hbad
  simp only [Bool.and_eq_true] at hbad
  have := forbids_of_within (mode := mode) hi hj hbad.2
  rw [hv e he] at this
  cases this

theorem clashes_viewed (hs : s.img.handlesOk = true) (hv : ViewFree s h b x0 y0 w ht mode) {i j : Nat} (hi : i < w) (hj : j < ht) :
    clashes (s.viewed h b x0 y0 w ht mode).img.bufs s.img.next (rootOf h b).1 ((rootOf h b).2.1 + x0 + i)
      ((rootOf h b).2.2 + y0 + j) .read = false := by
  have hbufs : (s.viewed h b x0 y0 w ht mode).img.bufs = assocSet s.img.bufs s.img.next _ := rfl
  have hold := clashes_of_viewFree hv hi hj s.img.next
  unfold clashes at hold ⊢
  rw [hbufs, assocSet_of_assocGet_none (assocGet_next hs), List.any_append, hold]
  simp

theorem sample_viewed (hs : s.img.handlesOk = true) (hb : assocGet s.img.bufs h = some b) (hx : x0 + w ≤ b.width)
    (hy : y0 + ht ≤ b.height) (hv : ViewFree s h b x0 y0 w ht mode) {i j : Nat} (hi : i < w) (hj : j < ht) :
    (s.viewed h b x0 y0 w ht mode).sample s.img.next i j = s.sample h (x0 + i) (y0 + j) := by
  have hroot : (rootOf h b).1 ≠ s.img.next := (handles_lt hs (mem_of_assocGet hb)).2.ne
  have hview : assocGet (s.viewed h b x0 y0 w ht mode).img.bufs s.img.next = some
      { width := w, height := ht, ty := b.ty, stride := b.stride,
        ownership := .borrowed h x0 y0 (rootOf h b).1 ((rootOf h b).2.1 + x0) ((rootOf h b).2.2 + y0) mode, samples := [] } :=
    (assocGet_assocSet _ _ _ _).trans (if_pos rfl)
  have hnew := clashes_viewed hs hv hi hj
  have hold := clashes_of_viewFree hv hi hj h
  have hin : x0 + i < b.width ∧ y0 + j < b.height := by omega
  rw [Nat.add_assoc, Nat.add_assoc] at hnew hold
  unfold State.sample State.cell
  rw [hview, hb]
  simp only [if_pos hin, if_pos (show i < w ∧ j < ht from ⟨hi, hj⟩)]
  have hrootOf : rootOf s.img.next
      { width := w, height := ht, ty := b.ty, stride := b.stride,
        ownership := .borrowed h x0 y0 (rootOf h b).1 ((rootOf h b).2.1 + x0) ((rootOf h b).2.2 + y0) mode, samples := [] } =
      ((rootOf h b).1, (rootOf h b).2.1 + x0, (rootOf h b).2.2 + y0) := rfl
  rw [hrootOf]
  dsimp only
  rw [assocGet_viewed hroot]
  cases hr : assocGet s.img.bufs (rootOf h b).1 with
  | none => rfl
  | some r =>
    dsimp only
    rw [Nat.add_assoc, Nat.add_assoc, hnew, hold]
    simp only [State.sampleIn, assocGet_viewed hroot, Bool.false_eq_true, if_false, reduceCtorEq, false_and]

theorem sample_viewed_outside {i j : Nat} (hout : ¬ (i < w ∧ j < ht)) :
    (s.viewed h b x0 y0 w ht mode).sample s.img.next i j = none := by
  have hc : (s.viewed h b x0 y0 w ht mode).cell s.img.next i j .read = none := by
    rw [State.cell, State.viewed, State.setImg_img, assocGet_assocSet, if_pos rfl]
    exact if_neg hout
  rw [State.sample, hc]

end

/-! ### Freeing -/

theorem exec_iFree_owned {h : Nat} {b : Buffer} (hb : assocGet s.img.bufs h = some b) (ho : b.ownership = .owned) :
    exec (.iFree h) s =
      runUnit (if s.img.bufs.any fun e => e.2.borrowsFrom h then stop (.fault .liveView) else release h) s := by
  have hfree : freeBuffer h s =
      (if s.img.bufs.any fun e => e.2.borrowsFrom h then stop (.fault .liveView) else release h : Op Unit) s := by
    rw [freeBuffer, Op.bind_ok (getBuf_ok hb), ho]
    rfl
  show runUnit (freeBuffer h) s = _
  rw [runUnit, runUnit, run, run, Op.bind_apply, hfree, Op.bind_apply]

/-- Freeing a view frees nothing. -/
theorem exec_iFree_view {h : Nat} {b : Buffer} (hb : assocGet s.img.bufs h = some b) (ho : b.ownership ≠ .owned) :
    exec (.iFree h) s = .next (s.setRet .none) := by
  have hfree : freeBuffer h s = .ok () s := by
    rw [freeBuffer, Op.bind_ok (getBuf_ok hb)]
    cases hown : b.ownership with
    | owned => exact absurd hown ho
    | borrowed => rfl
  exact runUnit_ok hfree

/-- Settles O59: allocation, views, freeing, and what a view and a written sample show. -/
theorem imageBuffers : Obligations.ImageBuffers := by
  refine ⟨?_, ?_, ?_, ?_, ?_, ?_, ?_, ?_⟩
  · intro s w h ty
    refine ⟨fun hf hm => ?_, fun hf => ?_, fun hf hm => ?_⟩
    · exact run_ok (Op.bind_ok (alloc_ok (grants_iff.2 ⟨hf, hm⟩)) _)
    · rcases alloc_cases w h ty s with ⟨hg, -⟩ | ⟨-, ha⟩ | ⟨hf', -⟩
      · rw [(grants_iff.1 hg).1] at hf
        cases hf
      · exact run_fatal (Op.bind_error ha _)
      · rw [hf'] at hf
        cases hf
    · rcases alloc_cases w h ty s with ⟨hg, -⟩ | ⟨hf', -⟩ | ⟨-, -, ha⟩
      · rw [(grants_iff.1 hg).2] at hm
        cases hm
      · rw [hf'] at hf
        cases hf
      · exact run_fatal (Op.bind_error ha _)
  · intro p w ty
    have halign := Nat.two_pow_pos (p.rowAlignLog.getD Config.rowAlignLog)
    exact ⟨dvd_roundUp _ _, le_roundUp halign _, roundUp_lt halign _⟩
  · intro s b y mode x hb
    refine ⟨fun hy hv => ?_, fun hy => ?_⟩
    · exact run_ok (Op.bind_ok (getBuf_ok hb) _ |>.trans (Op.bind_ok (view_ok hb (by omega) hy hv) _))
    · exact run_fault (Op.bind_ok (getBuf_ok hb) _ |>.trans (Op.bind_error (view_outside hb (by omega)) _))
  · intro s b x0 y0 w h mode x hb
    refine ⟨fun hx hy hv => ?_, fun hx hy hv => ?_, fun hout => ?_⟩
    · exact run_ok (Op.bind_ok (view_ok hb hx hy hv) _)
    · exact run_fault (Op.bind_error (view_overlap hb hx hy hv) _)
    · exact run_fault (Op.bind_error (view_outside hb (by omega)) _)
  · intro s b rows mode x hb hs
    rw [exec_iRows hb]
    refine ⟨fun hin hnd hv => ?_, ?_, fun hin hrep => ?_⟩
    · rw [if_pos ((all_lt_iff _ _).2 hin), if_neg (by rw [repeats_iff]; exact not_not_intro hnd)]
      exact run_ok (Op.bind_ok (collect_view_ok hb (lt_next_of_assocGet hs hb) hin hnd hv) _)
    · rintro ⟨y, hy, hout⟩
      rw [if_neg (by rw [all_lt_iff]; exact fun hin => absurd (hin y hy) (Nat.not_lt.2 hout))]
      rfl
    · rw [if_pos ((all_lt_iff _ _).2 hin), if_pos ((repeats_iff rows).2 hrep)]
      rfl
  · intro s b x hb
    refine ⟨fun ho hnone => ?_, fun ho hsome => ?_, fun ho => ?_⟩
    · rw [exec_iFree_owned hb ho, if_neg (by simpa using hnone)]
      exact runUnit_ok (release_ok b s)
    · rw [exec_iFree_owned hb ho, if_pos (by simpa using hsome)]
      rfl
    · exact exec_iFree_view hb ho
  · intro s b x0 y0 w h mode x hb hs hx hy hv
    exact ⟨fun i j hi hj => sample_viewed hs hb hx hy hv hi hj, fun i j hout => sample_viewed_outside hout⟩
  · intro s h x y v hc
    obtain ⟨c, hc⟩ := Option.isSome_iff_exists.1 hc
    exact ⟨sample_putSample_self hc v, fun h' x' y' hne => sample_putSample_of_ne hne v⟩

end Sys2Proof.Machine

/-! What the channel transforms leave (44_modular.md R300 to R310): the outputs in the operands' place, the operands gone,
every other buffer as it was. -/

namespace Sys2Proof.Machine

open Sys2Proof.Claims

variable {s : State}

/-! ### Buffers only -/

theorem released_eq (s : State) (l : List Nat) : s.released l = s.setImg fun _ => (s.released l).img := by
  induction l generalizing s with
  | nil => rfl
  | cons h rest ih => rw [State.released, ih]; rfl

@[simp] theorem released_next (s : State) (l : List Nat) : (s.released l).img.next = s.img.next := by
  induction l generalizing s with
  | nil => rfl
  | cons h rest ih => rw [State.released, ih]; rfl

@[simp] theorem released_refs (s : State) (l : List Nat) : (s.released l).img.refs = s.img.refs := by
  induction l generalizing s with
  | nil => rfl
  | cons h rest ih => rw [State.released, ih]; rfl

theorem assocGet_filter_ne {β : Type} (l : List (Nat × β)) (h : Nat) : assocGet (l.filter fun e => e.1 != h) h = none := by
  induction l with
  | nil => rfl
  | cons e rest ih =>
    obtain ⟨k, v⟩ := e
    by_cases hk : k = h
    · simp [hk, ih]
    · simp [assocGet, hk, ih]

/-- A released buffer is gone. -/
theorem assocGet_released_gone {k : Nat} {l : List Nat} (hk : k ∈ l) : assocGet (s.released l).img.bufs k = none := by
  induction l generalizing s with
  | nil => cases hk
  | cons h rest ih =>
    rw [State.released]
    by_cases hrest : k ∈ rest
    · exact ih hrest
    · rw [assocGet_released hrest]
      rcases List.mem_cons.1 hk with rfl | hk
      · exact assocGet_filter_ne _ _
      · exact absurd hk hrest

@[simp] theorem putSample_next (h x y : Nat) (v : Sample) : (s.putSample h x y v).img.next = s.img.next := by
  unfold State.putSample
  split
  · rfl
  · split <;> rfl

@[simp] theorem putSample_refs (h x y : Nat) (v : Sample) : (s.putSample h x y v).img.refs = s.img.refs := by
  unfold State.putSample
  split
  · rfl
  · split <;> rfl

section

variable {h w ht : Nat} {g : Nat × Nat → Int} {ps : List (Nat × Nat)}

theorem paint_eq (s : State) (h : Nat) (g : Nat × Nat → Int) (ps : List (Nat × Nat)) :
    s.paint h g ps = s.setImg fun _ => (s.paint h g ps).img := by
  induction ps generalizing s with
  | nil => rfl
  | cons p rest ih => rw [paint_cons, ih, putSample_eq]; rfl

@[simp] theorem paint_next : (s.paint h g ps).img.next = s.img.next := by
  induction ps generalizing s with
  | nil => rfl
  | cons p rest ih => rw [paint_cons, ih, putSample_next]

@[simp] theorem paint_refs : (s.paint h g ps).img.refs = s.img.refs := by
  induction ps generalizing s with
  | nil => rfl
  | cons p rest ih => rw [paint_cons, ih, putSample_refs]

/-- Painting one's own buffer leaves every other one. -/
theorem State.Sole.assocGet_paint (hs : s.Sole h w ht) (hps : Inside w ht ps) {k : Nat} (hk : k ≠ h) :
    assocGet (s.paint h g ps).img.bufs k = assocGet s.img.bufs k := by
  induction ps generalizing s with
  | nil => rfl
  | cons p rest ih =>
    obtain ⟨⟨hx, hy⟩, hrest⟩ := List.forall_mem_cons.1 hps
    obtain ⟨b, hb, heq⟩ := hs.putSample_eq hx hy (.int (g p))
    rw [paint_cons, ih (hs.putSample hx hy _) hrest, heq, State.setImg_img, assocGet_assocSet, if_neg hk]

end

/-! ### Reading hangs on the buffers alone -/

theorem sample_of_img {t : State} (h : t.img = s.img) : t.sample = s.sample := by
  funext k x y
  unfold State.sample State.sampleIn State.cell
  rw [h]

theorem intAt_of_img {t : State} (h : t.img = s.img) : t.intAt = s.intAt := by
  funext k x y
  exact intAt_congr (by rw [sample_of_img h])

/-! ### Squeeze -/

theorem length_unsqueeze (before : Option Int) {la lr : List Int} (h1 : lr.length ≤ la.length) (h2 : la.length ≤ lr.length + 1) :
    (unsqueeze before la lr).length = la.length + lr.length := by
  induction before, la, lr using unsqueeze.induct with
  | case1 before lr => simp_all [unsqueeze]
  | case2 before a more => simp_all [unsqueeze]
  | case3 before a more r rest d first ih =>
    simp only [List.length_cons] at h1 h2
    simp only [unsqueeze, List.length_cons]
    rw [ih (by omega) (by omega)]
    omega

/-- A line of averages and one of residuals of the right lengths give a line of the output. -/
theorem rebuilds_unsqueeze {p : Params} {n : Nat} {avg res : Option (List Int)} {la lr : List Int} (ha : avg = some la)
    (hr : res = some lr) (hla : la.length = (n + 1) / 2) (hlr : lr.length = n / 2)
    (hfits : ∀ v ∈ unsqueeze none la lr, fitsSample p v = true) : Rebuilds p n avg res (unsqueeze none la lr) :=
  ⟨by rw [length_unsqueeze none (by omega) (by omega)]; omega, hfits, la, lr, ha, hr, rfl⟩

section

variable {img : ModImage} {a r : Nat} {ca cr : Channel} {ba br : Buffer}

/-- The state a squeeze leaves: only the buffers and the channel list have changed. -/
theorem canvas_state_eq (himg : s.mod.image = some img) (w ht : Nat) (g : Nat × Nat → Int) (ps : List (Nat × Nat))
    (gone : List Nat) (c : Channel) :
    (((s.canvas w ht g ps).setMod (replaced a r c)).released gone).setRet .none =
      { s with
        img := (((s.canvas w ht g ps).setMod (replaced a r c)).released gone).img
        mod := { s.mod with image := some { img with channels := splice a r [c] 0 img.channels } }
        ret := .none } := by
  rw [released_eq, State.canvas, paint_eq]
  simp only [State.setImg, State.setMod, State.setRet, State.allocated, replaced, himg, Option.map_some]

theorem canvas_onlyReplaced (ho : Operands s img a r ca cr ba br) {w ht : Nat} {g : Nat × Nat → Int} {ps : List (Nat × Nat)}
    (hps : Inside w ht ps) (f : Modular → Modular) :
    OnlyReplaced s (((s.canvas w ht g ps).setMod f).released [ca.buf, cr.buf]).img ca.buf cr.buf 1 := by
  refine ⟨assocGet_released_gone (by simp), assocGet_released_gone (by simp), ?_, ?_, ?_⟩
  · rw [released_next, State.setMod_img, State.canvas, paint_next]
    rfl
  · rw [released_refs, State.setMod_img, State.canvas, paint_refs]
    rfl
  · intro h hlt hu hv
    rw [assocGet_released (by simp [hu, hv]), State.setMod_img, State.canvas,
      (sole_allocated ho.handles w ht).assocGet_paint hps hlt.ne, assocGet_allocated_other hlt.ne]

theorem exec_mHsqueeze_leaves (ho : Operands s img a r ca cr ba br) {w : Nat} {x : Nat → List Int} (hwa : ba.width = (w + 1) / 2)
    (hwr : br.width = w / 2) (hh : ba.height = br.height) (hg : s.grants s.img.next (w, ba.height, .int) = true)
    (hx : ∀ y, y < ba.height →
      Rebuilds s.inp.params w (s.intRow ca.buf ba.width y) (s.intRow cr.buf br.width y) (x y)) :
    ∃ b : Buffers,
      exec (.mHsqueeze a r w) s = .next
        { s with
          img := b
          mod := { s.mod with image := some { img with channels :=
            (splice a r [{ ca with buf := s.img.next, hshift := ca.hshift - 1 }] 0 img.channels) } }
          ret := .none } ∧
      OnlyReplaced s b ca.buf cr.buf 1 ∧ ∀ y, y < ba.height → (withImg s b).intRow s.img.next w y = some (x y) := by
  have hexec := runUnit_ok (undoHsqueeze_ok ho hwa hwr hh hg hx)
  obtain ⟨t, ht, -, hrows⟩ := exec_mHsqueeze_rebuilds ho hwa hwr hh hg hx
  have hte := Host.Outcome.next.inj (ht.symm.trans hexec)
  have hin := (lines_ofRows w ba.height x).inside_all fun j hj => (hx j hj).1
  refine ⟨_, hexec.trans (congrArg _ (canvas_state_eq ho.image _ _ _ _ _ _)), canvas_onlyReplaced ho hin _, fun y hy => ?_⟩
  rw [← hrows y hy]
  unfold State.intRow
  rw [intAt_of_img (t := t) (s := withImg s _) (by rw [hte]; rfl)]

theorem exec_mVsqueeze_leaves (ho : Operands s img a r ca cr ba br) {h : Nat} {x : Nat → List Int} (hha : ba.height = (h + 1) / 2)
    (hhr : br.height = h / 2) (hw : ba.width = br.width) (hg : s.grants s.img.next (ba.width, h, .int) = true)
    (hx : ∀ j, j < ba.width →
      Rebuilds s.inp.params h (s.intColumn ca.buf ba.height j) (s.intColumn cr.buf br.height j) (x j)) :
    ∃ b : Buffers,
      exec (.mVsqueeze a r h) s = .next
        { s with
          img := b
          mod := { s.mod with image := some { img with channels :=
            (splice a r [{ ca with buf := s.img.next, vshift := ca.vshift - 1 }] 0 img.channels) } }
          ret := .none } ∧
      OnlyReplaced s b ca.buf cr.buf 1 ∧ ∀ j, j < ba.width → (withImg s b).intColumn s.img.next h j = some (x j) := by
  have hexec := runUnit_ok (undoVsqueeze_ok ho hha hhr hw hg hx)
  obtain ⟨t, ht, -, hcols⟩ := exec_mVsqueeze_rebuilds ho hha hhr hw hg hx
  have hte := Host.Outcome.next.inj (ht.symm.trans hexec)
  have hin := (lines_ofColumns ba.width h x).inside_all fun j hj => (hx j hj).1
  refine ⟨_, hexec.trans (congrArg _ (canvas_state_eq ho.image _ _ _ _ _ _)), canvas_onlyReplaced ho hin _, fun j hj => ?_⟩
  rw [← hcols j hj]
  unfold State.intColumn
  rw [intAt_of_img (t := t) (s := withImg s _) (by rw [hte]; rfl)]

theorem undoHsqueeze_trap {n : Nat} (himg : s.mod.image = some img) (ha : ChannelIs s img a ca ba) (hr : ChannelIs s img r cr br)
    (hbad : ba.width ≠ (n + 1) / 2 ∨ br.width ≠ n / 2) : undoHsqueeze a r n s = .error (.fatal .transform) s := by
  rw [undoHsqueeze, Op.bind_ok (operandChannel_ok himg ha), Op.bind_ok (operandChannel_ok himg hr), Op.check_bind_of_not]
  simp only [Bool.and_eq_true, decide_eq_true_eq]
  tauto

theorem undoVsqueeze_trap {n : Nat} (himg : s.mod.image = some img) (ha : ChannelIs s img a ca ba) (hr : ChannelIs s img r cr br)
    (hbad : ba.height ≠ (n + 1) / 2 ∨ br.height ≠ n / 2) : undoVsqueeze a r n s = .error (.fatal .transform) s := by
  rw [undoVsqueeze, Op.bind_ok (operandChannel_ok himg ha), Op.bind_ok (operandChannel_ok himg hr), Op.check_bind_of_not]
  simp only [Bool.and_eq_true, decide_eq_true_eq]
  tauto

end

/-- Settles O51: the lines are rebuilt into a buffer of its own, which takes the averages' place. -/
theorem squeezeChannels : Obligations.SqueezeChannels := by
  refine ⟨?_, ?_, ?_⟩
  · intro s img a r w ca cr ba br la lr himg hhandles har ha hr _ hwa hwr hh hg hx
    refine exec_mHsqueeze_leaves ⟨himg, hhandles, har, ha, hr⟩ hwa hwr hh hg fun y hy => ?_
    obtain ⟨hla, hlr, hfits⟩ := hx y hy
    have hlena := allSome_length hla
    have hlenr := allSome_length hlr
    simp only [List.length_map, List.length_range] at hlena hlenr
    exact rebuilds_unsqueeze hla hlr (hlena.trans hwa) (hlenr.trans hwr) hfits
  · intro s img a r h ca cr ba br la lr himg hhandles har ha hr _ hha hhr hw hg hx
    refine exec_mVsqueeze_leaves ⟨himg, hhandles, har, ha, hr⟩ hha hhr hw hg fun j hj => ?_
    obtain ⟨hla, hlr, hfits⟩ := hx j hj
    have hlena := allSome_length hla
    have hlenr := allSome_length hlr
    simp only [List.length_map, List.length_range] at hlena hlenr
    exact rebuilds_unsqueeze hla hlr (hlena.trans hha) (hlenr.trans hhr) hfits
  · intro s img a r n ca cr ba br himg ha hr
    exact ⟨fun hbad => runUnit_fatal (undoHsqueeze_trap himg ha hr hbad), fun hbad =>
      runUnit_fatal (undoVsqueeze_trap himg ha hr hbad)⟩

end Sys2Proof.Machine

/-! The pixels of a Modular channel (44_modular.md R287 to R296). -/

namespace Sys2Proof.Machine

open Sys2Proof.Claims

variable {s : State}

/-! ### What hangs on the buffers alone -/

theorem neighbourIs_of_img {t : State} (h : t.img = s.img) : t.neighbourIs = s.neighbourIs := by
  funext k c x y v
  unfold State.neighbourIs
  rw [intAt_of_img h]

theorem neighboursAre_of_img {t : State} (h : t.img = s.img) {k w x y : Nat} {r : RawNeighbours} (hr : s.neighboursAre k w x y r) :
    t.neighboursAre k w x y r := by
  obtain ⟨h1, h2, h3, h4, h5, h6, h7⟩ := hr
  constructor <;> rw [neighbourIs_of_img h] <;> assumption

theorem prevChannels_of_img {t : State} (h : t.img = s.img) (w ht : Nat) (l : List Channel) :
    prevChannels w ht t l = prevChannels w ht s l := by
  unfold prevChannels
  rw [h]

/-- The neighbours of a pixel, asked in a state with the same buffers. -/
theorem neighboursAt_of_img {t : State} (himg : t.img = s.img) (hinp : t.inp = s.inp) {ch k x y : Nat} {b : Buffer}
    {r : RawNeighbours} (hb : assocGet s.img.bufs k = some b) (hr : s.neighboursAre k b.width x y r) :
    neighboursAt ch k x y t = .ok (Cfg.neighbours s.inp.params (ch, x, y) r) t := by
  rw [neighboursAt_ok (b := b) (by rw [himg]; exact hb) (neighboursAre_of_img himg hr), hinp]

theorem getModImage_ok {img : ModImage} (h : s.mod.image = some img) : getModImage s = .ok img s := by
  rw [getModImage, Op.bind_ok (getState_apply s), h, present_some]

theorem getChannel_ok {img : ModImage} {ch : Nat} {c : Channel} (h : s.mod.image = some img) (hc : img.channels[ch]? = some c) :
    getChannel ch s = .ok c s := by
  rw [getChannel, Op.bind_ok (getModImage_ok h), hc, present_some]

/-- The state with the weighted predictor run at a pixel, where it is tracked. -/
def State.predicted (s : State) (nb : Neighbours) (x y : Nat) : State :=
  s.setMod fun m => { m with wp := m.wp.map fun wp => wp.predict s.inp.params nb x y }

theorem wpAt_ok {ch k x y : Nat} {nb : Neighbours} (h : neighboursAt ch k x y s = .ok nb s) :
    wpAt ch k x y s = .ok () (s.predicted nb x y) := by
  rw [wpAt, Op.bind_ok h]
  rfl

/-! ### M.PROPS -/

theorem collect_forall₂_ok {α β : Type} {R : α → β → Prop} {f : α → Op β} {l : List α} {vs : List β} (h : List.Forall₂ R l vs)
    (hf : ∀ a v, R a v → f a s = .ok v s) : collect l f s = .ok vs s := by
  induction h with
  | nil => rfl
  | cons hr _ ih => exact collect_cons_ok (hf _ _ hr) ih

/-- The end of M.PROPS, once the neighbours and the gradient at the left are known. -/
def finishProps (img : ModImage) (b : Buffer) (ch x y : Nat) (nb : Neighbours) (leftGrad : Int) : Op (List Int) := do
  let s ← getState
  let prev ← collect (prevChannels b.width b.height s (img.channels.take ch)) fun q => do
    let v ← getInt q.1.buf x y
    let n ← neighboursAt q.2 q.1.buf x y
    pure (v, n)
  pure (Cfg.propertyTable s.inp.params
    { channel := ch, stream := img.stream, x := x, y := y, nb := nb, leftGrad := leftGrad
      wpPred := match s.mod.wp with
        | some wp => wp.pred
        | none => (Config.untrackedWp (ch, x, y)).1
      wpError := match s.mod.wp with
        | some wp => wp.prop
        | none => (Config.untrackedWp (ch, x, y)).2
      prev := prev })

theorem finishProps_ok {t : State} (himg : t.img = s.img) (hinp : t.inp = s.inp) {img : ModImage} {b : Buffer} {ch x y : Nat}
    {prev : List (Int × Neighbours)} (nb : Neighbours) (leftGrad : Int)
    (hp : List.Forall₂ (PrevSample s x y) (prevChannels b.width b.height s (img.channels.take ch)) prev) :
    finishProps img b ch x y nb leftGrad t = .ok (Cfg.propertyTable s.inp.params
      { channel := ch, stream := img.stream, x := x, y := y, nb := nb, leftGrad := leftGrad
        wpPred := (t.mod.wp.map Wp.pred).getD (Config.untrackedWp (ch, x, y)).1
        wpError := (t.mod.wp.map Wp.prop).getD (Config.untrackedWp (ch, x, y)).2, prev := prev }) t := by
  have hcollect : collect (prevChannels b.width b.height t (img.channels.take ch)) (fun q => do
      let v ← getInt q.1.buf x y
      let n ← neighboursAt q.2 q.1.buf x y
      pure (v, n)) t = .ok prev t := by
    rw [prevChannels_of_img himg]
    refine collect_forall₂_ok hp fun q e hq => ?_
    obtain ⟨bq, r, hb, hz, hr, hn⟩ := hq
    rw [Op.bind_ok (getInt_ok (by rw [intAt_of_img himg]; exact hz)), Op.bind_ok (neighboursAt_of_img himg hinp hb hr), ← hn]
    rfl
  rw [finishProps, Op.bind_ok (getState_apply t), Op.bind_ok hcollect, hinp]
  cases t.mod.wp <;> rfl

/-- The state once M.PROPS has named the pixel and run the weighted predictor at it. -/
def State.atPixel (s : State) (ch x y : Nat) (nb : Neighbours) : State :=
  (s.setMod fun m => { m with cur := (ch, x, y) }).predicted nb x y

/-- M.PROPS up to the previous channels. -/
theorem pixelProps_eq {img : ModImage} {ch x y : Nat} {c : Channel} {b : Buffer} {r rl : RawNeighbours} {nb nl : Neighbours}
    (hp : PixelAt s img ch x y c b r) (hnb : nb = Cfg.neighbours s.inp.params (ch, x, y) r)
    (hrl : 0 < x → s.neighboursAre c.buf b.width (x - 1) y rl) (hnl : nl = Cfg.neighbours s.inp.params (ch, x - 1, y) rl) :
    pixelProps ch x y s =
      finishProps img b ch x y nb (if x = 0 then 0 else nl.w + nl.n - nl.nw) (s.atPixel ch x y nb) := by
  obtain ⟨himg, hch, hb, hr⟩ := hp
  subst hnb hnl
  have hnamed := neighboursAt_of_img (s := s) (t := s.setMod fun m => { m with cur := (ch, x, y) }) (ch := ch) rfl rfl hb hr
  have hat := neighboursAt_of_img (s := s) (t := s.atPixel ch x y (Cfg.neighbours s.inp.params (ch, x, y) r)) (ch := ch)
    rfl rfl hb hr
  rw [pixelProps, Op.bind_ok (getModImage_ok himg), Op.bind_ok (getChannel_ok himg hch), Op.bind_ok (getBuf_ok hb),
    Op.bind_ok (upd_apply _ s), Op.bind_ok (wpAt_ok hnamed), ← State.atPixel, Op.bind_ok hat]
  by_cases hx : x = 0
  · simp only [if_pos hx]
    rfl
  · simp only [if_neg hx]
    exact Op.bind_ok (neighboursAt_of_img (s := s) (t := s.atPixel ch x y (Cfg.neighbours s.inp.params (ch, x, y) r)) rfl rfl
      hb (hrl (Nat.pos_of_ne_zero hx))) _

/-- Settles O47: the neighbours, the weighted predictor's outputs and the previous channels make the property list. -/
theorem pixelProperties : Obligations.PixelProperties := by
  rintro s img ch x y c b r rl nb nl prev wp hp hnb hrl hnl hprev rfl
  have hprops := (pixelProps_eq hp hnb hrl hnl).trans
    (finishProps_ok (s := s) (t := s.atPixel ch x y nb) rfl rfl _ _ hprev)
  have hexec : exec (.mProps ch x y) s = .next ((s.atPixel ch x y nb).setRet (.props _)) := run_ok (Op.bind_ok hprops _)
  exact hexec

/-! ### M.PREDICT -/

theorem wpPixel_ok {pr : Predictor} (h : pr = .weighted → s.mod.wp ≠ none) (at_ : Nat × Nat × Nat) :
    wpPixel pr at_ s = .ok (match s.mod.wp with
       | some wp => Cfg.wpUnscale s.inp.params wp.pred
       | none => Cfg.wpUnscale s.inp.params (Config.untrackedWp at_).1) s := by
  rw [wpPixel, Op.bind_ok (getState_apply s)]
  cases hw : s.mod.wp with
  | some wp => rfl
  | none =>
    dsimp only
    rw [if_neg fun hpr => h hpr hw]
    rfl

/-- Settles O48: the prediction, the residual read, and the value stored where it fits. -/
theorem pixelPrediction : Obligations.PixelPrediction := by
  rintro s s' img ch x y u c b r leaf props guess value hcur ⟨himg, hch, hb, hr⟩ hread rfl hwp hvalue
  have hkept := ((SameButReading.kept (.modular) s).readValue leaf.ctx).of_ok (sameButReading_refl _ s) hread
  have hpredict : predictPixel leaf s = (do
      putInt c.buf x y value
      pure value : Op Int) s' := by
    rw [predictPixel, Op.bind_ok (getState_apply s), hcur, Op.bind_ok (getChannel_ok himg hch),
      Op.bind_ok (neighboursAt_ok hb hr), Op.bind_ok (wpPixel_ok hwp _), Op.bind_ok (getParams_apply s), Op.bind_ok hread, hvalue]
    rfl
  have hput : putInt c.buf x y value s' = (do
      check (fitsSample s.inp.params value) .format
      writeSample c.buf x y (.int value) : Op Unit) s' := by
    rw [putInt, Op.bind_ok (getParams_apply s'), hkept.params]
  refine ⟨fun hfits hcan => ?_, fun hfits => ?_⟩
  · have hcan' : s'.canWrite .int c.buf x y = true := by
      unfold State.canWrite State.cell at hcan ⊢
      rwa [hkept.img]
    have hstored : putInt c.buf x y value s' = .ok () (s'.putSample c.buf x y (.int value)) := by
      rw [hput, Op.bind_ok (check_ok hfits _ s'), writeSample_ok hcan']
    exact exec_commits (Op.bind_ok (hpredict.trans (Op.bind_ok hstored _)) _)
  · have hrejected : putInt c.buf x y value s' = .error (.fatal .format) s' := by
      rw [hput, Op.bind_error (check_trap hfits _ s')]
    exact exec_traps (Op.bind_error (hpredict.trans (Op.bind_error hrejected _)) _)

/-! ### The weighted predictor -/

theorem largestError_mem (best : Int) (l : List Int) : largestError best l ∈ best :: l := by
  induction l generalizing best with
  | nil => exact List.mem_singleton.2 rfl
  | cons e rest ih =>
    rw [largestError]
    rcases List.mem_cons.1 (ih (if best.natAbs < e.natAbs then e else best)) with h | h
    · rw [h]
      split
      · exact .tail _ (.head _)
      · exact .head _
    · exact .tail _ (.tail _ h)

theorem natAbs_le_largestError (best : Int) (l : List Int) : ∀ e ∈ best :: l, e.natAbs ≤ (largestError best l).natAbs := by
  induction l generalizing best with
  | nil => intro e he; rw [List.mem_singleton.1 he]; exact Nat.le_refl _
  | cons a rest ih =>
    intro e he
    rw [largestError]
    have hbest := ih (if best.natAbs < a.natAbs then a else best)
    have hhead := hbest _ (.head _)
    have hmax : best.natAbs ≤ (if best.natAbs < a.natAbs then a else best).natAbs ∧
        a.natAbs ≤ (if best.natAbs < a.natAbs then a else best).natAbs := by
      split <;> omega
    rcases List.mem_cons.1 he with rfl | he
    · exact hmax.1.trans hhead
    · rcases List.mem_cons.1 he with rfl | he
      · exact hmax.2.trans hhead
      · exact hbest _ (.tail _ he)

theorem columnOf_getD (l : List Int) (c : Bool) (x : Nat) : (columnOf l c x).getD 0 = if c then (l[x]?).getD 0 else 0 := by
  cases c <;> rfl

/-- The true errors M.WP looks at are those recorded at the neighbours. -/
theorem prop_predict (p : Params) (wp : Wp) (nb : Neighbours) (x y : Nat) :
    ∃ best rest, neighbourErrors wp x y = best :: rest ∧ (wp.predict p nb x y).prop = largestError best rest := by
  refine ⟨_, _, rfl, ?_⟩
  simp only [Wp.predict, Wp.input, columnOf_getD, Bool.and_eq_true, decide_eq_true_eq]
  rfl

theorem est_predict (p : Params) (wp : Wp) (nb : Neighbours) (x y : Nat) :
    (wp.predict p nb x y).est[0]? = some (Cfg.wpScale p nb.w + Cfg.wpScale p nb.ne - Cfg.wpScale p nb.n) := rfl

theorem getWp_ok {wp : Wp} (h : s.mod.wp = some wp) : getWp s = .ok wp s := by
  rw [getWp, Op.bind_ok (getState_apply s), h, present_some]

theorem exec_mWp {wp : Wp} {img : ModImage} {x y : Nat} {c : Channel} {b : Buffer} {r : RawNeighbours}
    (hwp : s.mod.wp = some wp) (hp : PixelAt s img s.mod.cur.1 x y c b r) :
    exec (.mWp x y) s = .next { s with
      mod := { s.mod with wp := some (wp.predict s.inp.params (Cfg.neighbours s.inp.params (s.mod.cur.1, x, y) r) x y) }
      ret := .pair (wp.predict s.inp.params (Cfg.neighbours s.inp.params (s.mod.cur.1, x, y) r) x y).pred
        (wp.predict s.inp.params (Cfg.neighbours s.inp.params (s.mod.cur.1, x, y) r) x y).prop } := by
  obtain ⟨himg, hch, hb, hr⟩ := hp
  have hat := wpAt_ok (neighboursAt_ok (ch := s.mod.cur.1) hb hr)
  have hafter : (s.predicted (Cfg.neighbours s.inp.params (s.mod.cur.1, x, y) r) x y).mod.wp =
      some (wp.predict s.inp.params (Cfg.neighbours s.inp.params (s.mod.cur.1, x, y) r) x y) := by
    simp only [State.predicted, State.setMod_mod, hwp, Option.map_some]
  refine (run_ok ((Op.bind_ok (getWp_ok hwp) _).trans ((Op.bind_ok (getChannel_ok himg hch) _).trans
    ((Op.bind_ok hat _).trans (Op.bind_ok (getWp_ok hafter) _))))).trans ?_
  simp only [State.predicted, State.setMod, State.setRet, hwp, Option.map_some]

theorem exec_mWpUpdate {wp : Wp} (x y : Nat) (value : Int) (hwp : s.mod.wp = some wp) :
    exec (.mWpUpdate x y value) s =
      .next { s with mod := { s.mod with wp := some (wp.update s.inp.params x value) }, ret := .none } := by
  refine (runUnit_ok ((Op.bind_ok (getWp_ok hwp) _).trans (upd_apply _ s))).trans ?_
  simp only [State.setMod, State.setRet, hwp, Option.map_some]

/-- Within a row the errors go to the current row and, at the next column, to the previous one. -/
theorem update_within {p : Params} {wp : Wp} {x : Nat} {value : Int} (hx : x + 1 ≠ wp.width) :
    (wp.update p x value).errCur = wp.errCur.set x (wp.pred - Cfg.wpScale p value) ∧
    (wp.update p x value).errPrev = wp.errPrev ∧
    ∀ (i : Nat) (e : Int) (now before : List Nat), wp.est[i]? = some e → wp.accCur[i]? = some now →
      wp.accPrev[i]? = some before →
      (wp.update p x value).accCur[i]? = some (now.set x (Cfg.wpErr p (e - Cfg.wpScale p value).natAbs)) ∧
      (wp.update p x value).accPrev[i]? = some (before.set (x + 1) ((before[x + 1]?).getD 0 +
        Cfg.wpErr p (e - Cfg.wpScale p value).natAbs)) := by
  rw [Wp.update, if_neg hx]
  refine ⟨rfl, rfl, fun i e now before he hn hb => ?_⟩
  simp only [List.getElem?_zipWith, List.getElem?_map, he, hn, hb, Option.map_some]
  exact ⟨trivial, rfl⟩

/-- At a row's end the rows are swapped and the new current one is zero. -/
theorem update_end {p : Params} {wp : Wp} {x : Nat} {value : Int} (hx : x + 1 = wp.width) :
    (wp.update p x value).errPrev = wp.errCur.set x (wp.pred - Cfg.wpScale p value) ∧
    (wp.update p x value).errCur = List.replicate wp.width 0 ∧
    (wp.update p x value).accCur = List.replicate 4 (List.replicate wp.width 0) ∧
    ∀ (i : Nat) (e : Int) (now : List Nat), wp.est[i]? = some e → wp.accCur[i]? = some now →
      (wp.update p x value).accPrev[i]? = some (now.set x (Cfg.wpErr p (e - Cfg.wpScale p value).natAbs)) := by
  rw [Wp.update, if_pos hx]
  refine ⟨rfl, rfl, rfl, fun i e now he hn => ?_⟩
  simp only [List.getElem?_zipWith, List.getElem?_map, he, hn, Option.map_some]

/-! ### A larger error gives no larger weight (R294) -/

/-- Accumulators missing in the same places, none of them smaller. -/
def NoSmaller (acc more : List (Option Nat)) : Prop := List.Forall₂ (Option.Rel fun a b => a ≤ b) acc more

theorem wpDiv_anti {a b : Nat} (h : a ≤ b) : Usual.wpDiv b ≤ Usual.wpDiv a :=
  Nat.div_le_div_left (Nat.succ_le_succ h) (Nat.succ_pos a)

/-- The usual weight of a maximal weight `m` and an accumulated error `e`. -/
def usualWeight (m e : Nat) : Nat := 4 + m * Usual.wpDiv (e / 2 ^ (Nat.log2 (e + 1) - 5)) / 2 ^ (Nat.log2 (e + 1) - 5)

/-- Where the shift grows with the error, the quotient falls from at most 63 to 31, which halves the divided value as the
shift doubles the divisor. -/
theorem usualWeight_succ_le (m e : Nat) : usualWeight m (e + 1) ≤ usualWeight m e := by
  have hlo : 2 ^ Nat.log2 (e + 1) ≤ e + 1 := Nat.log2_self_le (by omega)
  have hhi : e + 1 < 2 ^ (Nat.log2 (e + 1) + 1) := Nat.lt_log2_self
  by_cases hsame : Nat.log2 (e + 1 + 1) - 5 = Nat.log2 (e + 1) - 5
  · unfold usualWeight
    rw [hsame]
    exact Nat.add_le_add_left (Nat.div_le_div_right (Nat.mul_le_mul_left _
      (wpDiv_anti (Nat.div_le_div_right (Nat.le_succ e))))) _
  · have hlo' : 2 ^ Nat.log2 (e + 1 + 1) ≤ e + 1 + 1 := Nat.log2_self_le (by omega)
    have hmono : Nat.log2 (e + 1) ≤ Nat.log2 (e + 1 + 1) := (Nat.le_log2 (by omega)).2 (by omega)
    have hstep : Nat.log2 (e + 1 + 1) ≤ Nat.log2 (e + 1) + 1 := by
      by_contra hgt
      have hpow : 2 ^ (Nat.log2 (e + 1) + 2) ≤ 2 ^ Nat.log2 (e + 1 + 1) := Nat.pow_le_pow_right (by omega) (by omega)
      rw [Nat.pow_succ] at hpow
      omega
    obtain ⟨k, hk, hk'⟩ : ∃ k, Nat.log2 (e + 1) = k + 5 ∧ Nat.log2 (e + 1 + 1) = k + 6 :=
      ⟨Nat.log2 (e + 1) - 5, by omega, by omega⟩
    rw [hk] at hlo hhi
    rw [hk'] at hlo'
    have h5 : 2 ^ (k + 6) = 64 * 2 ^ k := by ring
    have h6 : 2 ^ (k + 5 + 1) = 64 * 2 ^ k := by ring
    have h1 : 2 ^ (k + 1) = 2 * 2 ^ k := by ring
    have hpos : 0 < 2 ^ k := Nat.two_pow_pos k
    have he : e + 2 = 64 * 2 ^ k := by omega
    have hq : e / 2 ^ k ≤ 63 := Nat.le_of_lt_succ (Nat.div_lt_of_lt_mul (by omega))
    have hq' : (e + 1) / 2 ^ (k + 1) = 31 := by
      rw [Nat.div_eq_iff (by omega)]
      omega
    have hdiv : 2 ^ 18 ≤ Usual.wpDiv (e / 2 ^ k) := wpDiv_anti hq
    unfold usualWeight
    rw [hk, hk', show k + 6 - 5 = k + 1 by omega, show k + 5 - 5 = k by omega, hq', h1, Nat.mul_comm 2, ← Nat.div_div_eq_div_mul]
    refine Nat.add_le_add_left ?_ _
    calc m * Usual.wpDiv 31 / 2 ^ k / 2 = m * 2 ^ 18 * 2 / 2 / 2 ^ k := by
          rw [Nat.div_div_eq_div_mul, Nat.mul_comm (2 ^ k), ← Nat.div_div_eq_div_mul, Nat.mul_assoc]
          rfl
      _ = m * 2 ^ 18 / 2 ^ k := by rw [Nat.mul_div_cancel _ (by omega)]
      _ ≤ m * Usual.wpDiv (e / 2 ^ k) / 2 ^ k := Nat.div_le_div_right (Nat.mul_le_mul_left _ hdiv)

theorem usualWeight_anti (m : Nat) : Antitone (usualWeight m) := antitone_nat_of_succ_le (usualWeight_succ_le m)

/-- The accumulated error the usual weight is taken of, from the accumulators at N, NE, NW. -/
def accumulated (l : List (Option Nat)) : Nat :=
  ((l[0]?).getD none).getD 0 + ((l[1]?).getD none).getD (((l[0]?).getD none).getD 0) +
    ((l[2]?).getD none).getD (((l[0]?).getD none).getD 0)

theorem usual_wpWeight_eq (m : Nat) (l : List (Option Nat)) : Usual.wpWeight (m, l) = usualWeight m (accumulated l) := rfl

theorem getD_rel {a b : Option Nat} {c d : Nat} (h : Option.Rel (fun x y => x ≤ y) a b) (hcd : c ≤ d) : a.getD c ≤ b.getD d := by
  cases h with
  | some h => exact h
  | none => exact hcd

theorem NoSmaller.entry {acc more : List (Option Nat)} (h : NoSmaller acc more) (i : Nat) :
    Option.Rel (fun x y => x ≤ y) ((acc[i]?).getD none) ((more[i]?).getD none) := by
  induction h generalizing i with
  | nil => exact .none
  | cons hr _ ih =>
    cases i with
    | zero => exact hr
    | succ i => exact ih i

theorem NoSmaller.accumulated {acc more : List (Option Nat)} (h : NoSmaller acc more) :
    accumulated acc ≤ Machine.accumulated more := by
  have h0 := getD_rel (h.entry 0) (Nat.le_refl 0)
  exact Nat.add_le_add (Nat.add_le_add h0 (getD_rel (h.entry 1) h0)) (getD_rel (h.entry 2) h0)

theorem rel_trans {a b c : Option Nat} (hab : Option.Rel (fun x y => x ≤ y) a b) (hbc : Option.Rel (fun x y => x ≤ y) b c) :
    Option.Rel (fun x y => x ≤ y) a c := by
  cases hab with
  | none => exact hbc
  | some h =>
    cases hbc with
    | some h' => exact .some (h.trans h')

theorem NoSmaller.trans {a b c : List (Option Nat)} (hab : NoSmaller a b) (hbc : NoSmaller b c) : NoSmaller a c := by
  induction hab generalizing c with
  | nil => exact hbc
  | cons hr _ ih =>
    cases hbc with
    | cons hr' hrest => exact .cons (rel_trans hr hr') (ih hrest)

/-- Whatever the weight function, larger accumulators give no larger weight. -/
theorem wpWeight_anti (p : Params) (m : Nat) {acc more : List (Option Nat)} (h : NoSmaller acc more) :
    Cfg.wpWeight p m more ≤ Cfg.wpWeight p m acc := by
  by_cases hp : p.wpWeight = .usual
  · rw [Cfg.wpWeight, if_pos hp, Cfg.wpWeight, if_pos hp, usual_wpWeight_eq, usual_wpWeight_eq]
    exact usualWeight_anti m h.accumulated
  · refine (le_wpWeight_iff hp).2 fun l hl => ?_
    exact (le_wpWeight_iff hp).1 (Nat.le_refl _) l (mem_noLarger.2 (NoSmaller.trans (mem_noLarger.1 hl) h))

theorem getElem?_rel {row more : List Nat} (h : List.Forall₂ (fun a b => a ≤ b) row more) (i : Nat) :
    Option.Rel (fun x y => x ≤ y) row[i]? more[i]? := by
  induction h generalizing i with
  | nil => exact .none
  | cons hr _ ih =>
    cases i with
    | zero => exact .some hr
    | succ i => exact ih i

theorem columnOf_rel {row more : List Nat} (h : List.Forall₂ (fun a b => a ≤ b) row more) (c : Bool) (i : Nat) :
    Option.Rel (fun x y => x ≤ y) (columnOf row c i) (columnOf more c i) := by
  cases c with
  | false => exact .none
  | true => exact getElem?_rel h i

theorem weight_anti {p : Params} {wp v : Wp} {x i : Nat} {row more : List Nat} (hh : v.header = wp.header) (hw : v.width = wp.width)
    (hrow : wp.accPrev[i]? = some row) (hmore : v.accPrev[i]? = some more) (h : List.Forall₂ (fun a b => a ≤ b) row more) :
    v.weight p x i ≤ wp.weight p x i := by
  simp only [Wp.weight, hh, hw, hrow, hmore, Option.getD_some]
  exact wpWeight_anti p _ (.cons (getElem?_rel h x) (.cons (columnOf_rel h _ _) (.cons (columnOf_rel h _ _) .nil)))

/-- Settles O49: the outputs of the predictor, its update, and the weights, which fall with the accumulated errors. -/
theorem weightedPredictor : Obligations.WeightedPredictor := by
  refine ⟨?_, ?_, ?_⟩
  · rintro s wp v img x y c b r nb hwp hp rfl rfl
    obtain ⟨best, rest, herr, hprop⟩ := prop_predict s.inp.params wp (Cfg.neighbours s.inp.params (s.mod.cur.1, x, y) r) x y
    refine ⟨exec_mWp hwp hp, est_predict _ _ _ _ _, ?_, ?_⟩
    · rw [herr, hprop]
      exact largestError_mem best rest
    · rw [herr, hprop]
      exact natAbs_le_largestError best rest
  · rintro s wp v x y value hwp rfl
    exact ⟨exec_mWpUpdate x y value hwp, update_within, update_end⟩
  · exact fun p wp v x i row more hh hw hrow hmore h => weight_anti hh hw hrow hmore h

end Sys2Proof.Machine

/-! M.TREE (44_modular.md R282 to R284): the loop reads the nodes the statement's runs read, and every tree it completes
with is walked to a leaf. -/

namespace Sys2Proof.Machine

open Sys2Proof.Claims

/-! ### The ranges along a path -/

theorem rangeOf_property (l : List PropRange) (p : Nat) : (rangeOf l p).property = p := by
  induction l with
  | nil => rfl
  | cons r rest ih =>
    rw [rangeOf]
    split
    · assumption
    · exact ih

theorem rangeOf_filter_ne {p q : Nat} (h : p ≠ q) (l : List PropRange) :
    rangeOf (l.filter fun x => decide (x.property ≠ q)) p = rangeOf l p := by
  induction l with
  | nil => rfl
  | cons r rest ih =>
    by_cases hq : r.property = q
    · rw [List.filter_cons_of_neg (by simpa using hq), ih, rangeOf, if_neg fun hp => h (hp.symm.trans hq)]
    · rw [List.filter_cons_of_pos (by simpa using hq), rangeOf, rangeOf, ih]

theorem rangeOf_setRange (l : List PropRange) (r : PropRange) (p : Nat) :
    rangeOf (setRange l r) p = if r.property = p then r else rangeOf l p := by
  rw [setRange, rangeOf]
  by_cases h : r.property = p
  · rw [if_pos h, if_pos h]
  · rw [if_neg h, if_neg h, rangeOf_filter_ne (Ne.symm h)]

theorem splits_iff (r : PropRange) (t : Int) : r.splits t = true ↔ SplitsRange (r.lo, r.hi) t := by
  rcases r with ⟨p, lo, hi⟩
  cases lo <;> cases hi <;> simp [PropRange.splits, SplitsRange]

/-- A waiting node of the loop is one of the statement: same depth, same range of every property. -/
def Refines (w : Waiting) (q : PendingNode) : Prop :=
  w.depth = q.depth ∧ ∀ p, q.range p = ((rangeOf w.ranges p).lo, (rangeOf w.ranges p).hi)

/-- Replacing the range of one property on both sides. -/
theorem Refines.update {w : Waiting} {q : PendingNode} (h : Refines w q) {p : Nat} {r : PropRange} (hr : r.property = p) :
    Refines { ranges := setRange w.ranges r, depth := w.depth + 1 }
      { range := Function.update q.range p (r.lo, r.hi), depth := q.depth + 1 } := by
  refine ⟨congrArg (· + 1) h.1, fun k => ?_⟩
  show Function.update q.range p (r.lo, r.hi) k = _
  rw [rangeOf_setRange, hr]
  by_cases hk : p = k
  · subst hk
    rw [if_pos rfl, Function.update_self]
  · rw [if_neg hk, Function.update_of_ne (Ne.symm hk), h.2 k]

/-! ### One node of the loop -/

section
variable {s a b c d e t : State} {fuel leaves u k o lg bt p z v : Nat} {nodes : List Node} {w : Waiting} {rest : List Waiting}
  {pr : Predictor} {f : TreeField}

theorem treeField_ok (h : FieldRead f s v t) : treeField f s = .ok v t := h

theorem fieldRead_params (h : FieldRead f s v t) : t.inp.params = s.inp.params :=
  (((SameButReading.kept .tree s).readValue _).of_ok (sameButReading_refl .tree s) h).params

theorem scopeOpen_params {sc : ScopeId} (h : scopeOpen sc s = .ok () t) : t.inp.params = s.inp.params :=
  ((keptByCore_untouched (A := fun _ _ _ _ => True) (B := fun q _ => q = s.inp.params)).decoding.scopeOpen sc).of_ok
    ⟨trivial, rfl⟩ h |>.2

theorem readLeaf_noPredictor (hk : FieldRead .predictor b k c) (hpr : Cfg.predictorOf b.inp.params k = none) :
    readLeaf leaves b = .error (.fatal .format) c := by
  unfold readLeaf
  rw [Op.bind_ok (getParams_apply b), Op.bind_ok (treeField_ok hk), hpr]
  rfl

theorem readLeaf_eq (hk : FieldRead .predictor b k c) (hpr : Cfg.predictorOf b.inp.params k = some pr)
    (ho : FieldRead .offset c o d) (hlg : FieldRead .multLog d lg e) (hbt : FieldRead .multBits e bt t) :
    readLeaf leaves b = (check (decide (1 ≤ Cfg.multiplierFrom b.inp.params lg bt)) .format >>= fun _ =>
      pure { predictor := pr, offset := Cfg.unpackSigned b.inp.params o, multiplier := Cfg.multiplierFrom b.inp.params lg bt
             ctx := leaves }) t := by
  unfold readLeaf
  rw [Op.bind_ok (getParams_apply b), Op.bind_ok (treeField_ok hk), hpr]
  show (treeField .offset >>= _) c = _
  rw [Op.bind_ok (treeField_ok ho), Op.bind_ok (treeField_ok hlg), Op.bind_ok (treeField_ok hbt)]

theorem treeLoop_full (h : nodes.length = Cfg.maxTreeNodes a.inp.params) :
    treeLoop (fuel + 1) nodes leaves (w :: rest) a = .error (.fatal .resourceLimit) a := by
  rw [treeLoop, Op.bind_ok (getParams_apply a), Op.bind_error (check_trap (decide_eq_false (by omega)) _ _)]

theorem treeLoop_deep (hlen : nodes.length < Cfg.maxTreeNodes a.inp.params)
    (h : Cfg.maxTreeHeight a.inp.params < w.depth) :
    treeLoop (fuel + 1) nodes leaves (w :: rest) a = .error (.fatal .format) a := by
  rw [treeLoop, Op.bind_ok (getParams_apply a), Op.bind_ok (check_ok (decide_eq_true hlen) _ _),
    Op.bind_error (check_trap (decide_eq_false (by omega)) _ _)]

section
variable (hlen : nodes.length < Cfg.maxTreeNodes a.inp.params) (hdepth : w.depth ≤ Cfg.maxTreeHeight a.inp.params)
  (hu : FieldRead .property a u b)
include hlen hdepth hu

theorem treeLoop_leaf (htag : Cfg.treeTag a.inp.params u = none) :
    treeLoop (fuel + 1) nodes leaves (w :: rest) a =
      (readLeaf leaves >>= fun l => treeLoop fuel (nodes ++ [.leaf l]) (leaves + 1) rest) b := by
  rw [treeLoop, Op.bind_ok (getParams_apply a), Op.bind_ok (check_ok (decide_eq_true hlen) _ _),
    Op.bind_ok (check_ok (decide_eq_true hdepth) _ _), Op.bind_ok (treeField_ok hu), htag]

theorem treeLoop_undefined (htag : Cfg.treeTag a.inp.params u = some p)
    (hp : Cfg.propertyDefined a.inp.params p = false) :
    treeLoop (fuel + 1) nodes leaves (w :: rest) a = .error (.fatal .format) b := by
  rw [treeLoop, Op.bind_ok (getParams_apply a), Op.bind_ok (check_ok (decide_eq_true hlen) _ _),
    Op.bind_ok (check_ok (decide_eq_true hdepth) _ _), Op.bind_ok (treeField_ok hu), htag]
  exact Op.bind_error (check_trap hp _ _) _

theorem treeLoop_split (htag : Cfg.treeTag a.inp.params u = some p) (hp : Cfg.propertyDefined a.inp.params p = true)
    (hz : FieldRead .threshold b z c) :
    treeLoop (fuel + 1) nodes leaves (w :: rest) a =
      (check ((rangeOf w.ranges p).splits (Cfg.unpackSigned a.inp.params z)) .format >>= fun _ =>
        treeLoop fuel (nodes ++ [.split p (Cfg.unpackSigned a.inp.params z) (nodes.length + 1 + rest.length)
            (nodes.length + 1 + rest.length + 1)]) leaves
          (rest ++
            [{ ranges := setRange w.ranges { rangeOf w.ranges p with lo := some (Cfg.unpackSigned a.inp.params z + 1) }
               depth := w.depth + 1 },
             { ranges := setRange w.ranges { rangeOf w.ranges p with hi := some (Cfg.unpackSigned a.inp.params z) }
               depth := w.depth + 1 }])) c := by
  rw [treeLoop, Op.bind_ok (getParams_apply a), Op.bind_ok (check_ok (decide_eq_true hlen) _ _),
    Op.bind_ok (check_ok (decide_eq_true hdepth) _ _), Op.bind_ok (treeField_ok hu), htag]
  show (check _ _ >>= _) b = _
  rw [Op.bind_ok (check_ok hp _ _), Op.bind_ok (treeField_ok hz)]

end

end

/-! ### The loop follows the runs -/

/-- What M.TREE does once its loop has read the nodes. -/
def closeTree (tree : Tree) : Op Tree := do
  scopeFinal .tree
  scopeDrop .tree
  pure tree

/-- M.TREE from `s` stands in `a` with these nodes read and a queue that refines this one. -/
def Reached (s a : State) (nodes : Tree) (queue : List PendingNode) : Prop :=
  a.inp.params = s.inp.params ∧ nodes.length ≤ Cfg.maxTreeNodes s.inp.params ∧
    ∃ ws, List.Forall₂ Refines ws queue ∧
      decodeTree s = (treeLoop (Cfg.maxTreeNodes s.inp.params + 1 - nodes.length) nodes (leavesIn nodes) ws >>= closeTree) a

theorem leavesIn_leaf (nodes : Tree) (l : Leaf) : leavesIn (nodes ++ [.leaf l]) = leavesIn nodes + 1 := by
  simp [leavesIn, List.countP_append]

theorem leavesIn_split (nodes : Tree) (p a b : Nat) (t : Int) : leavesIn (nodes ++ [.split p t a b]) = leavesIn nodes := by
  simp [leavesIn, List.countP_append]

section
variable {s a b c d e t : State} {u k o lg bt p z : Nat} {nodes : Tree} {q : PendingNode} {rest : List PendingNode}
  {pr : Predictor}

theorem reached_start (h : scopeOpen .tree s = .ok () t) :
    Reached s t [] [{ range := fun _ => (none, none), depth := 1 }] := by
  refine ⟨scopeOpen_params h, Nat.zero_le _, [{ ranges := [], depth := 1 }], .cons ⟨rfl, fun _ => rfl⟩ .nil, ?_⟩
  unfold decodeTree
  rw [Op.bind_ok (getParams_apply s), Op.bind_ok h]
  rfl

/-- The loop at a node that waits: one step of fuel is left, and the rest of it is there for the nodes after. -/
theorem Reached.next (h : Reached s a nodes (q :: rest)) :
    ∃ w ws, Refines w q ∧ List.Forall₂ Refines ws rest ∧ a.inp.params = s.inp.params ∧
      decodeTree s = (treeLoop (Cfg.maxTreeNodes s.inp.params - nodes.length + 1) nodes (leavesIn nodes) (w :: ws) >>=
        closeTree) a := by
  obtain ⟨hp, hlen, _, hall, heq⟩ := h
  obtain ⟨w, ws, hw, hws, rfl⟩ := List.forall₂_cons_right_iff.1 hall
  rw [Nat.sub_add_comm hlen] at heq
  exact ⟨w, ws, hw, hws, hp, heq⟩

theorem Reached.leaf (h : Reached s a nodes (q :: rest)) (hlen : nodes.length < Cfg.maxTreeNodes s.inp.params)
    (hdepth : q.depth ≤ Cfg.maxTreeHeight s.inp.params) (hu : FieldRead .property a u b)
    (htag : Cfg.treeTag s.inp.params u = none) (hk : FieldRead .predictor b k c)
    (hpr : Cfg.predictorOf s.inp.params k = some pr) (ho : FieldRead .offset c o d) (hlg : FieldRead .multLog d lg e)
    (hbt : FieldRead .multBits e bt t) (hm : 1 ≤ Cfg.multiplierFrom s.inp.params lg bt) :
    Reached s t (nodes ++ [.leaf { predictor := pr, offset := Cfg.unpackSigned s.inp.params o
                                   multiplier := Cfg.multiplierFrom s.inp.params lg bt, ctx := leavesIn nodes }]) rest := by
  obtain ⟨w, ws, hw, hws, hp, heq⟩ := h.next
  have hb : b.inp.params = s.inp.params := (fieldRead_params hu).trans hp
  have ht : t.inp.params = s.inp.params := by
    rw [fieldRead_params hbt, fieldRead_params hlg, fieldRead_params ho, fieldRead_params hk, hb]
  have hleaf : readLeaf (leavesIn nodes) b = .ok
      { predictor := pr, offset := Cfg.unpackSigned s.inp.params o
        multiplier := Cfg.multiplierFrom s.inp.params lg bt, ctx := leavesIn nodes } t := by
    rw [readLeaf_eq hk (by rwa [hb]) ho hlg hbt, hb, Op.bind_ok (check_ok (decide_eq_true hm) _ _), Op.pure_apply]
  refine ⟨ht, ?_, ws, hws, ?_⟩
  · rw [List.length_append, List.length_singleton]
    omega
  · rw [heq, Op.bind_apply, treeLoop_leaf (by rwa [hp]) (by rw [hp, hw.1]; exact hdepth) hu (by rwa [hp]),
      Op.bind_ok hleaf, ← Op.bind_apply, leavesIn_leaf, List.length_append, List.length_singleton, Nat.add_sub_add_right]

theorem Reached.split (h : Reached s a nodes (q :: rest)) (hlen : nodes.length < Cfg.maxTreeNodes s.inp.params)
    (hdepth : q.depth ≤ Cfg.maxTreeHeight s.inp.params) (hu : FieldRead .property a u b)
    (htag : Cfg.treeTag s.inp.params u = some p) (hdef : Cfg.propertyDefined s.inp.params p = true)
    (hz : FieldRead .threshold b z t) (hsplit : SplitsRange (q.range p) (Cfg.unpackSigned s.inp.params z)) :
    Reached s t
      (nodes ++ [.split p (Cfg.unpackSigned s.inp.params z) (nodes.length + rest.length + 1) (nodes.length + rest.length + 2)])
      (rest ++ [{ range := Function.update q.range p (some (Cfg.unpackSigned s.inp.params z + 1), (q.range p).2)
                  depth := q.depth + 1 },
                { range := Function.update q.range p ((q.range p).1, some (Cfg.unpackSigned s.inp.params z))
                  depth := q.depth + 1 }]) := by
  obtain ⟨w, ws, hw, hws, hp, heq⟩ := h.next
  have hrange := hw.2 p
  have hslot : nodes.length + ws.length + 2 = nodes.length + 1 + ws.length + 1 := by omega
  rw [hrange] at hsplit ⊢
  refine ⟨(fieldRead_params hz).trans ((fieldRead_params hu).trans hp), ?_,
    ws ++ [{ ranges := setRange w.ranges { rangeOf w.ranges p with lo := some (Cfg.unpackSigned s.inp.params z + 1) }
             depth := w.depth + 1 },
           { ranges := setRange w.ranges { rangeOf w.ranges p with hi := some (Cfg.unpackSigned s.inp.params z) }
             depth := w.depth + 1 }], ?_, ?_⟩
  · rw [List.length_append, List.length_singleton]
    omega
  · exact List.rel_append hws (.cons (hw.update (rangeOf_property _ p)) (.cons (hw.update (rangeOf_property _ p)) .nil))
  · rw [heq, Op.bind_apply, treeLoop_split (by rwa [hp]) (by rw [hp, hw.1]; exact hdepth) hu (by rwa [hp]) (by rwa [hp]) hz,
      hp, Op.bind_ok (check_ok ((splits_iff _ _).2 hsplit) _ _), ← Op.bind_apply, leavesIn_split, List.length_append,
      List.length_singleton, Nat.add_sub_add_right, ← hws.length_eq, Nat.add_right_comm nodes.length ws.length, hslot]

/-- Whatever the runs of the statement have come to, M.TREE has come to. -/
theorem reached_of_treeRuns {queue : List PendingNode} (h : TreeRuns s a nodes queue) : Reached s a nodes queue := by
  induction h with
  | start h => exact reached_start h
  | leaf _ hlen hdepth hu htag hk hpr ho hlg hbt hm ih => exact ih.leaf hlen hdepth hu htag hk hpr ho hlg hbt hm
  | split _ hlen hdepth hu htag hdef hz hth hsplit ih =>
    subst hth
    exact ih.split hlen hdepth hu htag hdef hz hsplit

end

/-! ### Where M.TREE ends -/

section
variable {s a b c : State} {nodes : Tree} {w : PendingNode} {rest : List PendingNode}

theorem exec_mTree_ok {tree : Tree} (h : decodeTree s = .ok tree a) :
    exec .mTree s = .next ((a.setMod fun m => { m with tree := some tree }).setRet .none) :=
  runUnit_ok (commitOrAbandon_ok (Op.bind_ok h _))

theorem exec_mTree_fatal {k : Kind} (h : decodeTree s = .error (.fatal k) a) : exec .mTree s = .next (trapEntry k a) :=
  runUnit_fatal (commitOrAbandon_fatal (Op.bind_error h _))

theorem exec_mTree_of_runs {tree : Tree} (h : TreeRuns s a tree []) (hfinal : scopeFinal .tree a = .ok () b) :
    exec .mTree s = .next
      { b with
        ent := b.ent.filter fun x => decide (x.1 ≠ .tree), mod := { b.mod with tree := some tree }, ret := .none } := by
  obtain ⟨_, hlen, _, hws, heq⟩ := reached_of_treeRuns h
  cases hws
  rw [Nat.sub_add_comm hlen, treeLoop, Op.bind_ok (Op.pure_apply tree a), closeTree, Op.bind_ok hfinal] at heq
  exact exec_mTree_ok heq

/-- Where the loop traps, so does M.TREE. -/
theorem exec_mTree_trap {k : Kind} (h : TreeRuns s a nodes (w :: rest))
    (hloop : ∀ fuel leaves v ws, a.inp.params = s.inp.params → Refines v w →
      treeLoop (fuel + 1) nodes leaves (v :: ws) a = .error (.fatal k) b) :
    exec .mTree s = .next (trapEntry k b) := by
  obtain ⟨v, ws, hv, _, hp, heq⟩ := (reached_of_treeRuns h).next
  exact exec_mTree_fatal (heq.trans (Op.bind_error (hloop _ _ _ _ hp hv) _))

end

/-! ### Every tree that is decoded is walked to a leaf -/

/-- A node in slot `i` of a tree of `n` nodes: the children of a split are later nodes, a leaf has a multiplier. -/
def GoodNode (n i : Nat) : Node → Prop
  | .leaf l => 1 ≤ l.multiplier
  | .split _ _ a b => i < a ∧ a < n ∧ i < b ∧ b < n

def GoodTree (n : Nat) (nodes : Tree) : Prop := ∀ (i : Nat) (x : Node), nodes[i]? = some x → GoodNode n i x

theorem GoodNode.mono {n m i : Nat} {x : Node} (h : GoodNode n i x) (hnm : n ≤ m) : GoodNode m i x := by
  cases x with
  | leaf l => exact h
  | split p th a b =>
    obtain ⟨ha, ha', hb, hb'⟩ := h
    exact ⟨ha, ha'.trans_le hnm, hb, hb'.trans_le hnm⟩

theorem GoodTree.snoc {n m : Nat} {nodes : Tree} {x : Node} (h : GoodTree n nodes) (hnm : n ≤ m)
    (hx : GoodNode m nodes.length x) : GoodTree m (nodes ++ [x]) := by
  intro i y hy
  rcases Nat.lt_trichotomy i nodes.length with hi | rfl | hi
  · rw [List.getElem?_append_left hi] at hy
    exact (h i y hy).mono hnm
  · rw [List.getElem?_concat_length] at hy
    exact Option.some.inj hy ▸ hx
  · rw [List.getElem?_eq_none (by rw [List.length_append, List.length_singleton]; omega)] at hy
    cases hy

theorem GoodTree.walkFrom {t : Tree} (h : GoodTree t.length t) (props : List Int) {k i : Nat} (hi : i < t.length)
    (hk : t.length ≤ i + k) : ∃ l, walkFrom t props k i = some l ∧ 1 ≤ l.multiplier := by
  induction k generalizing i with
  | zero => omega
  | succ k ih =>
    have hnode := List.getElem?_eq_getElem hi
    have hgood := h i _ hnode
    cases hx : t[i] with
    | leaf l =>
      rw [hx] at hnode hgood
      exact ⟨l, walkFrom_leaf hnode k, hgood⟩
    | split p th a b =>
      rw [hx] at hnode hgood
      obtain ⟨ha, ha', hb, hb'⟩ := hgood
      rw [walkFrom_split hnode]
      split
      · exact ih ha' (by omega)
      · exact ih hb' (by omega)

section
variable {a b : State} {fuel leaves : Nat} {nodes tree : List Node} {w : Waiting} {queue : List Waiting}

theorem multiplier_of_readLeaf {l : Leaf} (h : readLeaf leaves a = .ok l b) : 1 ≤ l.multiplier := by
  unfold readLeaf at h
  obtain ⟨p, _, _, h⟩ := Op.bind_eq_ok.1 h
  obtain ⟨k, c, _, h⟩ := Op.bind_eq_ok.1 h
  cases hpr : Cfg.predictorOf p k with
  | none => rw [hpr] at h; cases h
  | some pr =>
    rw [hpr] at h
    obtain ⟨o, _, _, h⟩ := Op.bind_eq_ok.1 h
    obtain ⟨lg, _, _, h⟩ := Op.bind_eq_ok.1 h
    obtain ⟨bt, _, _, h⟩ := Op.bind_eq_ok.1 h
    obtain ⟨_, _, hm, h⟩ := Op.bind_eq_ok.1 h
    cases h
    exact of_decide_eq_true (check_eq_ok.1 hm).1

/-- A node that the loop reads on its way to an end: a leaf with a multiplier, or a split that leaves two nodes waiting. -/
theorem treeLoop_cons_ok (h : treeLoop (fuel + 1) nodes leaves (w :: queue) a = .ok tree b) :
    (∃ l c, 1 ≤ l.multiplier ∧ treeLoop fuel (nodes ++ [.leaf l]) (leaves + 1) queue c = .ok tree b) ∨
      ∃ p t v v' c, treeLoop fuel (nodes ++ [.split p t (nodes.length + 1 + queue.length)
        (nodes.length + 1 + queue.length + 1)]) leaves (queue ++ [v, v']) c = .ok tree b := by
  rw [treeLoop] at h
  obtain ⟨p, _, _, h⟩ := Op.bind_eq_ok.1 h
  obtain ⟨_, _, _, h⟩ := Op.bind_eq_ok.1 h
  obtain ⟨_, _, _, h⟩ := Op.bind_eq_ok.1 h
  obtain ⟨u, _, _, h⟩ := Op.bind_eq_ok.1 h
  cases htag : Cfg.treeTag p u with
  | none =>
    rw [htag] at h
    obtain ⟨l, c, hl, h⟩ := Op.bind_eq_ok.1 h
    exact .inl ⟨l, c, multiplier_of_readLeaf hl, h⟩
  | some prop =>
    rw [htag] at h
    obtain ⟨_, _, _, h⟩ := Op.bind_eq_ok.1 h
    obtain ⟨z, _, _, h⟩ := Op.bind_eq_ok.1 h
    obtain ⟨_, c, _, h⟩ := Op.bind_eq_ok.1 h
    exact .inr ⟨_, _, _, _, c, h⟩

/-- The nodes that wait have the slots after the nodes read, so that every child has a slot by the end; and the fuel bounds
the nodes. -/
theorem goodTree_of_treeLoop (hgood : GoodTree (nodes.length + queue.length) nodes)
    (h : treeLoop fuel nodes leaves queue a = .ok tree b) :
    GoodTree tree.length tree ∧ nodes.length + queue.length ≤ tree.length ∧ tree.length + 1 ≤ nodes.length + fuel := by
  induction fuel generalizing nodes leaves queue a with
  | zero => cases h
  | succ fuel ih =>
    cases queue with
    | nil =>
      rw [treeLoop] at h
      cases h
      exact ⟨hgood, Nat.le_refl _, by omega⟩
    | cons w queue =>
      rw [List.length_cons] at hgood ⊢
      obtain ⟨l, c, hl, h⟩ | ⟨p, t, v, v', c, h⟩ := treeLoop_cons_ok h
      · have hnext := ih (hgood.snoc (x := .leaf l) (by rw [List.length_append, List.length_singleton]; omega) hl) h
        rw [List.length_append, List.length_singleton] at hnext
        exact ⟨hnext.1, by omega, by omega⟩
      · have hchildren : ∀ n, n = nodes.length + queue.length + 3 →
            GoodNode n nodes.length (.split p t (nodes.length + 1 + queue.length) (nodes.length + 1 + queue.length + 1)) :=
          fun n hn => ⟨by omega, by omega, by omega, by omega⟩
        have hslots := hgood.snoc (m := nodes.length + queue.length + 3) (by omega) (hchildren _ rfl)
        have hnext := ih (by
          simp only [List.length_append, List.length_cons, List.length_nil]
          convert hslots using 1
          omega) h
        simp only [List.length_append, List.length_cons, List.length_nil] at hnext
        exact ⟨hnext.1, by omega, by omega⟩

end

theorem decodeTree_walks {s t : State} {tree : Tree} (h : decodeTree s = .ok tree t) :
    tree.length ≤ Cfg.maxTreeNodes s.inp.params ∧
      ∀ props : List Int, ∃ l, walk tree props = some l ∧ 1 ≤ l.multiplier := by
  unfold decodeTree at h
  rw [Op.bind_ok (getParams_apply s)] at h
  obtain ⟨_, _, _, h⟩ := Op.bind_eq_ok.1 h
  obtain ⟨tree', _, hloop, h⟩ := Op.bind_eq_ok.1 h
  obtain ⟨_, _, _, h⟩ := Op.bind_eq_ok.1 h
  obtain ⟨_, _, _, h⟩ := Op.bind_eq_ok.1 h
  cases h
  obtain ⟨hgood, hpos, hlen⟩ := goodTree_of_treeLoop (fun i x hx => by simp at hx) hloop
  simp only [List.length_nil, List.length_singleton] at hpos hlen
  exact ⟨by omega, fun props => hgood.walkFrom props hpos (Nat.le_add_left _ _)⟩

/-- Settles O45: the loop follows the statement's runs, and its queue accounts for every child. -/
theorem treeDecoding : Obligations.TreeDecoding := by
  refine ⟨?_, ?_, fun s a b tree h hfinal => exec_mTree_of_runs h hfinal, ?_⟩
  · rintro s s1 s2 s3 s4 s5 s6 s7 u k o lg bt pr p rfl hnodes hheight h1 h2 htag h3 hpr h4 h5 h6 hm h7
    have p1 := scopeOpen_params h1
    have r2 : FieldRead .property s1 u s2 := by rw [FieldRead, p1]; exact h2
    have p2 := (fieldRead_params r2).trans p1
    have r3 : FieldRead .predictor s2 k s3 := by rw [FieldRead, p2]; exact h3
    have p3 := (fieldRead_params r3).trans p2
    have r4 : FieldRead .offset s3 o s4 := by rw [FieldRead, p3]; exact h4
    have p4 := (fieldRead_params r4).trans p3
    have r5 : FieldRead .multLog s4 lg s5 := by rw [FieldRead, p4]; exact h5
    have p5 := (fieldRead_params r5).trans p4
    have r6 : FieldRead .multBits s5 bt s6 := by rw [FieldRead, p5]; exact h6
    exact exec_mTree_of_runs (.leaf (.start h1) hnodes hheight r2 htag r3 hpr r4 r5 r6 hm) h7
  · intro s t h hret
    obtain ⟨u, hop, rfl⟩ := runUnit_next_none h hret
    obtain ⟨tree, v, hdecode, hupd⟩ := Op.bind_eq_ok.1 (of_commitOrAbandon_ok hop)
    cases hupd
    exact ⟨tree, rfl, decodeTree_walks hdecode⟩
  · rintro s a p nodes w rest rfl h
    refine ⟨fun hfull => exec_mTree_trap h fun fuel leaves v ws hp _ => treeLoop_full (by rwa [hp]),
      fun hlen hdeep => exec_mTree_trap h fun fuel leaves v ws hp hv =>
        treeLoop_deep (by rwa [hp]) (by rw [hp, hv.1]; exact hdeep), fun hlen hdepth => ⟨?_, ?_, ?_⟩⟩
    · exact fun b u k hu htag hdef => exec_mTree_trap h fun fuel leaves v ws hp hv =>
        treeLoop_undefined (by rwa [hp]) (by rw [hp, hv.1]; exact hdepth) hu (by rwa [hp]) (by rwa [hp])
    · intro b c u k z hu htag hdef hz hsplit
      refine exec_mTree_trap h fun fuel leaves v ws hp hv => ?_
      rw [treeLoop_split (by rwa [hp]) (by rw [hp, hv.1]; exact hdepth) hu (by rwa [hp]) (by rwa [hp]) hz, hp]
      refine Op.check_bind_of_not (fun hs => hsplit ?_) _ _ _
      rw [hv.2 k]
      exact (splits_iff _ _).1 hs
    · intro b c u k hu htag hk
      have hleaf : ∀ e : Kind, ∀ t : State, (∀ leaves, readLeaf leaves b = .error (.fatal e) t) →
          exec .mTree s = .next (trapEntry e t) := fun e t herr => exec_mTree_trap h fun fuel leaves v ws hp hv =>
        (treeLoop_leaf (by rwa [hp]) (by rw [hp, hv.1]; exact hdepth) hu (by rwa [hp])).trans (Op.bind_error (herr leaves) _)
      have hb : b.inp.params = s.inp.params := (fieldRead_params hu).trans (reached_of_treeRuns h).1
      refine ⟨fun hpr => hleaf _ _ fun leaves => readLeaf_noPredictor hk (by rwa [hb]), ?_⟩
      intro d e t o lg bt hpr ho hlg hbt hm
      obtain ⟨pr, hpr⟩ := Option.isSome_iff_exists.1 hpr
      refine hleaf _ _ fun leaves => ?_
      rw [readLeaf_eq hk (by rw [hb, hpr]) ho hlg hbt, hb]
      exact Op.check_bind_of_not (by simp [hm]) _ _ _

end Sys2Proof.Machine

/-! M.PALETTE (44_modular.md R300 to R305): the output channels are painted one after another, each sample from those
already there. -/

namespace Sys2Proof.Machine

open Sys2Proof.Claims

/-! ### Loops over a range -/

theorem each_range'_ok {f : Nat → Op Unit} {S : Nat → State} {n a : Nat}
    (h : ∀ k, a ≤ k → k < a + n → f k (S k) = .ok () (S (k + 1))) : each (List.range' a n) f (S a) = .ok () (S (a + n)) := by
  induction n generalizing a with
  | zero => rfl
  | succ n ih =>
    rw [List.range'_succ, each, Op.bind_ok (h a (Nat.le_refl _) (by omega)), Nat.add_comm n 1, ← Nat.add_assoc a 1 n]
    exact ih fun k hk hk' => h k (by omega) (by omega)

/-- A loop whose k-th round leads from the k-th of these states to the next. -/
theorem each_range_ok {f : Nat → Op Unit} {S : Nat → State} {n : Nat} (h : ∀ k, k < n → f k (S k) = .ok () (S (k + 1))) :
    each (List.range n) f (S 0) = .ok () (S n) := by
  have hloop := each_range'_ok (f := f) (S := S) (n := n) (a := 0) fun k _ hk => h k (by omega)
  rwa [Nat.zero_add, ← List.range_eq_range'] at hloop

theorem collect_range'_ok {α : Type} {f : Nat → Op α} {g : Nat → α} {R : Nat → State → Prop} {n a : Nat} {s : State} (h0 : R a s)
    (h : ∀ k t, a ≤ k → k < a + n → R k t → ∃ u, f k t = .ok (g k) u ∧ R (k + 1) u) :
    ∃ u, collect (List.range' a n) f s = .ok ((List.range' a n).map g) u ∧ R (a + n) u := by
  induction n generalizing a s with
  | zero => exact ⟨s, rfl, h0⟩
  | succ n ih =>
    obtain ⟨t, hf, ht⟩ := h a s (Nat.le_refl _) (by omega) h0
    obtain ⟨u, hrest, hu⟩ := ih ht fun k t hk hk' => h k t (by omega) (by omega)
    refine ⟨u, ?_, by rwa [Nat.add_assoc a 1 n, Nat.add_comm 1 n] at hu⟩
    rw [List.range'_succ, collect, Op.bind_ok hf, Op.bind_ok hrest]
    rfl

/-- A loop that collects, with a property of the state after every round. -/
theorem collect_range_ok {α : Type} {f : Nat → Op α} {g : Nat → α} {R : Nat → State → Prop} {n : Nat} {s : State} (h0 : R 0 s)
    (h : ∀ k t, k < n → R k t → ∃ u, f k t = .ok (g k) u ∧ R (k + 1) u) :
    ∃ u, collect (List.range n) f s = .ok ((List.range n).map g) u ∧ R n u := by
  have hloop := collect_range'_ok (n := n) h0 fun k t _ hk => h k t (by omega)
  rwa [Nat.zero_add, ← List.range_eq_range'] at hloop

/-! ### One's own buffers beside each other -/

section
variable {s t : State} {h k w ht w' ht' : Nat}

theorem State.Sole.allocated_other (hs : s.Sole h w ht) (hok : s.img.handlesOk = true) (w' ht' : Nat) (ty : SampleType) :
    (s.allocated w' ht' ty).Sole h w ht := by
  obtain ⟨⟨b, hb, hshape⟩, halone⟩ := hs
  have hlt : h < s.img.next := (knows_of_assocGet hok hb).1
  refine ⟨⟨b, (assocGet_allocated_other hlt.ne _ _ _).trans hb, hshape⟩, fun e he hroot => ?_⟩
  rcases mem_assocSet he with rfl | he
  · exact hroot
  · exact halone e he hroot

theorem State.Sole.putSample_other (hs : s.Sole h w ht) (hk : s.Sole k w' ht') {x y : Nat} (hx : x < w') (hy : y < ht')
    (hne : h ≠ k) (v : Sample) : (s.putSample k x y v).Sole h w ht := by
  obtain ⟨⟨b, hb, hshape⟩, halone⟩ := hs
  obtain ⟨c, hc, heq⟩ := hk.putSample_eq hx hy v
  rw [heq]
  refine ⟨⟨b, ?_, hshape⟩, fun e he hroot => ?_⟩
  · rw [State.setImg_img, assocGet_assocSet, if_neg hne, hb]
  · rcases mem_assocSet he with rfl | he
    · exact halone (k, c) (mem_of_assocGet hc) hroot
    · exact halone e he hroot

theorem State.Sole.paint_other (hs : s.Sole h w ht) (hk : s.Sole k w' ht') {g : Nat × Nat → Int} {ps : List (Nat × Nat)}
    (hps : Inside w' ht' ps) (hne : h ≠ k) : (s.paint k g ps).Sole h w ht := by
  induction ps generalizing s with
  | nil => exact hs
  | cons p rest ih =>
    obtain ⟨⟨hx, hy⟩, hrest⟩ := List.forall_mem_cons.1 hps
    exact ih (hs.putSample_other hk hx hy hne _) (hk.putSample hx hy _) hrest

theorem handlesOk_allocated (hs : s.img.handlesOk = true) (w ht : Nat) (ty : SampleType) :
    (s.allocated w ht ty).img.handlesOk = true :=
  handlesOk_assocSet hs (Nat.le_succ _) (Nat.lt_succ_self _) (Nat.lt_succ_self _)

theorem State.Sole.handlesOk_paint (hs : s.Sole h w ht) (hok : s.img.handlesOk = true) {g : Nat × Nat → Int}
    {ps : List (Nat × Nat)} (hps : Inside w ht ps) : (s.paint h g ps).img.handlesOk = true := by
  induction ps generalizing s with
  | nil => exact hok
  | cons p rest ih =>
    obtain ⟨⟨hx, hy⟩, hrest⟩ := List.forall_mem_cons.1 hps
    obtain ⟨b, hb, heq⟩ := hs.putSample_eq hx hy (.int (g p))
    refine ih (hs.putSample hx hy _) ?_ hrest
    show (s.putSample h p.1 p.2 (.int (g p))).img.handlesOk = true
    rw [heq]
    exact handlesOk_assocSet hok (Nat.le_refl _) (knows_of_assocGet hok hb).1 (knows_of_assocGet hok hb).2

theorem State.Sole.of_img (hs : s.Sole h w ht) (himg : t.img = s.img) : t.Sole h w ht :=
  ⟨himg ▸ hs.buffer, himg ▸ hs.alone⟩

theorem putSample_setMod (f : Modular → Modular) (h x y : Nat) (v : Sample) :
    (s.setMod f).putSample h x y v = (s.putSample h x y v).setMod f := by
  unfold State.putSample
  have hcell : (s.setMod f).cell h x y .write = s.cell h x y .write := rfl
  rw [hcell]
  cases s.cell h x y .write with
  | none => rfl
  | some c =>
    dsimp only [State.setMod_img]
    cases assocGet s.img.bufs c.1 <;> rfl

theorem grants_of_inp (hinp : t.inp = s.inp) (h : Nat) (shape : Nat × Nat × SampleType) : t.grants h shape = s.grants h shape := by
  rw [State.grants, State.grants, State.outOfMemory, State.outOfMemory, hinp]

end

/-! ### Raster order -/

/-- The first `k` positions of a channel of `w` columns in raster order. -/
def placesTo (w k : Nat) : List (Nat × Nat) := (List.range k).map fun i => (i % w, i / w)

theorem placesTo_succ (w k : Nat) : placesTo w (k + 1) = placesTo w k ++ [(k % w, k / w)] := by
  rw [placesTo, List.range_succ, List.map_append]
  rfl

theorem mem_placesTo {w k x y : Nat} (hx : x < w) (h : y * w + x < k) : (x, y) ∈ placesTo w k := by
  refine List.mem_map.2 ⟨y * w + x, List.mem_range.2 h, Prod.ext ?_ ?_⟩
  · exact Nat.mul_add_mod_of_lt hx
  · show (y * w + x) / w = y
    rw [Nat.mul_comm, Nat.mul_add_div (Nat.zero_lt_of_lt hx), Nat.div_eq_of_lt hx, Nat.add_zero]

theorem mod_div_inside {w ht k : Nat} (h : k < w * ht) : k % w < w ∧ k / w < ht ∧ k / w * w + k % w = k :=
  have hw : 0 < w := Nat.pos_of_mul_pos_right (Nat.zero_lt_of_lt h)
  ⟨Nat.mod_lt _ hw, Nat.div_lt_of_lt_mul h, Nat.div_add_mod' k w⟩

theorem inside_placesTo {w ht k : Nat} (h : k ≤ w * ht) : Inside w ht (placesTo w k) := by
  intro p hp
  obtain ⟨i, hi, rfl⟩ := List.mem_map.1 hp
  obtain ⟨hx, hy, _⟩ := mod_div_inside ((List.mem_range.1 hi).trans_le h)
  exact ⟨hx, hy⟩

/-- A position of the row, or of a row above, comes before. -/
theorem before_lt {w x y x' y' : Nat} (hx' : x' < w) (h : y' = y ∧ x' < x ∨ y' < y) : y' * w + x' < y * w + x := by
  rcases h with ⟨rfl, hlt⟩ | hlt
  · exact Nat.add_lt_add_left hlt _
  · have hrow : (y' + 1) * w ≤ y * w := Nat.mul_le_mul_right w hlt
    rw [Nat.succ_mul] at hrow
    omega

/-! ### The neighbours in a channel that holds the samples before -/

section
variable {s : State} {o w x y x' y' : Nat} {f : Nat → Nat → Int}

theorem neighbourIs_of {c : Prop} [Decidable c] (h : c → s.intAt o x' y' = some (f x' y')) :
    s.neighbourIs o (decide c) x' y' (if c then some (f x' y') else none) := by
  unfold State.neighbourIs
  by_cases hc : c
  · rw [if_pos hc, if_pos (decide_eq_true hc), h hc]
    exact ⟨rfl, rfl⟩
  · rw [if_neg hc, if_neg (by simpa using hc)]

theorem neighboursAre_around (hx : x < w) (h : ∀ x' y', x' < w → y' = y ∧ x' < x ∨ y' < y → s.intAt o x' y' = some (f x' y')) :
    s.neighboursAre o w x y (around f w x y) where
  west := neighbourIs_of fun hc => h _ _ (by omega) (.inl ⟨rfl, by omega⟩)
  north := neighbourIs_of fun hc => h _ _ hx (.inr (by omega))
  northWest := by
    rw [← Bool.decide_and]
    exact neighbourIs_of fun hc => h _ _ (by omega) (.inr (by omega))
  northEast := by
    rw [← Bool.decide_and]
    exact neighbourIs_of fun hc => h _ _ hc.2 (.inr (by omega))
  westWest := neighbourIs_of fun hc => h _ _ (by omega) (.inl ⟨rfl, by omega⟩)
  northNorth := neighbourIs_of fun hc => h _ _ hx (.inr (by omega))
  northEastEast := by
    rw [← Bool.decide_and]
    exact neighbourIs_of fun hc => h _ _ hc.2 (.inr (by omega))

end

/-! ### One sample -/

theorem paletteValue_congr {p : Params} {nc bd c : Nat} {f g : Nat → Int} (h : ∀ k, k < nc → f k = g k) (i : Int) :
    paletteValue p nc bd f i c = paletteValue p nc bd g i c := by
  unfold paletteValue
  by_cases hneg : i < 0
  · rw [if_pos hneg, if_pos hneg]
  · rw [if_neg hneg, if_neg hneg]
    by_cases hnc : i < nc
    · rw [if_pos hnc, if_pos hnc, h _ (by omega)]
    · rw [if_neg hnc, if_neg hnc]

section
variable {s : State} {ib o nc nd bd c x y : Nat} {pr : Predictor} {row : List Int} {b : Buffer} {r : RawNeighbours} {i z : Int}
  {nb : Neighbours}

/-- The end of one output sample: it is stored and the weighted predictor learns it. -/
def paletteStore (o x y : Nat) (z : Int) : Op Unit := do
  putInt o x y z
  updateWp x z

theorem paletteStore_ok (hput : putInt o x y z s = .ok () (s.putSample o x y (.int z))) :
    paletteStore o x y z s = .ok ()
      ((s.putSample o x y (.int z)).setMod fun m => { m with wp := m.wp.map fun v => v.update s.inp.params x z }) := by
  rw [paletteStore, Op.bind_ok hput, updateWp, upd_apply, putSample_inp]

theorem palettePixel_ok (hi : s.intAt ib x y = some i) (hb : assocGet s.img.bufs o = some b)
    (hr : s.neighboursAre o b.width x y r) (hnb : nb = Cfg.neighbours s.inp.params (c, x, y) r)
    (hwp : pr = .weighted → s.mod.wp ≠ none)
    (hz : z = if i < nd then
        Cfg.predictOne s.inp.params pr nb
          (estimateOf s.inp.params (s.mod.wp.map fun v => v.predict s.inp.params nb x y) (c, x, y)) +
            paletteValue s.inp.params nc bd (fun k => propAt row k) i c
      else paletteValue s.inp.params nc bd (fun k => propAt row k) i c) :
    palettePixel ib o nc nd bd pr row c x y s = paletteStore o x y z (s.predicted nb x y) := by
  subst hnb
  have hwp' : wpAt c o x y s = .ok () (s.predicted (Cfg.neighbours s.inp.params (c, x, y) r) x y) :=
    wpAt_ok (neighboursAt_ok hb hr)
  rw [palettePixel, Op.bind_ok (getInt_ok hi), Op.bind_ok (getParams_apply s), Op.bind_ok hwp']
  by_cases hd : i < nd
  · rw [if_pos hd] at hz
    have hestimate : wpPixel pr (c, x, y) (s.predicted (Cfg.neighbours s.inp.params (c, x, y) r) x y) =
        .ok (estimateOf s.inp.params (s.mod.wp.map fun v =>
          v.predict s.inp.params (Cfg.neighbours s.inp.params (c, x, y) r) x y) (c, x, y))
          (s.predicted (Cfg.neighbours s.inp.params (c, x, y) r) x y) := by
      refine (wpPixel_ok (fun hp hnone => hwp hp ?_) _).trans ?_
      · simpa [State.predicted] using hnone
      · cases hw : s.mod.wp <;> simp [State.predicted, estimateOf, hw, State.setMod]
    simp only [if_pos hd]
    have hagain := neighboursAt_of_img (s := s) (t := s.predicted (Cfg.neighbours s.inp.params (c, x, y) r) x y) (ch := c)
      rfl rfl hb hr
    rw [hz]
    exact (Op.bind_ok hagain _).trans (Op.bind_ok hestimate _)
  · rw [if_neg hd] at hz
    simp only [if_neg hd]
    rw [hz]
    rfl

end

/-! ### One output channel -/

section
variable {s : State} {o w ht ib nc nd bd c : Nat} {pr : Predictor} {row : List Int} {idx value out : Nat → Nat → Int}
  {wp : Nat → Option Wp}

/-- The state with the first `k` samples of an output channel there and the weighted predictor before the next. -/
def State.filled (s : State) (o w : Nat) (out : Nat → Nat → Int) (wp : Nat → Option Wp) (k : Nat) : State :=
  (s.paint o (fun p => out p.1 p.2) (placesTo w k)).setMod fun m => { m with wp := wp k }

theorem filled_zero : s.filled o w out wp 0 = s.setMod fun m => { m with wp := wp 0 } := rfl

@[simp] theorem filled_inp (k : Nat) : (s.filled o w out wp k).inp = s.inp := paint_inp _

/-- The samples before a position are there. -/
theorem filled_neighbours (hs : s.Sole o w ht) {x y : Nat} (hx : x < w) (hy : y < ht) (hk : y * w + x ≤ w * ht) :
    (s.filled o w out wp (y * w + x)).neighboursAre o w x y (around out w x y) := by
  refine neighboursAre_around hx fun x' y' hx' hbefore => ?_
  rw [intAt_of_img (t := s.filled o w out wp _) (s := s.paint o (fun p => out p.1 p.2) (placesTo w (y * w + x))) rfl]
  exact hs.intAt_paint (p := (x', y')) (inside_placesTo hk) (.inl (mem_placesTo hx' (before_lt hx' hbefore))) hx' (by omega)


/-- An output channel as the statement has it, its values those of a row of the palette. -/
def RowChannel (p : Params) (pr : Predictor) (nc nd bd w ht c : Nat) (row : List Int) (idx out : Nat → Nat → Int)
    (wp : Nat → Option Wp) : Prop :=
  PaletteChannel p pr nd w ht c idx (fun x y => paletteValue p nc bd (fun k => propAt row k) (idx x y) c) out wp

/-- Where the weighted predictor is there before the first sample, it is there before every one. -/
theorem wp_tracked {p : Params} (hch : RowChannel p pr nc nd bd w ht c row idx out wp) (h0 : wp 0 ≠ none) {k : Nat} (hk : k ≤ w * ht) :
    wp k ≠ none := by
  induction k with
  | zero => exact h0
  | succ k ih =>
    obtain ⟨hx, hy, hpos⟩ := mod_div_inside hk
    have hnext := hch.next _ _ hx hy
    rw [hpos] at hnext
    rw [hnext]
    simpa using ih (Nat.le_of_succ_le hk)

theorem palettePixel_filled (hs : s.Sole o w ht) (hib : ib ≠ o)
    (hidx : ∀ x y, x < w → y < ht → s.intAt ib x y = some (idx x y))
    (hch : RowChannel s.inp.params pr nc nd bd w ht c row idx out wp) (hwp : pr = .weighted → wp 0 ≠ none) {k : Nat}
    (hk : k < w * ht) :
    palettePixel ib o nc nd bd pr row c (k % w) (k / w) (s.filled o w out wp k) = .ok () (s.filled o w out wp (k + 1)) := by
  obtain ⟨hx, hy, hpos⟩ := mod_div_inside hk
  generalize hxk : k % w = x at hx hpos ⊢
  generalize hyk : k / w = y at hy hpos ⊢
  have hin : Inside w ht (placesTo w k) := inside_placesTo hk.le
  have hsole : (s.filled o w out wp k).Sole o w ht := (hs.paint hin).of_img rfl
  have hread : (s.filled o w out wp k).intAt ib x y = some (idx x y) := by
    rw [intAt_of_img (t := s.filled o w out wp k) (s := s.paint o _ (placesTo w k)) rfl, hs.intAt_paint_other hin hib,
      hidx x y hx hy]
  obtain ⟨b, hb, hbw, -, -, -⟩ := hsole.buffer
  have hnear : (s.filled o w out wp k).neighboursAre o b.width x y (around out w x y) := by
    rw [hbw]
    exact hpos ▸ filled_neighbours hs hx hy (hpos.trans_le hk.le)
  have hsample := hch.sample x y hx hy
  rw [hpos] at hsample
  have hpixel := palettePixel_ok (s := s.filled o w out wp k) (nc := nc) (nd := nd) (bd := bd) (c := c) (row := row)
    (z := out x y) hread hb hnear rfl (fun hp => wp_tracked hch (hwp hp) hk.le) (by rw [filled_inp]; exact hsample)
  have hput : ∀ nb, putInt o x y (out x y) ((s.filled o w out wp k).predicted nb x y) =
      .ok () (((s.filled o w out wp k).predicted nb x y).putSample o x y (.int (out x y))) := fun nb =>
    State.Sole.putInt_ok (s := (s.filled o w out wp k).predicted nb x y) (hsole.of_img rfl) hx hy (by
      show fitsSample (s.filled o w out wp k).inp.params (out x y) = true
      rw [filled_inp]
      exact hch.fits x y hx hy)
  rw [hpixel, paletteStore_ok (hput _)]
  have hnext := hch.next x y hx hy
  rw [hpos] at hnext
  simp only [State.filled, State.predicted, putSample_setMod, placesTo_succ, paint_append, paint_cons, paint_nil, hxk, hyk,
    hnext]
  cases wp k <;> simp [State.setMod]

theorem each_palettePixel_ok (hs : s.Sole o w ht) (hib : ib ≠ o)
    (hidx : ∀ x y, x < w → y < ht → s.intAt ib x y = some (idx x y))
    (hch : RowChannel s.inp.params pr nc nd bd w ht c row idx out wp) (hwp : pr = .weighted → wp 0 ≠ none) :
    each (List.range (w * ht)) (fun k => palettePixel ib o nc nd bd pr row c (k % w) (k / w)) (s.filled o w out wp 0) =
      .ok () (s.filled o w out wp (w * ht)) :=
  each_range_ok fun _ hk => palettePixel_filled hs hib hidx hch hwp hk

end

/-! ### All output channels -/

/-- The first `n` output channels are there, each in a buffer of its own after those of `s`; of the rest only the weighted
predictor has changed. -/
structure Rebuilt (s : State) (w ht : Nat) (out : Nat → Nat → Nat → Int) (n : Nat) (t : State) : Prop where
  rest : t = (s.setImg fun _ => t.img).setMod fun m => { m with wp := t.mod.wp }
  next : t.img.next = s.img.next + n
  refs : t.img.refs = s.img.refs
  handles : t.img.handlesOk = true
  kept : ∀ h, h < s.img.next → assocGet t.img.bufs h = assocGet s.img.bufs h
  reads : ∀ h, h < s.img.next → t.intAt h = s.intAt h
  sole : ∀ c, c < n → t.Sole (s.img.next + c) w ht
  samples : ∀ c, c < n → ∀ x y, x < w → y < ht → t.intAt (s.img.next + c) x y = some (out c x y)

section
variable {s t : State} {w ht n : Nat} {out : Nat → Nat → Nat → Int}

theorem rebuilt_zero (hs : s.img.handlesOk = true) : Rebuilt s w ht out 0 s :=
  ⟨rfl, rfl, rfl, hs, fun _ _ => rfl, fun _ _ => rfl, fun _ h => absurd h (Nat.not_lt_zero _),
    fun _ h => absurd h (Nat.not_lt_zero _)⟩

theorem Rebuilt.inp (h : Rebuilt s w ht out n t) : t.inp = s.inp := by
  rw [h.rest]
  rfl

/-- The next output channel, allocated and painted. -/
def State.channelPainted (t : State) (w ht : Nat) (f : Nat → Nat → Int) (wp : Nat → Option Wp) : State :=
  (t.allocated w ht .int).filled t.img.next w f wp (w * ht)

theorem Rebuilt.succ (h : Rebuilt s w ht out n t) (wp : Nat → Option Wp) :
    Rebuilt s w ht out (n + 1) (t.channelPainted w ht (out n) wp) := by
  have hall : Inside w ht (placesTo w (w * ht)) := inside_placesTo (Nat.le_refl _)
  have hown : (t.allocated w ht .int).Sole t.img.next w ht := sole_allocated h.handles w ht
  have himg : (t.channelPainted w ht (out n) wp).img =
      ((t.allocated w ht .int).paint t.img.next (fun p => out n p.1 p.2) (placesTo w (w * ht))).img := rfl
  have hread : ∀ k, k < t.img.next → (t.channelPainted w ht (out n) wp).intAt k = t.intAt k := fun k hk => by
    rw [intAt_of_img himg, hown.intAt_paint_other hall hk.ne, intAt_allocated_other h.handles w ht .int hk.ne]
  have hle : s.img.next ≤ t.img.next := h.next ▸ Nat.le_add_right _ _
  constructor
  case rest =>
    have hstate : ∀ u : State, u = (s.setImg fun _ => u.img).setMod (fun m => { m with wp := u.mod.wp }) →
        ∀ i v, ((u.setImg fun _ => i).setMod fun m => { m with wp := v }) =
          (s.setImg fun _ => i).setMod fun m => { m with wp := v } := fun u hu i v => by rw [hu]; rfl
    rw [← hstate t h.rest, himg, State.channelPainted, State.filled, paint_eq]
    rfl
  case next => rw [himg, paint_next, State.allocated, State.setImg_img, h.next, Nat.add_assoc]
  case refs => rw [himg, paint_refs, State.allocated, State.setImg_img, h.refs]
  case handles => rw [himg]; exact hown.handlesOk_paint (handlesOk_allocated h.handles _ _ _) hall
  case kept =>
    intro k hk
    rw [himg, hown.assocGet_paint hall (hk.trans_le hle).ne, assocGet_allocated_other (hk.trans_le hle).ne, h.kept k hk]
  case reads => exact fun k hk => (hread k (hk.trans_le hle)).trans (h.reads k hk)
  case sole =>
    intro c hc
    rcases Nat.lt_succ_iff_lt_or_eq.1 hc with hc | rfl
    · have hne : s.img.next + c ≠ t.img.next := by rw [h.next]; omega
      exact (((h.sole c hc).allocated_other h.handles _ _ _).paint_other hown hall hne).of_img himg
    · exact h.next ▸ (hown.paint hall).of_img himg
  case samples =>
    intro c hc x y hx hy
    rcases Nat.lt_succ_iff_lt_or_eq.1 hc with hc | rfl
    · rw [hread _ (by rw [h.next]; omega), h.samples c hc x y hx hy]
    · have hpos : y * w + x < w * ht := by
        have hrow : (y + 1) * w ≤ ht * w := Nat.mul_le_mul_right w hy
        rw [Nat.succ_mul, Nat.mul_comm ht] at hrow
        omega
      rw [intAt_of_img himg, ← h.next]
      exact hown.intAt_paint (p := (x, y)) hall (.inl (mem_placesTo hx hpos)) hx hy

end

section
variable {s t : State} {index pal nc nd bd n : Nat} {pr : Predictor} {img : ModImage} {ci cp : Channel} {bi bp : Buffer}
  {idx : Nat → Nat → Int} {out : Nat → Nat → Nat → Int} {header : Option WpHeader} {wp : Nat → Nat → Option Wp}

/-- The row of the palette an output channel takes its values from. -/
def State.paletteRow (s : State) (pal w c : Nat) : List Int := (List.range w).map fun k => (s.intAt pal k c).getD 0

theorem intRow_paletteRow {h w c : Nat} (hsome : ∀ k, k < w → (s.intAt h k c).isSome = true) :
    s.intRow h w c = some (s.paletteRow h w c) :=
  allSome_map_some fun k hk => by
    obtain ⟨z, hz⟩ := Option.isSome_iff_exists.1 (hsome k (List.mem_range.1 hk))
    rw [hz, Option.getD_some]

theorem propAt_paletteRow {h w c k : Nat} (hk : k < w) : propAt (s.paletteRow h w c) k = (s.intAt h k c).getD 0 :=
  propAt_of_getElem? (by rw [State.paletteRow, List.getElem?_map, List.getElem?_range hk, Option.map_some])

/-- What M.PALETTE needs of the state it begins in. -/
structure PaletteReady (s : State) (nc nd bd : Nat) (pr : Predictor) (ci cp : Channel) (bi bp : Buffer) (idx : Nat → Nat → Int)
    (out : Nat → Nat → Nat → Int) (header : Option WpHeader) (wp : Nat → Nat → Option Wp) : Prop where
  oldIndex : ci.buf < s.img.next
  oldPalette : cp.buf < s.img.next
  colours : nc ≤ bp.width
  granted : ∀ c, c < bp.height → s.grants (s.img.next + c) (bi.width, bi.height, .int) = true
  palette : ∀ k c, k < bp.width → c < bp.height → (s.intAt cp.buf k c).isSome = true
  index : ∀ x y, x < bi.width → y < bi.height → s.intAt ci.buf x y = some (idx x y)
  weighted : pr = .weighted → header ≠ none
  first : ∀ c, c < bp.height → wp c 0 = header.map fun h => wpInit h bi.width
  channel : ∀ c, c < bp.height → PaletteChannel s.inp.params pr nd bi.width bi.height c idx
    (fun x y => paletteValue s.inp.params nc bd (fun k => (s.intAt cp.buf k c).getD 0) (idx x y) c) (out c) (wp c)

theorem PaletteReady.rowChannel (h : PaletteReady s nc nd bd pr ci cp bi bp idx out header wp) {c : Nat} (hc : c < bp.height) :
    RowChannel s.inp.params pr nc nd bd bi.width bi.height c (s.paletteRow cp.buf bp.width c) idx (out c) (wp c) := by
  unfold RowChannel
  have hvalue : ∀ i, paletteValue s.inp.params nc bd (fun k => propAt (s.paletteRow cp.buf bp.width c) k) i c =
      paletteValue s.inp.params nc bd (fun k => (s.intAt cp.buf k c).getD 0) i c :=
    paletteValue_congr fun k hk => propAt_paletteRow (hk.trans_le h.colours)
  simp only [hvalue]
  exact h.channel c hc

theorem paletteChannel_ok (h : PaletteReady s nc nd bd pr ci cp bi bp idx out header wp)
    (ht : Rebuilt s bi.width bi.height out n t) (hn : n < bp.height) :
    paletteChannel nc nd pr bd (ci, bi) (cp, bp) header n t =
      .ok { ci with buf := s.img.next + n } (t.channelPainted bi.width bi.height (out n) (wp n)) := by
  have hrow : intRow cp.buf bp.width n t = .ok (s.paletteRow cp.buf bp.width n) t :=
    intRow_ok ((intRow_congr (ht.reads _ h.oldPalette) _ _).trans (intRow_paletteRow fun k hk => h.palette k n hk hn))
  have hgrant : t.grants t.img.next (bi.width, bi.height, .int) = true := by
    rw [grants_of_inp ht.inp, ht.next]
    exact h.granted n hn
  have hold : ci.buf ≠ t.img.next := by
    rw [ht.next]
    exact (Nat.lt_add_right n h.oldIndex).ne
  have hindex : ∀ x y, x < bi.width → y < bi.height →
      (t.allocated bi.width bi.height .int).intAt ci.buf x y = some (idx x y) := fun x y hx hy => by
    rw [intAt_allocated_other ht.handles _ _ _ hold, ht.reads _ h.oldIndex, h.index x y hx hy]
  have hchannel := h.rowChannel hn
  rw [← ht.inp] at hchannel
  have hloop := each_palettePixel_ok (s := t.allocated bi.width bi.height .int) (sole_allocated ht.handles bi.width bi.height) hold
    hindex hchannel fun hp => by
      rw [h.first n hn]
      simpa using h.weighted hp
  rw [filled_zero, h.first n hn] at hloop
  rw [paletteChannel, Op.bind_ok hrow, Op.bind_ok (alloc_ok hgrant), Op.bind_ok (upd_apply _ _), Op.bind_ok hloop, ← ht.next]
  rfl

theorem paletteFinish_ok (hs : s.img.handlesOk = true) (h : PaletteReady s nc nd bd pr ci cp bi bp idx out header wp) :
    ∃ t, Rebuilt s bi.width bi.height out bp.height t ∧
      paletteFinish index pal nc nd pr bd (ci, bi) (cp, bp) s.mod.wp header s = .ok ()
        (((t.setMod fun m => { m with wp := s.mod.wp }).setMod fun m =>
          { m with image := m.image.map fun i => { i with channels :=
            (splice index pal ((List.range bp.height).map fun c => { ci with buf := s.img.next + c }) 0 i.channels) } }).released
          [ci.buf, cp.buf]) := by
  obtain ⟨t, hcollect, ht⟩ := collect_range_ok (f := paletteChannel nc nd pr bd (ci, bi) (cp, bp) header)
    (g := fun c => { ci with buf := s.img.next + c }) (n := bp.height) (rebuilt_zero (w := bi.width) (ht := bi.height) (out := out) hs)
    fun k u hk hu => ⟨_, paletteChannel_ok h hu hk, hu.succ (wp k)⟩
  refine ⟨t, ht, ?_⟩
  rw [paletteFinish, Op.bind_ok hcollect]
  rfl

/-- The operands are known, and the header of the weighted predictor where it is asked for. -/
theorem undoPalette_finish (himg : s.mod.image = some img) (hne : index ≠ pal) (hi : ChannelIs s img index ci bi)
    (hp : ChannelIs s img pal cp bp) (hnc : nc ≤ bp.width) (hheader : header = if pr = .weighted then s.mod.wp.map Wp.header else none)
    (hwp : pr = .weighted → s.mod.wp ≠ none) :
    undoPalette index pal nc nd pr bd s = paletteFinish index pal nc nd pr bd (ci, bi) (cp, bp) s.mod.wp header s := by
  rw [undoPalette_eq, Op.bind_ok (operandChannel_ok himg hi), Op.bind_ok (operandChannel_ok himg hp),
    Op.bind_ok (check_ok (by simp [hne, hnc]) _ _), Op.bind_ok (getState_apply s), hheader]
  by_cases hpr : pr = .weighted
  · obtain ⟨v, hv⟩ := Option.ne_none_iff_exists'.1 (hwp hpr)
    rw [if_pos hpr, if_pos hpr, hv]
    rfl
  · rw [if_neg hpr, if_neg hpr]

theorem exec_mPalette_ok (himg : s.mod.image = some img) (hs : s.img.handlesOk = true) (hne : index ≠ pal)
    (hi : ChannelIs s img index ci bi) (hp : ChannelIs s img pal cp bp)
    (hheader : header = if pr = .weighted then s.mod.wp.map Wp.header else none) (hwp : pr = .weighted → s.mod.wp ≠ none)
    (h : PaletteReady s nc nd bd pr ci cp bi bp idx out header wp) :
    ∃ b : Buffers,
      exec (.mPalette index pal nc nd pr bd) s = .next
        { s with
          img := b
          mod := { s.mod with image := some { img with channels :=
            (splice index pal ((List.range bp.height).map fun c => { ci with buf := s.img.next + c }) 0 img.channels) } }
          ret := .none } ∧
      OnlyReplaced s b ci.buf cp.buf bp.height ∧
      ∀ x y c, x < bi.width → y < bi.height → c < bp.height → (withImg s b).intAt (s.img.next + c) x y = some (out c x y) := by
  obtain ⟨t, ht, hfinish⟩ := paletteFinish_ok (index := index) (pal := pal) hs h
  have hexec := runUnit_ok ((undoPalette_finish (nd := nd) (bd := bd) himg hne hi hp h.colours hheader hwp).trans hfinish)
  refine ⟨(t.released [ci.buf, cp.buf]).img, hexec.trans ?_, ⟨?_, ?_, ?_, ?_, ?_⟩, ?_⟩
  · rw [ht.rest]
    simp only [State.released, State.setImg, State.setMod, State.setRet, himg, Option.map_some]
  · exact assocGet_released_gone (by simp)
  · exact assocGet_released_gone (by simp)
  · rw [released_next, ht.next]
  · rw [released_refs, ht.refs]
  · intro k hk hku hkv
    rw [assocGet_released (by simp [hku, hkv]), ht.kept k hk]
  · intro x y c hx hy hc
    have hnew : s.img.next + c ∉ [ci.buf, cp.buf] := by
      have hci := h.oldIndex
      have hcp := h.oldPalette
      simp only [List.mem_cons, List.not_mem_nil, or_false, not_or]
      omega
    have hreads : (withImg s (t.released [ci.buf, cp.buf]).img).intAt = (t.released [ci.buf, cp.buf]).intAt := intAt_of_img rfl
    rw [hreads, (ht.sole c hc).intAt_released hnew hx hy,
      ht.samples c hc x y hx hy]

end

theorem paletteValue_ranges (p : Params) (nc depth c : Nat) (f : Nat → Int) (k : Nat) :
    (k < nc → paletteValue p nc depth f k c = f k) ∧
    (k < 64 → paletteValue p nc depth f (nc + k : Nat) c = Cfg.smallCube p k c depth) ∧
    paletteValue p nc depth f (nc + 64 + k : Nat) c = Cfg.largeCube p k c depth ∧
    paletteValue p nc depth f (-(k + 1 : Nat)) c = Cfg.deltaPalette p (-(k + 1 : Nat)) c depth := by
  refine ⟨fun hk => ?_, fun hk => ?_, ?_, ?_⟩ <;> unfold paletteValue
  · rw [if_neg (by omega), if_pos (by omega), Int.toNat_natCast]
  · rw [if_neg (by omega), if_neg (by omega), if_pos (by omega), Int.toNat_natCast, Nat.add_sub_cancel_left]
  · rw [if_neg (by omega), if_neg (by omega), if_neg (by omega), Int.toNat_natCast, Nat.add_assoc, Nat.add_sub_cancel_left,
      Nat.add_sub_cancel_left]
  · rw [if_pos (by omega)]

/-- Settles O50: the output channels are built one after another, each sample from the samples of its channel before it. -/
theorem paletteValues : Obligations.PaletteValues := by
  refine ⟨?_, paletteValue_ranges⟩
  intro s img index pal nc nd depth pr ci cp bi bp idx out header wp himg hs hne hheader hi hp _ hnc hgrants hpal hidx hchannels
  have hwp : pr = .weighted → s.mod.wp ≠ none := fun hpr => by
    obtain ⟨v, hv, _⟩ := hheader hpr
    rw [hv]
    exact Option.some_ne_none v
  refine exec_mPalette_ok himg hs hne hi hp rfl hwp ⟨hi.old, hp.old, hnc, hgrants, hpal, hidx, fun hpr => ?_, fun c hc => ?_,
    fun c hc => (hchannels c hc).2⟩
  · rw [if_pos hpr]
    simpa using hwp hpr
  · rw [(hchannels c hc).1]
    by_cases hpr : pr = .weighted
    · obtain ⟨v, hv, hvh⟩ := hheader hpr
      rw [if_pos hpr, if_pos hpr, hv, ← hvh]
      rfl
    · rw [if_neg hpr, if_neg hpr]
      rfl

end Sys2Proof.Machine

/-! R.SAVE (46_render_pipeline.md R365, R366): which bytes of HOST's memory it writes. -/

namespace Sys2Proof.Machine

open Sys2Proof.Claims

/-! ### The bytes of an output sample -/

theorem length_bytesLe (n v : Nat) : (bytesLe n v).length = n := by
  induction n generalizing v with
  | zero => rfl
  | succ n ih => rw [bytesLe, List.length_cons, ih]

theorem getElem?_bytesLe {n k : Nat} (v : Nat) (hk : k < n) : (bytesLe n v)[k]? = some (BitVec.ofNat 8 (v / 256 ^ k)) := by
  induction n generalizing v k with
  | zero => omega
  | succ n ih =>
    cases k with
    | zero => rw [bytesLe, List.getElem?_cons_zero, Nat.pow_zero, Nat.div_one]
    | succ k => rw [bytesLe, List.getElem?_cons_succ, ih _ (by omega), Nat.div_div_eq_div_mul, Nat.pow_succ']

@[simp] theorem length_sampleBytesOut (e : Endian) (n v : Nat) : (sampleBytesOut e n v).length = n := by
  cases e
  · exact length_bytesLe n v
  · rw [sampleBytesOut, List.length_reverse, length_bytesLe]

theorem getElem?_sampleBytesOut {o : OutSample} (e : Endian) {k : Nat} (hk : k < o.len) :
    (sampleBytesOut e o.len o.value)[k]? = some (o.byte e k) := by
  cases e with
  | little => exact getElem?_bytesLe _ hk
  | big =>
    rw [sampleBytesOut, List.getElem?_reverse (by rwa [length_bytesLe]), length_bytesLe, getElem?_bytesLe _ (by omega)]
    rfl

theorem read_writeList_same (bs : List Byte) (m : Memory) (a : Nat) {k : Nat} (hk : k < bs.length) :
    (m.writeList a bs).read (a + k) = bs[k]? := by
  induction bs generalizing m a k with
  | nil => exact absurd hk (Nat.not_lt_zero k)
  | cons b rest ih =>
    rw [Memory.writeList]
    cases k with
    | zero =>
      rw [Memory.read_writeList_other _ _ _ _ (by omega), List.getElem?_cons_zero]
      exact Memory.read_write_same _ _ _
    | succ k =>
      rw [List.length_cons] at hk
      rw [List.getElem?_cons_succ, ← ih (m.write a b) (a + 1) (by omega), Nat.add_assoc a 1 k, Nat.add_comm 1 k]

/-! ### Samples into a row of a plane -/

/-- HOST's memory after the samples of a row segment, each written where it lies inside its plane. -/
def Memory.saved (m : Memory) (pl : Plane) (y : Nat) (e : Endian) (os : List OutSample) : Memory :=
  match os with
  | [] => m
  | o :: rest =>
    (if y < pl.rows ∧ o.off + o.len ≤ pl.rowBytes then
      m.writeList (pl.base + y * pl.strideBytes + o.off) (sampleBytesOut e o.len o.value)
    else m).saved pl y e rest

section
variable {m : Memory} {pl : Plane} {y a : Nat} {e : Endian} {os : List OutSample}

theorem read_saved_other (h : ∀ o ∈ os, o.inside pl y →
    a < pl.base + y * pl.strideBytes + o.off ∨ pl.base + y * pl.strideBytes + o.off + o.len ≤ a) :
    (m.saved pl y e os).read a = m.read a := by
  induction os generalizing m with
  | nil => rfl
  | cons o rest ih =>
    obtain ⟨ho, hrest⟩ := List.forall_mem_cons.1 h
    rw [Memory.saved, ih hrest]
    split
    · next hin => exact Memory.read_writeList_other _ _ _ _ (by rw [length_sampleBytesOut]; exact ho hin)
    · rfl

theorem read_saved_same {i k : Nat} {o : OutSample} (hi : os[i]? = some o) (hin : o.inside pl y)
    (hlater : ∀ j o', os[j]? = some o' → i < j → o'.off + o'.len ≤ o.off ∨ o.off + o.len ≤ o'.off) (hk : k < o.len) :
    (m.saved pl y e os).read (pl.base + y * pl.strideBytes + o.off + k) = some (o.byte e k) := by
  induction os generalizing m i with
  | nil => simp at hi
  | cons o' rest ih =>
    rw [Memory.saved]
    cases i with
    | zero =>
      rw [List.getElem?_cons_zero] at hi
      obtain rfl := Option.some.inj hi
      have hin' : y < pl.rows ∧ o'.off + o'.len ≤ pl.rowBytes := hin
      rw [read_saved_other, if_pos hin', read_writeList_same _ _ _ (by rwa [length_sampleBytesOut]), getElem?_sampleBytesOut _ hk]
      intro p hp _
      obtain ⟨j, hj⟩ := List.getElem?_of_mem hp
      have hapart := hlater (j + 1) p hj (Nat.succ_pos j)
      omega
    | succ i =>
      exact ih hi fun j o'' hj hij => hlater (j + 1) o'' hj (Nat.succ_lt_succ hij)

end

section
variable {s : State} {pl : Plane} {y : Nat}

theorem putOut_ok (s : State) (pl : Plane) (y : Nat) (e : Endian) (o : OutSample) :
    putOut pl y o.off (sampleBytesOut e o.len o.value) s =
      .ok () (s.setHost fun h => { h with outMem := h.outMem.saved pl y e [o] }) := by
  rw [putOut, length_sampleBytesOut]
  simp only [Memory.saved]
  by_cases h : y < pl.rows ∧ o.off + o.len ≤ pl.rowBytes
  · simp only [if_pos h, upd_apply]
  · simp only [if_neg h]
    rfl

/-- Saving a row segment saves the samples one after another. -/
theorem each_putOut_ok {α : Type} (s : State) (pl : Plane) (y : Nat) (e : Endian) (f : α → OutSample) (l : List α) :
    each l (fun a => putOut pl y (f a).off (sampleBytesOut e (f a).len (f a).value)) s =
      .ok () (s.setHost fun h => { h with outMem := h.outMem.saved pl y e (l.map f) }) := by
  induction l generalizing s with
  | nil => rfl
  | cons a rest ih =>
    rw [each, Op.bind_ok (putOut_ok s pl y e (f a)), ih]
    rfl

end

theorem row_of_img {s t : State} (himg : t.img = s.img) (h y x0 n : Nat) : t.row h y x0 n = s.row h y x0 n := by
  unfold State.row
  rw [sample_of_img himg]

/-! ### The plane check -/

theorem planesMatch_iff {out : List Plane} {expected : List (Nat × Nat)} :
    planesMatch out expected = true ↔ PlanesOk out expected := by
  rw [planesMatch, Bool.and_eq_true, decide_eq_true_eq, PlanesOk]
  refine and_congr_right fun _ => List.all_eq_true.trans ⟨fun h i pl e hpl he => ?_, fun h x hx => ?_⟩
  · have hmem : (pl, e) ∈ out.zip expected := List.mem_of_getElem? (List.getElem?_zip_eq_some.2 ⟨hpl, he⟩)
    simpa [planeOk, and_assoc] using h _ hmem
  · obtain ⟨i, hi⟩ := List.getElem?_of_mem hx
    obtain ⟨hpl, he⟩ := List.getElem?_zip_eq_some.1 hi
    simpa [planeOk, and_assoc] using h i x.1 x.2 hpl he

section
variable {s : State} {r : Render} {ih : ImageHeader} {out : List Plane}

/-- The planes supplied are the expected ones, for a preview those of the preview's size. -/
def State.planesOk (s : State) (ih : ImageHeader) (out : List Plane) : Prop :=
  PlanesOk out (Cfg.expectedPlanes s.inp.params (planesHeader s.ctl.fPreview ih) s.ctl.opt.pixelFormat)

theorem checkPlanes_ok (hr : s.rnd = some r) (hih : s.par.imageHeader = some ih) (h : r.checked = true ∨ s.planesOk ih out) :
    checkPlanes out s = .ok () (s.setRnd (some { r with checked := true })) := by
  rw [checkPlanes, Op.bind_ok (getRender_ok hr)]
  by_cases hc : r.checked = true
  · have hsame : ({ r with checked := true } : Render) = r := by rw [← hc]
    rw [if_pos hc, hsame, ← hr]
    rfl
  · rw [if_neg hc, Op.bind_ok (getImageHeader_ok hih), Op.bind_ok (getState_apply s),
      Op.bind_ok (check_ok (planesMatch_iff.2 (h.resolve_left hc)) _ s), setRender, upd_apply, hr]
    rfl

theorem checkPlanes_trap (hr : s.rnd = some r) (hih : s.par.imageHeader = some ih) (hc : r.checked = false)
    (h : ¬ s.planesOk ih out) : checkPlanes out s = .error (.fatal .resourceLimit) s := by
  rw [checkPlanes, Op.bind_ok (getRender_ok hr), if_neg (by simp [hc]), Op.bind_ok (getImageHeader_ok hih),
    Op.bind_ok (getState_apply s)]
  exact Op.check_bind_of_not (mt planesMatch_iff.1 h) _ _ _

/-! ### R.SAVE -/

theorem saveRow_absent (h : s.ctl.out = none) (channel plane y x0 n : Nat) : saveRow channel plane y x0 n s = .ok () s := by
  rw [saveRow, Op.bind_ok (getState_apply s), h]
  rfl

theorem saveRow_trap (hout : s.ctl.out = some out) (hr : s.rnd = some r) (hih : s.par.imageHeader = some ih)
    (hc : r.checked = false) (h : ¬ s.planesOk ih out) (channel plane y x0 n : Nat) :
    saveRow channel plane y x0 n s = .error (.fatal .resourceLimit) s := by
  rw [saveRow, Op.bind_ok (getState_apply s), hout]
  exact Op.bind_error (checkPlanes_trap hr hih hc h) _

/-- The output samples of a row segment from column x0 on. -/
def State.outSamples (s : State) (ih : ImageHeader) (channel x0 : Nat) (vs : List Sample) : List OutSample :=
  vs.zipIdx.map fun e => outSample s ih channel x0 e.2 e.1

theorem getElem?_outSamples {channel x0 i : Nat} {vs : List Sample} :
    (s.outSamples ih channel x0 vs)[i]? = (vs[i]?).map fun v => outSample s ih channel x0 i v := by
  rw [State.outSamples, List.getElem?_map, List.getElem?_zipIdx, Option.map_map, Nat.zero_add]
  rfl

theorem mem_outSamples {channel x0 : Nat} {vs : List Sample} {o : OutSample} (ho : o ∈ s.outSamples ih channel x0 vs) :
    ∃ i v, vs[i]? = some v ∧ o = outSample s ih channel x0 i v := by
  obtain ⟨i, hi⟩ := List.getElem?_of_mem ho
  rw [getElem?_outSamples] at hi
  obtain ⟨v, hv, ho⟩ := Option.map_eq_some_iff.1 hi
  exact ⟨i, v, hv, ho.symm⟩

theorem saveRow_ok {channel plane y x0 n h : Nat} {pl : Plane} {vs : List Sample} (hout : s.ctl.out = some out)
    (hr : s.rnd = some r) (hih : s.par.imageHeader = some ih) (hc : r.checked = true ∨ s.planesOk ih out)
    (hh : r.chans[channel]? = some h) (hpl : out[plane]? = some pl) (hvs : s.row h y x0 n = some vs) :
    saveRow channel plane y x0 n s = .ok () ((s.setRnd (some { r with checked := true })).setHost fun x =>
      { x with outMem := x.outMem.saved pl y (Cfg.outputFormat s.inp.params ih s.ctl.opt.pixelFormat).endian
                  (s.outSamples ih channel x0 vs) }) := by
  have hrow : (s.setRnd (some { r with checked := true })).row h y x0 n = some vs := (row_of_img rfl h y x0 n).trans hvs
  have hih' : getImageHeader (s.setRnd (some { r with checked := true })) = .ok ih _ := getImageHeader_ok hih
  rw [saveRow, Op.bind_ok (getState_apply s), hout]
  refine (Op.bind_ok (checkPlanes_ok hr hih hc) _).trans ((Op.bind_ok (getRender_ok rfl) _).trans
    ((Op.bind_ok hih' _).trans ?_))
  rw [hh, Op.bind_ok (present_some _ _ _), hpl]
  refine (Op.bind_ok (readRow_ok hrow) _).trans ((Op.bind_ok (getParams_apply _) _).trans ?_)
  exact each_putOut_ok _ pl y _ (fun e => outSample s ih channel x0 e.2 e.1) vs.zipIdx

end

end Sys2Proof.Machine

namespace Sys2Proof

open Machine

/-- Settles O57: the samples inside the plane are written one after another, and only where they lie. -/
theorem saveRow : Obligations.SaveRow := by
  refine ⟨fun s channel plane y x0 x1 h => runUnit_ok (saveRow_absent h _ _ _ _ _),
    fun s channel plane y x0 x1 out r ih hout hr hih hc h => runUnit_fatal (saveRow_trap hout hr hih hc h _ _ _ _ _), ?_⟩
  intro s channel plane y x0 x1 h out pl r ih vs hout hr hih hc hh hpl hvs
  refine ⟨_, runUnit_ok (saveRow_ok hout hr hih hc hh hpl hvs), fun a ha => ?_, fun a ha => ?_, ?_⟩
  · refine read_saved_other fun o ho hin => ?_
    obtain ⟨i, v, hv, rfl⟩ := mem_outSamples ho
    exact ha i v hv hin
  · refine read_saved_other fun o _ hin => ?_
    obtain ⟨hy, hoff⟩ := hin
    omega
  · intro i v hv hin hapart k hk
    refine read_saved_same (i := i) (by rw [getElem?_outSamples, hv]; rfl) hin (fun j o hj hij => ?_) hk
    rw [getElem?_outSamples] at hj
    obtain ⟨w, hw, rfl⟩ := Option.map_eq_some_iff.1 hj
    exact hapart j w hw (Nat.ne_of_gt hij)

end Sys2Proof

/-! Samples written to the channels of a pipeline (46_render_pipeline.md): what a stage leaves as it was while it writes. -/

namespace Sys2Proof.Machine

open Sys2Proof.Claims

/-! ### Loops that write -/

/-- A loop whose every round leads to a state given by a function, and keeps a property. -/
theorem each_foldl_ok {α : Type} {R : State → Prop} {f : α → Op Unit} {g : State → α → State} {xs : List α} {t : State} (h0 : R t)
    (h : ∀ e ∈ xs, ∀ t, R t → f e t = .ok () (g t e) ∧ R (g t e)) :
    each xs f t = .ok () (xs.foldl g t) ∧ R (xs.foldl g t) := by
  induction xs generalizing t with
  | nil => exact ⟨rfl, h0⟩
  | cons e rest ih =>
    obtain ⟨he, hrest⟩ := List.forall_mem_cons.1 h
    obtain ⟨hf, hR⟩ := he t h0
    rw [each, Op.bind_ok hf]
    exact ih hR hrest

theorem putRows_eq_foldl {α : Type} (row : α → Nat × List Sample) (y x0 : Nat) (xs : List α) (t : State) :
    putRows t y x0 (xs.map row) = xs.foldl (fun u e => u.putRow (row e).1 y x0 (row e).2) t := by
  induction xs generalizing t with
  | nil => rfl
  | cons e rest ih => rw [List.map_cons, putRows, ih]; rfl

/-! ### What writing leaves -/

/-- The shape of a buffer: all but its samples. -/
def Buffer.shape (b : Buffer) : Nat × Nat × SampleType × Nat × Ownership := (b.width, b.height, b.ty, b.stride, b.ownership)

/-- `t` is `s` with samples written, none of them in the buffers `keep`. -/
structure Written (keep : List Nat) (s t : State) : Prop where
  rest : t = s.setImg fun _ => t.img
  refs : t.img.refs = s.img.refs
  room : ∀ ty h x y, t.canWrite ty h x y = s.canWrite ty h x y
  shape : ∀ h, (assocGet t.img.bufs h).map Buffer.shape = (assocGet s.img.bufs h).map Buffer.shape
  reads : ∀ h ∈ keep, t.sample h = s.sample h

section
variable {s t : State} {keep : List Nat} {h x y x0 n : Nat}

theorem written_refl (keep : List Nat) (s : State) : Written keep s s :=
  ⟨rfl, rfl, fun _ _ _ _ => rfl, fun _ => rfl, fun _ _ => rfl⟩

theorem Written.inp (hw : Written keep s t) : t.inp = s.inp := by rw [hw.rest]; rfl
theorem Written.rnd (hw : Written keep s t) : t.rnd = s.rnd := by rw [hw.rest]; rfl
theorem Written.par (hw : Written keep s t) : t.par = s.par := by rw [hw.rest]; rfl
theorem Written.ctl (hw : Written keep s t) : t.ctl = s.ctl := by rw [hw.rest]; rfl

/-- A buffer of `s` is one of `t`, of the same shape. -/
theorem Written.buffer (hw : Written keep s t) {b : Buffer} (hb : assocGet s.img.bufs h = some b) :
    ∃ c, assocGet t.img.bufs h = some c ∧ c.shape = b.shape := by
  have hs := hw.shape h
  rw [hb] at hs
  exact Option.map_eq_some_iff.1 hs

theorem typeOf_of_shape (hs : (assocGet t.img.bufs h).map Buffer.shape = (assocGet s.img.bufs h).map Buffer.shape) :
    typeOf t h = typeOf s h := by
  unfold typeOf
  cases ht : assocGet t.img.bufs h with
  | none =>
    rw [ht] at hs
    rw [Option.map_eq_none_iff.1 hs.symm]
  | some c =>
    rw [ht] at hs
    obtain ⟨b, hb, hcb⟩ := Option.map_eq_some_iff.1 hs.symm
    rw [hb]
    exact (congrArg (fun x => x.2.2.1) hcb).symm

theorem Written.typeOf (hw : Written keep s t) (h : Nat) : typeOf t h = typeOf s h := typeOf_of_shape (hw.shape h)

theorem Written.owned (hw : Written keep s t) (ho : Owned s h) : Owned t h := by
  obtain ⟨b, hb, hown⟩ := ho
  obtain ⟨c, hc, hcb⟩ := hw.buffer hb
  exact ⟨c, hc, (congrArg (fun x => x.2.2.2.2) hcb).trans hown⟩

theorem Written.row (hw : Written keep s t) (hk : h ∈ keep) (y x0 n : Nat) : t.row h y x0 n = s.row h y x0 n := by
  unfold State.row
  rw [hw.reads h hk]

theorem Written.holds (hw : Written keep s t) {ty : SampleType} {y0 w ht : Nat} (hs : s.holds ty h x0 y0 w ht) :
    t.holds ty h x0 y0 w ht := fun x y hx hy => (hw.room _ _ _ _).trans (hs x y hx hy)

/-- The buffers kept are not the one written, or none is kept. -/
def Apart (s : State) (keep : List Nat) (h : Nat) : Prop := ∀ k ∈ keep, Owned s k ∧ Owned s h ∧ k ≠ h

theorem apart_nil (s : State) (h : Nat) : Apart s [] h := fun _ hk => absurd hk List.not_mem_nil

theorem Written.putSample (hw : Written keep s t) (ha : Apart s keep h) (x y : Nat) (v : Sample) :
    Written keep s (t.putSample h x y v) where
  rest :=
    have hrest := congrArg (fun u : State => u.setImg fun _ => (t.putSample h x y v).img) hw.rest
    (putSample_eq t h x y v).trans hrest
  refs := (putSample_refs h x y v).trans hw.refs
  room ty k x' y' := (putSample_canWrite t h x y v ty k x' y').trans (hw.room ty k x' y')
  shape k := (putSample_shape t h x y v k).trans (hw.shape k)
  reads k hk := by
    obtain ⟨hk', hh, hne⟩ := ha k hk
    funext x' y'
    rw [sample_putSample_owned (hw.owned hh) (hw.owned hk') hne, hw.reads k hk]

theorem Written.putRow (hw : Written keep s t) (ha : Apart s keep h) (y x0 : Nat) (vs : List Sample) :
    Written keep s (t.putRow h y x0 vs) := by
  induction vs generalizing t x0 with
  | nil => exact hw
  | cons v rest ih => exact ih (hw.putSample ha _ _ _) _

/-! ### Lines of samples -/

theorem type_pick (v : AnySample) (ty : SampleType) : (v.pick ty).type = ty := by
  cases ty <;> rfl

theorem type_of_mem_range_map {n : Nat} {g : Nat → Sample} {ty : SampleType} (hg : ∀ i, (g i).type = ty) {v : Sample}
    (hv : v ∈ (List.range n).map g) : v.type = ty := by
  obtain ⟨i, -, rfl⟩ := List.mem_map.1 hv
  exact hg i

/-- A line of samples of the buffer's type is written where there is room. -/
theorem Written.writeRow_ok (hw : Written keep s t) {ty : SampleType} {vs : List Sample} (hroom : s.holds ty h x0 y n 1)
    (hty : ∀ v ∈ vs, v.type = ty) (hlen : vs.length ≤ n) : writeRow h y x0 vs t = .ok () (t.putRow h y x0 vs) :=
  Machine.writeRow_ok vs hty fun x hx => by
    have hcan := hroom x 0 (hx.trans_le hlen) Nat.one_pos
    rwa [Nat.add_zero, ← hw.room] at hcan

/-- The rounds of a stage: a line for the buffer of each, whose type it hangs on. -/
def lineTo (h y x0 : Nat) (line : SampleType → List Sample) : Op Unit := do
  let b ← getBuf h
  writeRow h y x0 (line b.ty)

/-- The buffer has room for a line. -/
def RoomFor (s : State) (h y x0 n : Nat) : Prop :=
  (assocGet s.img.bufs h).isSome = true ∧ s.holds (Claims.typeOf s h) h x0 y n 1

theorem Written.lineTo_ok (hw : Written keep s t) (hroom : RoomFor s h y x0 n) {line : SampleType → List Sample}
    (hty : ∀ ty, ∀ v ∈ line ty, v.type = ty) (hlen : ∀ ty, (line ty).length ≤ n) :
    lineTo h y x0 line t = .ok () (t.putRow h y x0 (line (Claims.typeOf s h))) := by
  obtain ⟨hsome, hholds⟩ := hroom
  obtain ⟨b, hb⟩ := Option.isSome_iff_exists.1 hsome
  obtain ⟨c, hc, hcb⟩ := hw.buffer hb
  have hcty : c.ty = Claims.typeOf s h := by
    rw [Claims.typeOf, hb]
    exact congrArg (fun x => x.2.2.1) hcb
  rw [lineTo, Op.bind_ok (getBuf_ok hc), hcty]
  exact hw.writeRow_ok hholds (hty _) (hlen _)

/-- A line for each of a list of buffers. -/
theorem Written.each_lineTo_ok {α : Type} {xs : List α} {buf : α → Nat} {line : α → SampleType → List Sample}
    (hw : Written keep s t) (hroom : ∀ e ∈ xs, RoomFor s (buf e) y x0 n) (ha : ∀ e ∈ xs, Apart s keep (buf e))
    (hty : ∀ e ty, ∀ v ∈ line e ty, v.type = ty) (hlen : ∀ e ty, (line e ty).length ≤ n) :
    each xs (fun e => lineTo (buf e) y x0 (line e)) t =
        .ok () (putRows t y x0 (xs.map fun e => (buf e, line e (Claims.typeOf s (buf e))))) ∧
      Written keep s (putRows t y x0 (xs.map fun e => (buf e, line e (Claims.typeOf s (buf e))))) := by
  rw [putRows_eq_foldl]
  exact each_foldl_ok hw fun e he u hu =>
    ⟨hu.lineTo_ok (hroom e he) (hty e) (hlen e), hu.putRow (ha e he) _ _ _⟩

end

/-! ### The channels and the reference slot of a stage -/

section
variable {s t : State} {r : Render} {set hs : List Nat} {f : StageFn}

theorem stageBuffers_ok (hr : s.rnd = some r) (hc : channelsOf r set = some hs) : stageBuffers set s = .ok hs s := by
  rw [stageBuffers, Op.bind_ok (getRender_ok hr)]
  exact collect_ok (g := fun c => r.chans[c]?) set (fun c _ h hh => by rw [hh, present_some]) hc

theorem length_of_channelsOf (hc : channelsOf r set = some hs) : hs.length = set.length := by
  have hlen := allSome_length hc
  rwa [List.length_map] at hlen

theorem readRows_ok {h : Nat} {rows : List (List Sample)} (hrows : rowsIn s h = some rows) : readRows h s = .ok rows s := by
  unfold rowsIn at hrows
  cases hb : assocGet s.img.bufs h with
  | none => rw [hb] at hrows; cases hrows
  | some b =>
    rw [hb] at hrows
    rw [readRows, Op.bind_ok (getBuf_ok hb)]
    exact collect_ok (g := fun y => s.row h y 0 b.width) _ (fun _ _ _ hv => readRow_ok hv) hrows

theorem stageRefs_ok {ref : List (List (List Sample))} (h : RefsAre s f ref) : stageRefs f s = .ok ref s := by
  cases f with
  | withRef id slot =>
    obtain ⟨planes, hplanes, hrows⟩ := h
    rw [stageRefs, Op.bind_ok (getState_apply s), hplanes]
    exact collect_ok (g := rowsIn s) planes (fun _ _ _ hv => readRows_ok hv) hrows
  | named id => rw [show ref = [] from h]; rfl
  | cms => rw [show ref = [] from h]; rfl
  | cmsInplace => rw [show ref = [] from h]; rfl
  | spot id => rw [show ref = [] from h]; rfl
  | premultiply => rw [show ref = [] from h]; rfl

theorem stageRefs_trap {id slot : Nat} (h : assocGet s.img.refs slot = none) :
    stageRefs (.withRef id slot) s = .error (.fatal .format) s := by
  rw [stageRefs, Op.bind_ok (getState_apply s), h]
  rfl

end

end Sys2Proof.Machine

/-! R.INPLACE (46_render_pipeline.md R362, R373, R375): a stage's function of row segments, colour management, alpha. -/

namespace Sys2Proof.Machine

open Sys2Proof.Claims

theorem allSome_cons_eq {α : Type} {o : Option α} {l : List (Option α)} {vs : List α} (h : allSome (o :: l) = some vs) :
    ∃ v ws, o = some v ∧ allSome l = some ws ∧ vs = v :: ws := by
  cases o with
  | none => cases h
  | some v =>
    cases hl : allSome l with
    | none => rw [allSome, hl] at h; cases h
    | some ws => rw [allSome, hl] at h; cases h; exact ⟨v, ws, rfl, rfl, rfl⟩

theorem allSome_map_map {α β γ : Type} {f : α → Option β} (g : β → γ) {l : List α} {vs : List β} (h : allSome (l.map f) = some vs) :
    allSome (l.map fun a => (f a).map g) = some (vs.map g) := by
  induction l generalizing vs with
  | nil => cases h; rfl
  | cons a rest ih =>
    rw [List.map_cons] at h
    obtain ⟨v, ws, hv, hws, rfl⟩ := allSome_cons_eq h
    rw [List.map_cons, hv, Option.map_some, allSome, ih hws, List.map_cons]

section
variable {s : State} {r : Render} {set hs : List Nat} {f : StageFn} {y x0 n : Nat} {segs : List (List Sample)}
  {ref : List (List (List Sample))} {ih : ImageHeader}

theorem Segments.collect_ok (hsegs : Segments s hs y x0 n segs) : collect hs (fun h => readRow h y x0 n) s = .ok segs s :=
  Machine.collect_ok (g := fun h => s.row h y x0 n) hs (fun _ _ _ hv => readRow_ok hv) hsegs.values

theorem roomFor_of_segments (hsegs : Segments s hs y x0 n segs) {h : Nat} (hh : h ∈ hs) : RoomFor s h y x0 n :=
  ⟨hsegs.there h hh, hsegs.room h hh⟩

/-! ### A stage with an open function -/

theorem fnRow_eq (hr : s.rnd = some r) (hc : channelsOf r set = some hs) (hsegs : Segments s hs y x0 n segs) :
    fnRow f set y x0 n s = (stageRefs f >>= fun ref => getParams >>= fun p => each (set.zip hs) fun e =>
      lineTo e.2 y x0 fun ty => (List.range n).map fun i =>
        Cfg.inplaceFn p ty { f := f, channel := e.1, x := x0 + i, y := y, x0 := x0, segs := segs, ref := ref }) s := by
  rw [fnRow, Op.bind_ok (stageBuffers_ok hr hc), Op.bind_ok (Segments.collect_ok hsegs)]
  rfl

theorem fnRow_ok (hr : s.rnd = some r) (hc : channelsOf r set = some hs) (hsegs : Segments s hs y x0 n segs)
    (href : RefsAre s f ref) : fnRow f set y x0 n s = .ok () (putRows s y x0 (inplaceRows s set hs f y x0 n segs ref)) := by
  rw [fnRow_eq hr hc hsegs, Op.bind_ok (stageRefs_ok href), Op.bind_ok (getParams_apply s)]
  exact ((written_refl [] s).each_lineTo_ok (n := n) (xs := set.zip hs) (buf := fun e => e.2)
    (line := fun e ty => (List.range n).map fun i =>
      Cfg.inplaceFn s.inp.params ty { f := f, channel := e.1, x := x0 + i, y := y, x0 := x0, segs := segs, ref := ref })
    (fun e he => roomFor_of_segments hsegs (List.of_mem_zip he).2) (fun _ _ => apart_nil s _)
    (fun _ _ _ hv => type_of_mem_range_map (fun _ => type_pick _ _) hv) fun _ _ => by simp).1

theorem fnRow_trap {id slot : Nat} (hr : s.rnd = some r) (hc : channelsOf r set = some hs) (hsegs : Segments s hs y x0 n segs)
    (hslot : assocGet s.img.refs slot = none) : fnRow (.withRef id slot) set y x0 n s = .error (.fatal .format) s := by
  rw [fnRow_eq hr hc hsegs, Op.bind_error (stageRefs_trap hslot)]

/-! ### Colour management -/

theorem colourCount_ok (hr : s.rnd = some r) (hih : s.par.imageHeader = some ih) :
    colourCount s = .ok (r.chans.length - ih.extra.length) s := by
  rw [colourCount, Op.bind_ok (getImageHeader_ok hih), Op.bind_ok (getRender_ok hr)]
  rfl

theorem type_fromFloat (p : Params) (ty : SampleType) (x : F32) : (Cfg.fromFloat p ty x).type = ty := by
  unfold Cfg.fromFloat
  split
  · next h => rw [h]; rfl
  · exact type_pick _ _

/-- What HOST is asked about in a colour-management stage: the interleaved floats of the colour channels. -/
def colourFloats (s : State) (n : Nat) (segs : List (List Sample)) : List F32 :=
  interleave n (segs.map fun l => l.map (Cfg.toFloat s.inp.params))

theorem cmsRow_eq (hr : s.rnd = some r) (hih : s.par.imageHeader = some ih) (hc : channelsOf r (colours r ih set) = some hs)
    (hsegs : Segments s hs y x0 n segs) :
    cmsRow set y x0 n s = (askCms (n * hs.length) (colourFloats s n segs) >>= fun out => each hs.zipIdx fun e =>
      lineTo e.1 y x0 fun ty => (List.range n).map fun i =>
        Cfg.fromFloat s.inp.params ty ((out[i * hs.length + e.2]?).getD 0)) s := by
  have hrows : collect hs (fun h => do
      let vs ← readRow h y x0 n
      pure (vs.map (Cfg.toFloat s.inp.params))) s = .ok (segs.map fun l => l.map (Cfg.toFloat s.inp.params)) s := by
    have hall : allSome (hs.map fun h => (s.row h y x0 n).map fun l => l.map (Cfg.toFloat s.inp.params)) =
        some (segs.map fun l => l.map (Cfg.toFloat s.inp.params)) := allSome_map_map _ hsegs.values
    refine Machine.collect_ok hs (fun h _ v hv => ?_) hall
    obtain ⟨vs, hvs, rfl⟩ := Option.map_eq_some_iff.1 hv
    rw [Op.bind_ok (readRow_ok hvs)]
    rfl
  rw [cmsRow, Op.bind_ok (colourCount_ok hr hih)]
  refine (Op.bind_ok (stageBuffers_ok hr hc) _).trans ?_
  rw [Op.bind_ok (getParams_apply s), Op.bind_ok hrows]
  rfl

theorem cmsRow_ok {handle : Nat} (hr : s.rnd = some r) (hih : s.par.imageHeader = some ih)
    (hc : channelsOf r (colours r ih set) = some hs) (hsegs : Segments s hs y x0 n segs) (hcms : s.ctl.opt.cms = some handle) :
    cmsRow set y x0 n s = .ok () (putRows s y x0 (cmsRows s hs handle n segs)) := by
  rw [cmsRow_eq hr hih hc hsegs, Op.bind_ok (askCms_ok hcms _ _)]
  refine ((written_refl [] s).each_lineTo_ok (n := n) (xs := hs.zipIdx) (buf := fun e => e.1)
    (line := fun e ty => (List.range n).map fun i => Cfg.fromFloat s.inp.params ty
      ((((List.range (n * hs.length)).map fun k => Cfg.cms s.inp.params handle (n * hs.length) k
        (colourFloats s n segs))[i * hs.length + e.2]?).getD 0))
    (fun e he => roomFor_of_segments hsegs (List.fst_mem_of_mem_zipIdx he)) (fun _ _ => apart_nil s _)
    (fun _ _ _ hv => type_of_mem_range_map (fun _ => type_fromFloat _ _ _) hv) fun _ _ => by simp).1.trans ?_
  have hlines : ∀ e ∈ hs.zipIdx, ∀ i ∈ List.range n,
      (((List.range (n * hs.length)).map fun k => Cfg.cms s.inp.params handle (n * hs.length) k
        (colourFloats s n segs))[i * hs.length + e.2]?).getD 0 =
      Cfg.cms s.inp.params handle (n * hs.length) (i * hs.length + e.2) (colourFloats s n segs) := by
    intro e he i hi
    have hk : i * hs.length + e.2 < n * hs.length := by
      have hrow : (i + 1) * hs.length ≤ n * hs.length := Nat.mul_le_mul_right _ (List.mem_range.1 hi)
      have hcol : e.2 < hs.length := List.snd_lt_of_mem_zipIdx he
      rw [Nat.succ_mul] at hrow
      omega
    rw [List.getElem?_map, List.getElem?_range hk]
    rfl
  refine congrArg (fun l => EStateM.Result.ok () (putRows s y x0 l)) (List.map_congr_left fun e he => ?_)
  refine congrArg (Prod.mk e.1) (List.map_congr_left fun i hi => ?_)
  rw [hlines e he i hi]
  rfl

theorem cmsRow_refused (hr : s.rnd = some r) (hih : s.par.imageHeader = some ih) (hc : channelsOf r (colours r ih set) = some hs)
    (hsegs : Segments s hs y x0 n segs) (hcms : s.ctl.opt.cms = none) :
    cmsRow set y x0 n s = .error (.refuse .noColorManagement) s := by
  rw [cmsRow_eq hr hih hc hsegs, Op.bind_error (askCms_refused hcms _ _)]

/-! ### Alpha -/

theorem alphaChannel_ok (hr : s.rnd = some r) (hih : s.par.imageHeader = some ih) :
    alphaChannel s = .ok (firstAlpha s.inp.params ih r.chans.length) s := by
  rw [alphaChannel, Op.bind_ok (getImageHeader_ok hih), Op.bind_ok (getParams_apply s), Op.bind_ok (getRender_ok hr)]
  rfl

theorem type_premultiplied (p : Params) (v a : Sample) : (Cfg.premultiplied p v a).type = v.type := by
  unfold Cfg.premultiplied
  split
  · rfl
  · exact type_pick _ _

theorem type_zipWith_premultiplied {p : Params} {vs alpha : List Sample} {ty : SampleType} (hty : ∀ v ∈ vs, v.type = ty)
    {v : Sample} (hv : v ∈ List.zipWith (Cfg.premultiplied p) vs alpha) : v.type = ty := by
  rw [← List.map_uncurry_zip_eq_zipWith] at hv
  obtain ⟨e, he, rfl⟩ := List.mem_map.1 hv
  exact (type_premultiplied p e.1 e.2).trans (hty _ (List.of_mem_zip he).1)

/-- One colour channel after the other is multiplied, each read before it is written and after the ones before it. -/
theorem each_premultiplied_ok {t : State} (hw : Written hs s t) (hnodup : hs.Nodup) (hown : ∀ h ∈ hs, Owned s h)
    (hsegs : Segments s hs y x0 n segs) (htyped : Typed s hs segs) (p : Params) (alpha : List Sample) :
    each hs (fun h => do
      let vs ← readRow h y x0 n
      writeRow h y x0 (List.zipWith (Cfg.premultiplied p) vs alpha)) t =
    .ok () (putRows t y x0 ((hs.zip segs).map fun e => (e.1, List.zipWith (Cfg.premultiplied p) e.2 alpha))) := by
  induction hs generalizing t segs with
  | nil => rfl
  | cons h rest ih =>
    obtain ⟨hrow, hnodup⟩ := List.nodup_cons.1 hnodup
    obtain ⟨hh, hown⟩ := List.forall_mem_cons.1 hown
    obtain ⟨vs, more, hvs, hmore, rfl⟩ := allSome_cons_eq hsegs.values
    have hsegs' : Segments s rest y x0 n more :=
      ⟨hmore, fun k hk => hsegs.room k (.tail _ hk), fun k hk => hsegs.there k (.tail _ hk)⟩
    have htype : ∀ v ∈ vs, v.type = typeOf s h := htyped (h, vs) (.head _)
    have hlen : vs.length = n := by simpa using allSome_length hvs
    have hput := hw.writeRow_ok (hsegs.room h (.head _)) (fun v hv => type_zipWith_premultiplied htype hv)
      (vs := List.zipWith (Cfg.premultiplied p) vs alpha) (by rw [List.length_zipWith, hlen]; exact Nat.min_le_left _ _)
    have hrest : Written rest s t := { hw with reads := fun k hk => hw.reads k (.tail _ hk) }
    rw [each, Op.bind_ok ((Op.bind_ok (readRow_ok ((hw.row (.head _) y x0 n).trans hvs)) _).trans hput)]
    exact ih (hrest.putRow (fun k hk => ⟨hown k hk, hh, fun he => hrow (he ▸ hk)⟩) y x0 _) hnodup hown hsegs'
      fun e he => htyped e (.tail _ he)

theorem premultiplyRow_none (hr : s.rnd = some r) (hih : s.par.imageHeader = some ih)
    (halpha : ih.extra.findIdx? (Cfg.isAlpha s.inp.params) = none) : premultiplyRow set y x0 n s = .ok () s := by
  rw [premultiplyRow, Op.bind_ok (alphaChannel_ok hr hih), firstAlpha, halpha]
  rfl

theorem premultiplyRow_ok {j ah : Nat} {alpha : List Sample} (hr : s.rnd = some r) (hih : s.par.imageHeader = some ih)
    (halpha : ih.extra.findIdx? (Cfg.isAlpha s.inp.params) = some j)
    (hah : r.chans[r.chans.length - ih.extra.length + j]? = some ah) (hrow : s.row ah y x0 n = some alpha)
    (hc : channelsOf r (colours r ih set) = some hs) (hnodup : hs.Nodup) (hown : ∀ h ∈ hs, Owned s h)
    (hsegs : Segments s hs y x0 n segs) (htyped : Typed s hs segs) :
    premultiplyRow set y x0 n s = .ok ()
      (putRows s y x0 ((hs.zip segs).map fun e => (e.1, List.zipWith (Cfg.premultiplied s.inp.params) e.2 alpha))) := by
  have hbuffer : stageBuffers [r.chans.length - ih.extra.length + j] s = .ok [ah] s :=
    stageBuffers_ok hr (by rw [channelsOf, List.map_singleton, hah]; rfl)
  have hread : collect [ah] (fun h => readRow h y x0 n) s = .ok [alpha] s :=
    collect_cons_ok (readRow_ok hrow) rfl
  rw [premultiplyRow, Op.bind_ok (alphaChannel_ok hr hih), firstAlpha, halpha, Option.map_some]
  refine (Op.bind_ok (colourCount_ok hr hih) _).trans ((Op.bind_ok hbuffer _).trans ((Op.bind_ok hread _).trans
    ((Op.bind_ok (stageBuffers_ok hr hc) _).trans ((Op.bind_ok (getParams_apply s) _).trans ?_))))
  rw [List.flatten_singleton]
  exact each_premultiplied_ok (written_refl hs s) hnodup hown hsegs htyped _ _

end

end Sys2Proof.Machine

/-! R.INOUT and R.EXTEND (46_render_pipeline.md R363, R364, R367): the outputs are written from inputs that stay, and take
their place after the last part. -/

namespace Sys2Proof.Machine

open Sys2Proof.Claims

/-! ### What an output position sees -/

theorem visible_eq_sees (border shift : Nat) (up : Bool) (size out pos : Nat) (_ : pos < size) :
    visible border shift up size out pos = sees border shift up size out pos := by
  have hpow : 0 < 2 ^ shift := Nat.two_pow_pos shift
  rw [Bool.eq_iff_iff]
  simp only [visible, sees, reach, within]
  cases up with
  | true =>
    simp only [if_true]
    generalize out / 2 ^ shift = o
    split <;> simp only [Bool.and_eq_true, decide_eq_true_eq, true_iff] <;> omega
  | false =>
    simp only [Bool.false_eq_true, if_false, Nat.succ_mul]
    generalize out * 2 ^ shift = o
    generalize 2 ^ shift = q at hpow
    split <;> simp only [Bool.and_eq_true, decide_eq_true_eq, true_iff] <;> omega


section
variable {s t : State} {r : Render} {set ins outs : List Nat} {f : StageFn} {bx byy sx sy w ht : Nat} {up : Bool}
  {ref : List (List (List Sample))}

theorem sampleIf_ok {c : Bool} {h x y : Nat} (hs : c = true → (s.sample h x y).isSome = true) :
    sampleIf c h x y s = .ok (if c = true then s.sample h x y else none) s := by
  unfold sampleIf
  by_cases hc : c = true
  · obtain ⟨v, hv⟩ := Option.isSome_iff_exists.1 (hs hc)
    simp only [if_pos hc]
    rw [Op.bind_ok (readSample_ok hv), hv]
    rfl
  · simp only [if_neg hc]
    rfl

/-- Every sample that the output position sees is there. -/
def SeenAt (s : State) (ins : List Nat) (w ht bx byy sx sy : Nat) (up : Bool) (ox oy : Nat) : Prop :=
  ∀ h ∈ ins, ∀ x y, x < w → y < ht → sees bx sx up w ox x = true → sees byy sy up ht oy y = true →
    (s.sample h x y).isSome = true

theorem imageFor_ok (hw : Written ins s t) (hsize : Sized s ins w ht) {ox oy : Nat}
    (hseen : SeenAt s ins w ht bx byy sx sy up ox oy) :
    imageFor ins bx byy sx sy up ox oy t = .ok (seenImage s ins w ht bx byy sx sy up ox oy) t := by
  refine collect_map_ok fun h hh => ?_
  obtain ⟨b, hb, rfl, rfl⟩ := hsize h hh
  obtain ⟨c, hc, hcb⟩ := hw.buffer hb
  have hcw : c.width = b.width := congrArg (fun x => x.1) hcb
  have hch : c.height = b.height := congrArg (fun x => x.2.1) hcb
  rw [Op.bind_ok (getBuf_ok hc), hcw, hch]
  refine collect_map_ok fun y hy => collect_map_ok fun x hx => ?_
  have hx := List.mem_range.1 hx
  have hy := List.mem_range.1 hy
  rw [visible_eq_sees _ _ _ _ _ _ hx, visible_eq_sees _ _ _ _ _ _ hy]
  simp only [← Bool.and_eq_true]
  rw [← hw.reads h hh]
  refine sampleIf_ok fun hboth => ?_
  rw [Bool.and_eq_true] at hboth
  rw [hw.reads h hh]
  exact hseen h hh x y hx hy hboth.1 hboth.2

/-! ### Writing the outputs -/

/-- The output of a stage for one of its channels at an output position. -/
def inoutValue (s : State) (ins : List Nat) (w ht : Nat) (f : StageFn) (bx byy sx sy : Nat) (up : Bool)
    (ref : List (List (List Sample))) (x y : Nat) (e : Nat × Nat) : Sample :=
  Cfg.inoutFn s.inp.params (typeOf s e.2)
    { f := f, channel := e.1, x := x, y := y, image := seenImage s ins w ht bx byy sx sy up x y, ref := ref }

theorem inoutSample_ok (hw : Written ins s t) (hsize : Sized s ins w ht) (hapart : ∀ h ∈ outs, Apart s ins h) {ow oh x y : Nat}
    (hroom : ∀ h ∈ outs, Owned s h ∧ s.holds (typeOf s h) h 0 0 ow oh) (hx : x < ow) (hy : y < oh)
    (hseen : SeenAt s ins w ht bx byy sx sy up x y) :
    inoutSample f set bx byy sx sy up ref ins outs x y t = .ok () ((set.zip outs).foldl (fun u e =>
        u.putSample e.2 x y (inoutValue s ins w ht f bx byy sx sy up ref x y e)) t) ∧
      Written ins s ((set.zip outs).foldl (fun u e =>
        u.putSample e.2 x y (inoutValue s ins w ht f bx byy sx sy up ref x y e)) t) := by
  rw [inoutSample, Op.bind_ok (getParams_apply t), hw.inp, Op.bind_ok (imageFor_ok hw hsize hseen)]
  refine each_foldl_ok hw fun e he u hu => ?_
  have hout := (List.of_mem_zip he).2
  obtain ⟨⟨b, hb, -⟩, hholds⟩ := hroom e.2 hout
  obtain ⟨c, hc, hcb⟩ := hu.buffer hb
  have hcty : c.ty = typeOf s e.2 := by
    rw [typeOf, hb]
    exact congrArg (fun x => x.2.2.1) hcb
  have hcan : u.canWrite (typeOf s e.2) e.2 x y = true := by
    have hroom := hholds x y hx hy
    rwa [Nat.zero_add, Nat.zero_add, ← hu.room] at hroom
  refine ⟨?_, hu.putSample (hapart e.2 hout) _ _ _⟩
  rw [Op.bind_ok (getBuf_ok hc), hcty]
  have htype : (inoutValue s ins w ht f bx byy sx sy up ref x y e).type = typeOf s e.2 := type_pick _ _
  rw [← htype] at hcan
  exact writeSample_ok hcan

theorem each_inoutSample_ok (hsize : Sized s ins w ht) (hapart : ∀ h ∈ outs, Apart s ins h) {ow oh : Nat}
    (hroom : ∀ h ∈ outs, Owned s h ∧ s.holds (typeOf s h) h 0 0 ow oh) {rows columns : List Nat}
    (hrows : ∀ y ∈ rows, y < oh) (hcolumns : ∀ x ∈ columns, x < ow)
    (hseen : Seen s ins w ht bx byy sx sy up rows columns) :
    each rows (fun y => each columns fun x => inoutSample f set bx byy sx sy up ref ins outs x y) s =
        .ok () (inoutPut s set ins outs w ht f bx byy sx sy up ref rows columns) ∧
      Written ins s (inoutPut s set ins outs w ht f bx byy sx sy up ref rows columns) :=
  each_foldl_ok (written_refl ins s) fun y hy _ ht => each_foldl_ok ht fun x hx _ hu =>
    inoutSample_ok hu hsize hapart hroom (hcolumns x hx) (hrows y hy) fun h hh x' y' hx' hy' => hseen h hh y hy x hx x' y' hx' hy'

/-! ### The parts of a stage -/

theorem bufferSize_ok (hsize : Sized s ins w ht) (hne : ins ≠ []) : bufferSize ins s = .ok (w, ht) s := by
  cases ins with
  | nil => exact absurd rfl hne
  | cons h rest =>
    obtain ⟨b, hb, rfl, rfl⟩ := hsize h (.head _)
    rw [bufferSize, Op.bind_ok (getBuf_ok hb)]
    rfl

theorem ne_nil_of_channelsOf (hc : channelsOf r set = some ins) (hne : set ≠ []) : ins ≠ [] := by
  rw [Ne, ← List.length_eq_zero_iff, length_of_channelsOf hc, List.length_eq_zero_iff]
  exact hne

/-- A stage under way has its outputs. -/
theorem outputBuffers_ok (hr : s.rnd = some r) (hnext : r.next = set.zip outs) (hlen : outs.length = set.length) (hne : set ≠ [])
    (w ht : Nat) : outputBuffers set w ht s = .ok outs s := by
  have hsome : r.next.isEmpty = false := by
    rw [hnext, List.isEmpty_eq_false_iff, Ne, ← List.length_eq_zero_iff, List.length_zip, hlen, Nat.min_self,
      List.length_eq_zero_iff]
    exact hne
  rw [outputBuffers, Op.bind_ok (getRender_ok hr), hsome, hnext, List.map_snd_zip hlen.le]
  rfl

/-- The buffers the outputs replace are the inputs. -/
theorem filterMap_channels (hc : channelsOf r set = some ins) (hlen : outs.length = set.length) :
    ((set.zip outs).filterMap fun e => r.chans[e.1]?) = ins := by
  induction set generalizing ins outs with
  | nil => cases hc; rfl
  | cons c rest ih =>
    cases outs with
    | nil => cases hlen
    | cons o more =>
      rw [channelsOf, List.map_cons] at hc
      obtain ⟨h, hs, hh, hrest, rfl⟩ := allSome_cons_eq hc
      rw [List.zip_cons_cons, List.filterMap_cons, ih hrest (Nat.succ.inj hlen), hh]

theorem nextChannels_ok (hr : t.rnd = some r) (hnext : r.next = set.zip outs) (hc : channelsOf r set = some ins)
    (hlen : outs.length = set.length) : nextChannels t = .ok () (advanced t r ins) := by
  rw [nextChannels, Op.bind_ok (getRender_ok hr), hnext, filterMap_channels hc hlen, Op.bind_ok (each_release_ok ins t), setRender,
    upd_apply, released_eq, advanced]
  have hrnd : (t.setImg fun _ => (t.released ins).img).rnd = some r := hr
  rw [hrnd]
  simp only [hnext, State.setRnd, Option.map_some]
  rw [← released_eq]

/-- The last part of a stage makes the outputs the channels. -/
theorem nextChannelsIf_ok {c : Prop} [Decidable c] (hr : t.rnd = some r) (hnext : r.next = set.zip outs)
    (hc : channelsOf r set = some ins) (hlen : outs.length = set.length) :
    (if c then nextChannels else pure ()) t = .ok () (if c then advanced t r ins else t) := by
  by_cases h : c
  · rw [if_pos h, if_pos h, nextChannels_ok hr hnext hc hlen]
  · rw [if_neg h, if_neg h, Op.pure_apply]

theorem mem_outputRange {shift x0 n k : Nat} (hk : k ∈ outputRange shift up x0 n) :
    k < if up then (x0 + n) * 2 ^ shift else x0 + n := by
  unfold outputRange at hk
  cases up with
  | true =>
    obtain ⟨i, hi, rfl⟩ := List.mem_map.1 hk
    rw [if_pos rfl, Nat.add_mul]
    exact Nat.add_lt_add_left (List.mem_range.1 hi) _
  | false =>
    obtain ⟨i, hi, rfl⟩ := List.mem_map.1 hk
    exact Nat.add_lt_add_left (List.mem_range.1 hi) _

theorem outputRange_lt {shift x0 n size : Nat} (h : x0 + n ≤ if up then size else scaled shift up size) :
    ∀ k ∈ outputRange shift up x0 n, k < scaled shift up size := by
  intro k hk
  have hlt := mem_outputRange hk
  cases up with
  | true => exact hlt.trans_le (Nat.mul_le_mul_right _ h)
  | false => exact hlt.trans_le h

/-- The whole part of the stage: the output positions are written, and nothing else. -/
theorem inoutPart_ok (hst : Staged s r set ins outs (scaled sx up w) (scaled sy up ht)) (hsize : Sized s ins w ht) {rows columns : List Nat}
    (hrows : ∀ y ∈ rows, y < scaled sy up ht) (hcolumns : ∀ x ∈ columns, x < scaled sx up w)
    (hseen : Seen s ins w ht bx byy sx sy up rows columns) (href : RefsAre s f ref) :
    inoutPart f set bx byy sx sy up rows columns s =
        .ok () (inoutPut s set ins outs w ht f bx byy sx sy up ref rows columns) ∧
      Written ins s (inoutPut s set ins outs w ht f bx byy sx sy up ref rows columns) := by
  have hapart : ∀ h ∈ outs, Apart s ins h := fun h hh k hk =>
    ⟨hst.owned k hk, (hst.room h hh).1, fun he => hst.apart h hh (he ▸ hk)⟩
  obtain ⟨hloop, hwritten⟩ := each_inoutSample_ok (set := set) (f := f) (ref := ref) hsize hapart hst.room hrows hcolumns hseen
  refine ⟨?_, hwritten⟩
  rw [inoutPart, Op.bind_ok (stageBuffers_ok hst.render hst.channels),
    Op.bind_ok (bufferSize_ok hsize (ne_nil_of_channelsOf hst.channels hst.some_)),
    Op.bind_ok (outputBuffers_ok hst.render hst.next hst.same hst.some_ _ _), Op.bind_ok (stageRefs_ok href), hloop]

theorem inoutRow_ok (hst : Staged s r set ins outs (scaled sx up w) (scaled sy up ht)) (hsize : Sized s ins w ht) {y x0 n : Nat}
    (hy : y < if up then ht else scaled sy up ht) (hx : x0 + n ≤ if up then w else scaled sx up w)
    (hseen : Seen s ins w ht bx byy sx sy up (outputRange sy up y 1) (outputRange sx up x0 n)) (href : RefsAre s f ref) :
    inoutRow f set bx byy sx sy up y x0 n s = .ok ()
      (if y + 1 = (if up then ht else scaled sy up ht) ∧ x0 + n = (if up then w else scaled sx up w) then
        advanced (inoutPut s set ins outs w ht f bx byy sx sy up ref (outputRange sy up y 1) (outputRange sx up x0 n)) r ins
      else inoutPut s set ins outs w ht f bx byy sx sy up ref (outputRange sy up y 1) (outputRange sx up x0 n)) := by
  obtain ⟨hpart, hwritten⟩ := inoutPart_ok (f := f) hst hsize (outputRange_lt (Nat.succ_le_of_lt hy)) (outputRange_lt hx) hseen href
  have hlast : (if up = true then (w, ht) else (scaled sx up w, scaled sy up ht)) =
      (if up = true then w else scaled sx up w, if up = true then ht else scaled sy up ht) := by cases up <;> rfl
  rw [inoutRow, Op.bind_ok (stageBuffers_ok hst.render hst.channels),
    Op.bind_ok (bufferSize_ok hsize (ne_nil_of_channelsOf hst.channels hst.some_)), Op.bind_ok hpart]
  simp only [hlast]
  exact nextChannelsIf_ok (hwritten.rnd.trans hst.render) hst.next hst.channels hst.same

end

/-! ### R.EXTEND -/

section
variable {s t : State} {r : Render} {outs : List Nat} {pad : StageFn} {rect : Place} {cw ch y : Nat}
  {ref : List (List (List Sample))}

theorem frameRow_ok {ins : List Nat} (hw : Written ins s t) {h fw : Nat} (hh : h ∈ ins) {row : List Sample}
    (hrow : frameSamples s h y fw = some row) : frameRow h y fw t = .ok row t := by
  unfold frameSamples at hrow
  cases hb : assocGet s.img.bufs h with
  | none => rw [hb] at hrow; cases hrow
  | some b =>
    rw [hb] at hrow
    obtain ⟨c, hc, hcb⟩ := hw.buffer hb
    have hcw : c.width = b.width := congrArg (fun x => x.1) hcb
    have hch : c.height = b.height := congrArg (fun x => x.2.1) hcb
    rw [frameRow, Op.bind_ok (getBuf_ok hc), hcw, hch]
    by_cases hy : y < b.height
    · rw [if_pos hy]
      simp only [if_pos hy] at hrow
      exact readRow_ok ((hw.row hh _ _ _).trans hrow)
    · rw [if_neg hy]
      simp only [if_neg hy] at hrow
      rw [← Option.some.inj hrow, Op.pure_apply]

theorem canvasRow_eq (p : Params) (ty : SampleType) (c t : Nat) (x0 : Int) (row : List Sample) :
    canvasRow cw x0 row (padOf p ty pad ref c t) = canvasLine p ty pad ref c cw t x0 row := by
  unfold canvasRow canvasLine
  refine List.map_congr_left fun x _ => ?_
  split
  · cases row[((x : Int) - x0).toNat]? <;> rfl
  · rfl

theorem type_canvasLine {p : Params} {ty : SampleType} {c t : Nat} {x0 : Int} {row : List Sample} (hrow : ∀ v ∈ row, v.type = ty)
    {v : Sample} (hv : v ∈ canvasLine p ty pad ref c cw t x0 row) : v.type = ty := by
  obtain ⟨x, -, rfl⟩ := List.mem_map.1 hv
  split
  · next v hv =>
    split at hv
    · exact hrow v (List.mem_of_getElem? hv)
    · cases hv
  · exact type_pick _ _

/-- The line of a channel onto its canvas row. -/
def extendLine (pad : StageFn) (ref : List (List (List Sample))) (p : Params) (rect : Place) (cw y t : Nat)
    (e : (Nat × Nat) × Nat) : Op Unit := do
  let b ← getBuf e.1.1
  let row ← frameRow e.1.1 y rect.w
  writeRow e.1.2 t 0 (canvasRow cw rect.x0 row (padOf p b.ty pad ref e.2 t))

theorem extendLine_ok {ins : List Nat} (hw : Written ins s t) {e : (Nat × Nat) × Nat} {row : List Sample} {at_ : Nat}
    (hin : e.1.1 ∈ ins) (hrow : frameSamples s e.1.1 y rect.w = some row) (htyped : ∀ v ∈ row, v.type = typeOf s e.1.1)
    (hsame : typeOf s e.1.2 = typeOf s e.1.1) (hroom : s.holds (typeOf s e.1.2) e.1.2 0 at_ cw 1) :
    extendLine pad ref s.inp.params rect cw y at_ e t = .ok () (t.putRow e.1.2 at_ 0
      (canvasLine s.inp.params (typeOf s e.1.1) pad ref e.2 cw at_ rect.x0 row)) := by
  have hb : ∃ b, assocGet s.img.bufs e.1.1 = some b := by
    cases hb : assocGet s.img.bufs e.1.1 with
    | none => rw [frameSamples, hb] at hrow; cases hrow
    | some b => exact ⟨b, rfl⟩
  obtain ⟨b, hb⟩ := hb
  obtain ⟨c, hc, hcb⟩ := hw.buffer hb
  have hcty : c.ty = typeOf s e.1.1 := by
    rw [typeOf, hb]
    exact congrArg (fun x => x.2.2.1) hcb
  rw [extendLine, Op.bind_ok (getBuf_ok hc), Op.bind_ok (frameRow_ok hw hin hrow), canvasRow_eq, hcty]
  rw [hsame] at hroom
  exact hw.writeRow_ok hroom (fun v hv => type_canvasLine htyped hv) (by simp [canvasLine])

theorem landing_some (hy : y < rect.h) (h0 : 0 ≤ rect.y0 + y) (hch : rect.y0 + y < ch) :
    landing rect ch y = some (rect.y0 + y).toNat := if_pos ⟨hy, h0, hch⟩

theorem landing_none (h : rect.h ≤ y ∨ rect.y0 + y < 0 ∨ (ch : Int) ≤ rect.y0 + y) : landing rect ch y = none :=
  if_neg (by omega)

theorem channelsOf_range (r : Render) : channelsOf r (List.range r.chans.length) = some r.chans :=
  allSome_range rfl fun _ _ => rfl

theorem each_map {α β : Type} (g : α → β) (f : β → Op Unit) (xs : List α) : each (xs.map g) f = each xs fun a => f (g a) := by
  induction xs with
  | nil => rfl
  | cons a rest ih => rw [List.map_cons, each, ih, each]

theorem getElem?_of_allSome {α β : Type} {f : α → Option β} {l : List α} {vs : List β} (h : allSome (l.map f) = some vs) (i : Nat) :
    (l[i]?).bind f = vs[i]? := by
  induction l generalizing vs i with
  | nil => cases h; rfl
  | cons a rest ih =>
    rw [List.map_cons] at h
    obtain ⟨v, ws, hv, hws, rfl⟩ := allSome_cons_eq h
    cases i with
    | zero => exact hv
    | succ i => exact ih hws i

/-- A channel, its output and its segment stand at one place of their lists. -/
theorem mem_zip_zip {α β γ : Type} {as : List α} {bs : List β} {cs : List γ} {e : (α × β) × γ} (he : e ∈ (as.zip bs).zip cs) :
    ∃ i : Nat, as[i]? = some e.1.1 ∧ bs[i]? = some e.1.2 ∧ cs[i]? = some e.2 := by
  obtain ⟨i, hi⟩ := List.getElem?_of_mem he
  obtain ⟨hab, hc⟩ := List.getElem?_zip_eq_some.1 hi
  obtain ⟨ha, hb⟩ := List.getElem?_zip_eq_some.1 hab
  exact ⟨i, ha, hb, hc⟩

theorem extendPart_eq (hst : Staged s r (List.range r.chans.length) r.chans outs cw ch) (href : RefsAre s pad ref) :
    extendPart pad rect cw ch y s = (match landing rect ch y with
      | none => pure ()
      | some t => each (r.chans.zip outs).zipIdx (extendLine pad ref s.inp.params rect cw y t)) s := by
  rw [extendPart, Op.bind_ok (getRender_ok hst.render), Op.bind_ok (outputBuffers_ok hst.render hst.next hst.same hst.some_ _ _),
    Op.bind_ok (stageRefs_ok href), Op.bind_ok (getParams_apply s)]
  rfl

theorem extendPart_lands (hst : Staged s r (List.range r.chans.length) r.chans outs cw ch) (href : RefsAre s pad ref) {at_ : Nat}
    (hl : landing rect ch y = some at_) :
    extendPart pad rect cw ch y s = each (r.chans.zip outs).zipIdx (extendLine pad ref s.inp.params rect cw y at_) s := by
  rw [extendPart_eq hst href, hl]

theorem extendPart_ok (hst : Staged s r (List.range r.chans.length) r.chans outs cw ch) (href : RefsAre s pad ref)
    {segs : List (List Sample)} (hy : y < rect.h) (h0 : 0 ≤ rect.y0 + y) (hch : rect.y0 + y < ch)
    (hsegs : allSome (r.chans.map fun h => frameSamples s h y rect.w) = some segs) (htyped : Typed s r.chans segs)
    (hsame : ∀ e ∈ r.chans.zip outs, typeOf s e.2 = typeOf s e.1) :
    extendPart pad rect cw ch y s = .ok () (putRows s (rect.y0 + y).toNat 0 (((r.chans.zip outs).zip segs).zipIdx.map fun e =>
        (e.1.1.2, canvasLine s.inp.params (typeOf s e.1.1.1) pad ref e.2 cw (rect.y0 + y).toNat rect.x0 e.1.2))) ∧
      Written r.chans s (putRows s (rect.y0 + y).toNat 0 (((r.chans.zip outs).zip segs).zipIdx.map fun e =>
        (e.1.1.2, canvasLine s.inp.params (typeOf s e.1.1.1) pad ref e.2 cw (rect.y0 + y).toNat rect.x0 e.1.2))) := by
  have hlines : (r.chans.zip outs).zipIdx = ((r.chans.zip outs).zip segs).zipIdx.map (Prod.map Prod.fst id) := by
    have hlen : segs.length = r.chans.length := by simpa using allSome_length hsegs
    rw [← List.zipIdx_map, List.map_fst_zip (by rw [List.length_zip, hlen]; exact Nat.min_le_left _ _)]
  rw [extendPart_lands hst href (landing_some hy h0 hch), hlines, each_map, putRows_eq_foldl]
  refine each_foldl_ok (written_refl r.chans s) fun e he u hu => ?_
  obtain ⟨i, hchan, hout, hseg⟩ := mem_zip_zip (List.fst_mem_of_mem_zipIdx he)
  have hin := List.mem_of_getElem? hchan
  have hrow : frameSamples s e.1.1.1 y rect.w = some e.1.2 := by
    have hi := getElem?_of_allSome hsegs i
    rwa [hchan, hseg] at hi
  obtain ⟨hown, hholds⟩ := hst.room e.1.1.2 (List.mem_of_getElem? hout)
  have hroom : s.holds (typeOf s e.1.1.2) e.1.1.2 0 (rect.y0 + y).toNat cw 1 := fun x y' hx hy' => by
    have hcan := hholds x ((rect.y0 + y).toNat + y') hx (by omega)
    rwa [Nat.zero_add ((rect.y0 + y).toNat + y')] at hcan
  have hpair : (e.1.1.1, e.1.1.2) ∈ r.chans.zip outs := List.mem_of_getElem? (List.getElem?_zip_eq_some.2 ⟨hchan, hout⟩)
  have htype := htyped (e.1.1.1, e.1.2) (List.mem_of_getElem? (List.getElem?_zip_eq_some.2 ⟨hchan, hseg⟩))
  exact ⟨extendLine_ok hu hin hrow htype (hsame _ hpair) hroom, hu.putRow (fun k hk =>
    ⟨hst.owned k hk, hown, fun he' => hst.apart _ (List.mem_of_getElem? hout) (he' ▸ hk)⟩) _ _ _⟩

theorem extendRow_ok (hst : Staged s r (List.range r.chans.length) r.chans outs cw ch) (hw : Written r.chans s t)
    (hpart : extendPart pad rect cw ch y s = .ok () t) :
    extendRow pad rect cw ch y s = .ok () (if y + 1 = rect.h then advanced t r r.chans else t) := by
  rw [extendRow, Op.bind_ok hpart]
  exact nextChannelsIf_ok (hw.rnd.trans hst.render) hst.next hst.channels hst.same

theorem extendPart_outside (hst : Staged s r (List.range r.chans.length) r.chans outs cw ch) (href : RefsAre s pad ref)
    (h : rect.h ≤ y ∨ rect.y0 + y < 0 ∨ (ch : Int) ≤ rect.y0 + y) : extendPart pad rect cw ch y s = .ok () s := by
  rw [extendPart_eq hst href, landing_none h]
  rfl

end

/-! ### The first part of a stage allocates its outputs -/

section
variable {s : State} {r : Render} {set ins : List Nat} {w ht : Nat}

/-- The buffers of a list, all of which have been given out. -/
def GivenOut (s : State) (l : List Nat) : Prop := ∀ h ∈ l, h < s.img.next ∧ (assocGet s.img.bufs h).isSome = true

theorem typeOf_allocated {h : Nat} (hh : h ≠ s.img.next) (w ht : Nat) (ty : SampleType) :
    typeOf (s.allocated w ht ty) h = typeOf s h := by
  rw [typeOf, typeOf, assocGet_allocated_other hh]

/-- An output of the type of each input, in the order of the inputs. -/
theorem collect_alloc_ok (hins : GivenOut s ins)
    (hg : ∀ j h, ins[j]? = some h → s.grants (s.img.next + j) (w, ht, typeOf s h) = true) :
    collect ins (fun b => do
      let x ← getBuf b
      alloc w ht x.ty) s =
    .ok ((List.range ins.length).map fun j => s.img.next + j) (s.allocatedAll (ins.map fun h => (w, ht, typeOf s h))) := by
  induction ins generalizing s with
  | nil => rfl
  | cons h rest ih =>
    obtain ⟨⟨hlt, hsome⟩, hrest⟩ := List.forall_mem_cons.1 hins
    obtain ⟨b, hb⟩ := Option.isSome_iff_exists.1 hsome
    have hty : b.ty = typeOf s h := by rw [typeOf, hb]
    have hgrant : s.grants s.img.next (w, ht, typeOf s h) = true := hg 0 h rfl
    have hkept : ∀ k ∈ rest, typeOf (s.allocated w ht (typeOf s h)) k = typeOf s k := fun k hk =>
      typeOf_allocated (hrest k hk).1.ne _ _ _
    have htypes : rest.map (fun k => (w, ht, typeOf (s.allocated w ht (typeOf s h)) k)) = rest.map fun k => (w, ht, typeOf s k) :=
      List.map_congr_left fun k hk => by rw [hkept k hk]
    have hmore := ih (s := s.allocated w ht (typeOf s h)) (fun k hk => ⟨(hrest k hk).1.trans (Nat.lt_succ_self _), by
      rw [assocGet_allocated_other (hrest k hk).1.ne]
      exact (hrest k hk).2⟩) fun j k hk => by
      rw [hkept k (List.mem_of_getElem? hk), grants_of_inp (t := s.allocated w ht (typeOf s h)) (s := s) rfl]
      have hgj := hg (j + 1) k hk
      rwa [← Nat.add_assoc, Nat.add_right_comm] at hgj
    have hnext : (s.allocated w ht (typeOf s h)).img.next = s.img.next + 1 := rfl
    rw [htypes, hnext] at hmore
    rw [collect, Op.bind_ok ((Op.bind_ok (getBuf_ok hb) _).trans (by rw [hty, alloc_ok hgrant])), Op.bind_ok hmore]
    rw [Op.pure_apply, List.map_cons, State.allocatedAll, List.length_cons, List.range_succ_eq_map, List.map_cons, List.map_map]
    simp only [Function.comp_def, Nat.add_assoc, Nat.add_comm 1, Nat.succ_eq_add_one, Nat.add_zero]

theorem allocatedAll_eq (s : State) (l : List (Nat × Nat × SampleType)) :
    s.allocatedAll l = s.setImg fun _ => (s.allocatedAll l).img := by
  induction l generalizing s with
  | nil => rfl
  | cons e rest ih => rw [State.allocatedAll, ih]; rfl

theorem assocGet_allocatedAll {h : Nat} (hh : h < s.img.next) (l : List (Nat × Nat × SampleType)) :
    assocGet (s.allocatedAll l).img.bufs h = assocGet s.img.bufs h := by
  induction l generalizing s with
  | nil => rfl
  | cons e rest ih =>
    rw [State.allocatedAll, ih (hh.trans (Nat.lt_succ_self _)), assocGet_allocated_other hh.ne]

/-- The outputs of a stage's first part. -/
def firstOutputs (s : State) (ins : List Nat) : List Nat :=
  (List.range (ins.map (typeOf s)).length).map fun j => s.img.next + j

theorem outputsAllocated_rnd : (outputsAllocated s r set w ht (ins.map (typeOf s))).rnd =
    some { r with next := set.zip (firstOutputs s ins) } := rfl

/-- Whether the outputs are allocated now or have been allocated before makes no difference. -/
theorem outputBuffers_first (hr : s.rnd = some r) (hnext : r.next = []) (hc : channelsOf r set = some ins) (hins : GivenOut s ins)
    (hg : ∀ j h, ins[j]? = some h → s.grants (s.img.next + j) (w, ht, typeOf s h) = true) :
    outputBuffers set w ht s = .ok (firstOutputs s ins) (outputsAllocated s r set w ht (ins.map (typeOf s))) := by
  have hempty : r.next.isEmpty = true := by rw [hnext]; rfl
  rw [outputBuffers, Op.bind_ok (getRender_ok hr), if_pos hempty, Op.bind_ok (stageBuffers_ok hr hc),
    Op.bind_ok (collect_alloc_ok hins hg), setRender, Op.bind_ok (upd_apply _ _)]
  have hrnd : (s.allocatedAll (ins.map fun h => (w, ht, typeOf s h))).rnd = some r := by rw [allocatedAll_eq]; exact hr
  rw [hrnd, firstOutputs, outputsAllocated, List.map_map, List.length_map]
  rfl

theorem outputBuffers_again (hc : channelsOf r set = some ins) (hne : set ≠ []) :
    outputBuffers set w ht (outputsAllocated s r set w ht (ins.map (typeOf s))) =
      .ok (firstOutputs s ins) (outputsAllocated s r set w ht (ins.map (typeOf s))) :=
  outputBuffers_ok outputsAllocated_rnd rfl (by
    rw [firstOutputs, List.length_map, List.length_range, List.length_map, length_of_channelsOf hc]) hne _ _

end

section
variable {s : State} {r : Render} {set ins : List Nat} {w ht bx byy sx sy : Nat} {up : Bool} {f : StageFn}

theorem runUnit_congr {op : Op Unit} {s t : State} (h : op s = op t) : runUnit op s = runUnit op t := by
  simp only [runUnit, run, Op.bind_apply, h]

theorem exec_rInout_first (hr : s.rnd = some r) (hne : set ≠ []) (hnext : r.next = []) (hc : channelsOf r set = some ins)
    (hsize : Sized s ins w ht) (hlt : ∀ h ∈ ins, h < s.img.next)
    (hg : ∀ j h, ins[j]? = some h → s.grants (s.img.next + j) (scaled sx up w, scaled sy up ht, typeOf s h) = true) (y x0 x1 : Nat) :
    exec (.rInout ⟨f, set⟩ bx byy sx sy up ⟨y, x0, x1⟩) s = exec (.rInout ⟨f, set⟩ bx byy sx sy up ⟨y, x0, x1⟩)
      (outputsAllocated s r set (scaled sx up w) (scaled sy up ht) (ins.map (typeOf s))) := by
  have hins : GivenOut s ins := fun h hh => ⟨hlt h hh, by
    obtain ⟨b, hb, -⟩ := hsize h hh
    rw [hb]
    rfl⟩
  have hinsne := ne_nil_of_channelsOf hc hne
  have hsize' : Sized (outputsAllocated s r set (scaled sx up w) (scaled sy up ht) (ins.map (typeOf s))) ins w ht := fun h hh => by
    obtain ⟨b, hb, hbw, hbh⟩ := hsize h hh
    exact ⟨b, (assocGet_allocatedAll (hlt h hh) _).trans hb, hbw, hbh⟩
  have hagain : stageBuffers set (outputsAllocated s r set (scaled sx up w) (scaled sy up ht) (ins.map (typeOf s))) =
      .ok ins _ := stageBuffers_ok outputsAllocated_rnd hc
  have hpart : ∀ rows columns, inoutPart f set bx byy sx sy up rows columns s = inoutPart f set bx byy sx sy up rows columns
      (outputsAllocated s r set (scaled sx up w) (scaled sy up ht) (ins.map (typeOf s))) := fun rows columns => by
    rw [inoutPart, Op.bind_ok (stageBuffers_ok hr hc), Op.bind_ok (bufferSize_ok hsize hinsne),
      Op.bind_ok (outputBuffers_first hr hnext hc hins hg), Op.bind_ok hagain, Op.bind_ok (bufferSize_ok hsize' hinsne),
      Op.bind_ok (outputBuffers_again hc hne)]
  have hrow : ∀ n, inoutRow f set bx byy sx sy up y x0 n s = inoutRow f set bx byy sx sy up y x0 n
      (outputsAllocated s r set (scaled sx up w) (scaled sy up ht) (ins.map (typeOf s))) := fun n => by
    rw [inoutRow, Op.bind_ok (stageBuffers_ok hr hc), Op.bind_ok (bufferSize_ok hsize hinsne), Op.bind_ok hagain,
      Op.bind_ok (bufferSize_ok hsize' hinsne), Op.bind_apply, hpart, ← Op.bind_apply]
  exact runUnit_congr (hrow _)

theorem exec_rExtend_first {pad : StageFn} {rect : Place} {cw ch y : Nat} (hr : s.rnd = some r) (hne : r.chans ≠ []) (hnext : r.next = [])
    (hins : GivenOut s r.chans)
    (hg : ∀ j h, r.chans[j]? = some h → s.grants (s.img.next + j) (cw, ch, typeOf s h) = true) :
    exec (.rExtend ⟨pad, rect⟩ cw ch y) s = exec (.rExtend ⟨pad, rect⟩ cw ch y)
      (outputsAllocated s r (List.range r.chans.length) cw ch (r.chans.map (typeOf s))) := by
  have hrange : List.range r.chans.length ≠ [] := by simpa using hne
  have hpart : extendPart pad rect cw ch y s = extendPart pad rect cw ch y
      (outputsAllocated s r (List.range r.chans.length) cw ch (r.chans.map (typeOf s))) := by
    have hagain := outputBuffers_again (s := s) (w := cw) (ht := ch) (channelsOf_range r) hrange
    rw [extendPart, Op.bind_ok (getRender_ok hr), Op.bind_ok (outputBuffers_first hr hnext (channelsOf_range r) hins hg),
      Op.bind_ok (getRender_ok outputsAllocated_rnd)]
    dsimp only
    rw [Op.bind_ok hagain]
  refine runUnit_congr ?_
  rw [extendRow, Op.bind_apply, hpart, ← Op.bind_apply]

end

/-- Settles O56: the row stages write what they computed from the old segments; the others write outputs that are apart from
the inputs, and allocate them first where they are not there. -/
theorem pipelineStages : Obligations.PipelineStages := by
  refine ⟨?_, ?_, ?_, ?_, ?_, ?_, ?_, ?_⟩
  · rintro s f set hs y x0 x1 r segs ref hr hc hsegs href (⟨id, rfl⟩ | ⟨id, rfl⟩ | ⟨id, slot, rfl⟩)
    · exact runUnit_ok (fnRow_ok hr hc hsegs href)
    · exact runUnit_ok (fnRow_ok hr hc hsegs href)
    · exact runUnit_ok (fnRow_ok hr hc hsegs href)
  · exact fun s id slot set hs y x0 x1 r segs hr hc hsegs hslot => runUnit_fatal (fnRow_trap hr hc hsegs hslot)
  · rintro s f set hs y x0 x1 r ih segs hr hih (rfl | rfl) hc hsegs
    · exact ⟨fun handle hcms => runUnit_ok (cmsRow_ok hr hih hc hsegs hcms), fun hcms =>
        runUnit_refused (cmsRow_refused hr hih hc hsegs hcms)⟩
    · exact ⟨fun handle hcms => runUnit_ok (cmsRow_ok hr hih hc hsegs hcms), fun hcms =>
        runUnit_refused (cmsRow_refused hr hih hc hsegs hcms)⟩
  · exact fun s set hs y x0 x1 r ih segs hr hih => ⟨fun halpha => runUnit_ok (premultiplyRow_none hr hih halpha),
      fun j ah alpha halpha hah hrow hc hnodup hown hsegs htyped =>
        runUnit_ok (premultiplyRow_ok hr hih halpha hah hrow hc hnodup hown hsegs htyped)⟩
  · exact fun s r f set ins outs bx byy sx sy w ht y x0 x1 up ref hst hsize hy hx hseen href =>
      ⟨_, rfl, runUnit_ok (inoutRow_ok hst hsize hy hx hseen href)⟩
  · intro s r pad outs rect cw ch y ref hst href
    refine ⟨fun segs hy h0 hch hsegs htyped hsame => ⟨_, rfl, ?_⟩, fun h => ?_⟩
    · obtain ⟨hpart, hwritten⟩ := extendPart_ok hst href hy h0 hch hsegs htyped hsame
      exact runUnit_ok (extendRow_ok hst hwritten hpart)
    · exact runUnit_ok (extendRow_ok hst (written_refl _ s) (extendPart_outside hst href h))
  · exact fun s r set ins w ht hr hne hnext hc hsize hlt f bx byy sx sy up y x0 x1 hg =>
      exec_rInout_first hr hne hnext hc hsize hlt hg y x0 x1
  · exact fun s r pad rect cw ch y hr hne hnext hins hg => exec_rExtend_first hr hne hnext hins hg

end Sys2Proof.Machine

/-! R.GROUP and R.OUTSIDE (46_render_pipeline.md R364, R368, R369, R371). -/

namespace Sys2Proof.Machine

open Sys2Proof.Claims

/-! ### R.GROUP -/

section
variable {s u : State} {g n : Nat} {r v : Render} {fh : FrameHeader}

/-- The state with PASSES_READY of the group set. -/
def State.groupReady (s : State) (r : Render) (g : Nat) : State := s.setRnd (some { r with ready := readyAfter s r g })

/-- R.GROUP once PASSES_READY is set. -/
theorem renderGroup_eq (hr : s.rnd = some r) (hfh : s.par.frame = some fh) :
    renderGroup g s = (match commonPasses (readyAfter s r g) with
      | none => pure ()
      | some n =>
        if r.rendered < n ∧ s.grp.planes.all (planeWritten s fh) then do
          renderFrame
          setRender fun r => { r with rendered := n }
        else pure ()) (s.groupReady r g) := by
  have hset : setRender (fun r => { r with ready := r.ready.set g (((r.ready[g]?).getD []).map fun _ => passesDecoded s g) }) s =
      .ok () (s.groupReady r g) := by
    rw [setRender, upd_apply, hr]
    rfl
  have hget : getRender (s.groupReady r g) = .ok { r with ready := readyAfter s r g } (s.groupReady r g) := getRender_ok rfl
  rw [renderGroup, Op.bind_ok (getState_apply s), Op.bind_ok (getFrame_ok hfh), Op.bind_ok (getRender_ok hr), Op.bind_ok hset,
    Op.bind_ok hget] <;> rfl

theorem renderGroup_waits (hr : s.rnd = some r) (hfh : s.par.frame = some fh)
    (hwait : ∀ n, commonPasses (readyAfter s r g) = some n → n ≤ r.rendered ∨ ∃ plane ∈ s.grp.planes, planeWritten s fh plane = false) :
    renderGroup g s = .ok () (s.groupReady r g) := by
  rw [renderGroup_eq hr hfh]
  cases hn : commonPasses (readyAfter s r g) with
  | none => rfl
  | some n =>
    have hnot : ¬ (r.rendered < n ∧ s.grp.planes.all (planeWritten s fh) = true) := fun ⟨hlt, hall⟩ =>
      (hwait n hn).elim (fun hle => absurd hlt (Nat.not_lt.2 hle)) fun ⟨plane, hp, hf⟩ =>
        Bool.false_ne_true (hf.symm.trans (List.all_eq_true.1 hall plane hp))
    simp only [if_neg hnot]
    rfl

theorem renderGroup_renders (hr : s.rnd = some r) (hfh : s.par.frame = some fh)
    (hn : commonPasses (readyAfter s r g) = some n) (hlt : r.rendered < n) (hplanes : ∀ plane ∈ s.grp.planes, planeWritten s fh plane = true)
    (hrender : renderFrame (s.groupReady r g) = .ok () u) (hv : u.rnd = some v) :
    renderGroup g s = .ok () (u.setRnd (some { v with rendered := n })) := by
  rw [renderGroup_eq hr hfh, hn]
  simp only [if_pos (And.intro hlt (List.all_eq_true.2 hplanes))]
  rw [Op.bind_ok hrender, setRender, upd_apply, hv]
  rfl

theorem released_setRnd (s : State) (v : Option Render) (l : List Nat) : (s.setRnd v).released l = (s.released l).setRnd v := by
  induction l generalizing s with
  | nil => rfl
  | cons h rest ih =>
    rw [State.released, State.released, ← ih]
    rfl

theorem renderFrame_empty (hr : s.rnd = some r) (hfh : s.par.frame = some fh) (hplanes : s.grp.planes = []) (hstages : r.stages = []) :
    renderFrame s = .ok () (((s.released r.chans).released (r.next.map Prod.snd)).setRnd (some { r with chans := [], next := [] })) := by
  have hgrp : ((s.released r.chans).released (r.next.map Prod.snd)).grp.planes = [] := by
    rw [released_eq, released_eq s]
    exact hplanes
  have hrnd : ((s.released r.chans).released (r.next.map Prod.snd)).rnd = some r := by
    rw [released_eq, released_eq s]
    exact hr
  have hset : setRender (fun r => { r with chans := [], next := [] }) ((s.released r.chans).released (r.next.map Prod.snd)) =
      .ok () (((s.released r.chans).released (r.next.map Prod.snd)).setRnd (some { r with chans := [], next := [] })) := by
    rw [setRender, upd_apply, hrnd]
    rfl
  rw [renderFrame, Op.bind_ok (getFrame_ok hfh), Op.bind_ok (getRender_ok hr), Op.bind_ok (each_release_ok _ _),
    Op.bind_ok (each_release_ok _ _), Op.bind_ok (getState_apply _), hgrp, collect, Op.bind_ok (Op.pure_apply _ _), Op.bind_ok hset,
    hstages]
  rfl

end

/-! ### R.OUTSIDE -/

section
variable {s t : State} {r : Render} {pad : StageFn} {cw ch : Nat} {rect : Place} {ref : List (List (List Sample))} {rows : List Nat}

theorem outsideRows_eq (ch : Nat) (rect : Place) : outsideRows ch rect = rowsOutside ch rect :=
  List.filter_congr fun _ _ => (Bool.decide_or _ _).symm

theorem padRows_ok (hr : s.rnd = some r) (href : RefsAre s pad ref) (hroom : ∀ h ∈ r.chans, ∀ y ∈ rows, RoomFor s h y 0 cw) :
    padRows pad cw rows s = .ok () (padded s r.chans pad ref cw rows) ∧ Written [] s (padded s r.chans pad ref cw rows) := by
  rw [padRows, Op.bind_ok (getRender_ok hr), Op.bind_ok (stageRefs_ok href), Op.bind_ok (getParams_apply s)]
  refine each_foldl_ok (written_refl [] s) fun y hy u hu => ?_
  exact hu.each_lineTo_ok (n := cw) (xs := r.chans.zipIdx) (buf := fun e => e.1)
    (line := fun e ty => (List.range cw).map (padOf s.inp.params ty pad ref e.2 y))
    (fun e he => hroom _ (List.fst_mem_of_mem_zipIdx he) y hy) (fun _ _ => apart_nil s _)
    (fun _ _ _ hv => type_of_mem_range_map (fun _ => type_pick _ _) hv) fun _ _ => by simp

theorem channelHeights_ok (hw : Written [] s t) (hr : s.rnd = some r)
    (hsome : ∀ h ∈ r.chans, (assocGet s.img.bufs h).isSome = true) : channelHeights t = .ok (r.chans.map (heightOf s)) t := by
  rw [channelHeights, Op.bind_ok (getRender_ok (hw.rnd.trans hr))]
  refine collect_map_ok fun h hh => ?_
  obtain ⟨b, hb⟩ := Option.isSome_iff_exists.1 (hsome h hh)
  obtain ⟨c, hc, hcb⟩ := hw.buffer hb
  have hheight : c.height = heightOf s h := by
    rw [heightOf, hb]
    exact congrArg (fun x => x.2.1) hcb
  rw [Op.bind_ok (getBuf_ok hc), hheight, Op.pure_apply]

/-- The stages after Extend, with the rows of R.OUTSIDE. -/
def outsideRuns (s : State) (r : Render) (ch : Nat) (rect : Place) : List StageRun :=
  someRows (s.par.imageHeader.bind fun ih => firstAlpha s.inp.params ih r.chans.length) (r.chans.map (heightOf s))
    (List.replicate r.chans.length (rowsOutside ch rect)) (afterExtend r.stages)

theorem outside_eq (hr : s.rnd = some r) (href : RefsAre s pad ref)
    (hroom : ∀ h ∈ r.chans, (assocGet s.img.bufs h).isSome = true ∧ ∀ y ∈ rowsOutside ch rect, s.holds (typeOf s h) h 0 y cw 1) :
    outside pad cw ch rect s =
      each (outsideRuns s r ch rect) runStage (padded s r.chans pad ref cw (rowsOutside ch rect)) := by
  obtain ⟨hpad, hw⟩ := padRows_ok (rows := rowsOutside ch rect) hr href
    fun h hh y hy => ⟨(hroom h hh).1, (hroom h hh).2 y hy⟩
  rw [outside, Op.bind_ok (getRender_ok hr), outsideRows_eq, Op.bind_ok hpad, Op.bind_ok (getState_apply _),
    Op.bind_ok (channelHeights_ok hw hr fun h hh => (hroom h hh).1), hw.par, hw.inp, outsideRuns]

theorem stage_mem_of_someRows {alpha : Option Nat} {heights : List Nat} {given : List (List Nat)} {l : List RStage} {a : StageRun}
    (ha : a ∈ someRows alpha heights given l) : a.stage ∈ l := by
  induction l generalizing heights given with
  | nil => cases ha
  | cons st rest ih =>
    rcases List.mem_cons.1 ha with rfl | ha
    · exact .head _
    · exact .tail _ (ih ha)

theorem each_unchanged {α : Type} {xs : List α} {f : α → Op Unit} (h : ∀ a ∈ xs, f a s = .ok () s) : each xs f s = .ok () s := by
  induction xs with
  | nil => rfl
  | cons a rest ih =>
    obtain ⟨ha, hrest⟩ := List.forall_mem_cons.1 h
    rw [each, Op.bind_ok ha, ih hrest]

/-- A Save stage without output buffers does nothing. -/
theorem runStage_save_absent {a : StageRun} {channel plane : Nat} (ha : a.stage = .save channel plane) (hr : s.rnd = some r)
    (hc : channel < r.chans.length) (hsome : ∀ h ∈ r.chans, (assocGet s.img.bufs h).isSome = true) (hout : s.ctl.out = none) :
    runStage a s = .ok () s := by
  have hchan : channelsOf r [channel] = some [r.chans[channel]] := by
    rw [channelsOf, List.map_singleton, List.getElem?_eq_getElem hc]
    rfl
  obtain ⟨b, hb⟩ := Option.isSome_iff_exists.1 (hsome _ (List.getElem_mem hc))
  have hsize : bufferSize [r.chans[channel]] s = .ok (b.width, b.height) s := by
    rw [bufferSize, Op.bind_ok (getBuf_ok hb)]
    rfl
  rw [runStage, ha]
  exact (Op.bind_ok (stageBuffers_ok hr hchan) _).trans ((Op.bind_ok hsize _).trans
    (each_unchanged fun y _ => saveRow_absent hout channel plane y 0 b.width))

theorem outside_saves_absent (hr : s.rnd = some r) (href : RefsAre s pad ref)
    (hroom : ∀ h ∈ r.chans, (assocGet s.img.bufs h).isSome = true ∧ ∀ y ∈ rowsOutside ch rect, s.holds (typeOf s h) h 0 y cw 1)
    (hsaves : ∀ st ∈ afterExtend r.stages, s.ctl.out = none ∧ ∃ channel plane, st = .save channel plane ∧ channel < r.chans.length) :
    outside pad cw ch rect s = .ok () (padded s r.chans pad ref cw (rowsOutside ch rect)) := by
  rw [outside_eq hr href hroom]
  obtain ⟨-, hw⟩ := padRows_ok (rows := rowsOutside ch rect) hr href
    fun h hh y hy => ⟨(hroom h hh).1, (hroom h hh).2 y hy⟩
  refine each_unchanged fun a ha => ?_
  obtain ⟨hout, channel, plane, hst, hc⟩ := hsaves _ (stage_mem_of_someRows ha)
  refine runStage_save_absent hst (hw.rnd.trans hr) hc (fun h hh => ?_) (by rw [hw.ctl]; exact hout)
  obtain ⟨b, hb⟩ := Option.isSome_iff_exists.1 (hroom h hh).1
  obtain ⟨c, hc, -⟩ := hw.buffer hb
  rw [hc]
  rfl

end

/-! ### The rows of each stage -/

section
variable {alpha : Option Nat} {heights : List Nat} {rows need : List (List Nat)} {l : List RStage} {c y : Nat}

theorem lists_zipWith_append {as bs : List (List Nat)} (hlen : as.length = bs.length) :
    Lists (List.zipWith (fun a b => a ++ b) as bs) c y ↔ Lists as c y ∨ Lists bs c y := by
  unfold Claims.Lists
  rw [List.getElem?_zipWith]
  cases ha : as[c]? with
  | none =>
    have hb : bs[c]? = none := List.getElem?_eq_none (hlen ▸ List.getElem?_eq_none_iff.1 ha)
    simp [hb]
  | some a =>
    have hb := List.getElem?_eq_getElem (hlen ▸ (List.getElem?_eq_some_iff.1 ha).1 : c < bs.length)
    simp [hb]

/-- What a list of stages needs: the rows themselves, and what the first stage needs to give what the rest needs. -/
theorem lists_rowsNeeded_cons (st : RStage) (hlen : rows.length = heights.length) :
    Lists (rowsNeeded alpha heights rows (st :: l)) c y ↔ Lists rows c y ∨
      Lists (rowsBefore alpha heights (rowsNeeded alpha (heightsAfter heights st) (rowsAfter heights rows st) l) st) c y := by
  rw [rowsNeeded]
  exact lists_zipWith_append (by
    rw [rowsBefore_length alpha st (by rw [rowsNeeded_length alpha l (by simp [hlen]), heightsAfter_length]), hlen])

theorem lists_rowsNeeded_self (hlen : rows.length = heights.length) (h : Lists rows c y) :
    Lists (rowsNeeded alpha heights rows l) c y := by
  cases l with
  | nil => exact h
  | cons st rest => exact (lists_rowsNeeded_cons st hlen).2 (.inl h)

/-- Every stage's run: its stage, the rows it saves, the rows it gives, and that the next stage finds the rows it needs. -/
theorem someRows_runs {i : Nat} {a : StageRun} (hlen : rows.length = heights.length)
    (ha : (someRows alpha heights rows l)[i]? = some a) :
    l[i]? = some a.stage ∧ (i = 0 → a.heights = heights ∧ a.saves = rows) ∧
    (∀ c y, Lists (rowsAfter a.heights a.saves a.stage) c y → Lists a.gives c y) ∧
    ∀ b, (someRows alpha heights rows l)[i + 1]? = some b →
      b.heights = heightsAfter a.heights a.stage ∧ b.saves = rowsAfter a.heights a.saves a.stage ∧
      ∀ c y, Lists (rowsBefore alpha b.heights b.gives b.stage) c y → Lists a.gives c y := by
  induction l generalizing heights rows i with
  | nil => cases ha
  | cons st rest ih =>
    have hafter : (rowsAfter heights rows st).length = (heightsAfter heights st).length := by simp [hlen]
    cases i with
    | zero =>
      rw [someRows, List.getElem?_cons_zero] at ha
      obtain rfl := Option.some.inj ha
      refine ⟨rfl, fun _ => ⟨rfl, rfl⟩, fun c y h => lists_rowsNeeded_self hafter h, fun b hb => ?_⟩
      rw [someRows, List.getElem?_cons_succ] at hb
      cases rest with
      | nil => cases hb
      | cons st' more =>
        rw [someRows, List.getElem?_cons_zero] at hb
        obtain rfl := Option.some.inj hb
        exact ⟨rfl, rfl, fun c y h => (lists_rowsNeeded_cons st' hafter).2 (.inr h)⟩
    | succ i =>
      rw [someRows, List.getElem?_cons_succ] at ha
      obtain ⟨hstage, -, hgives, hnext⟩ := ih hafter ha
      exact ⟨hstage, fun h => absurd h (Nat.succ_ne_zero i), hgives, hnext⟩

end

/-- Settles O58: the cases of the driver; the padding and then the stages after Extend; what those need of each other. -/
theorem groupAndOutside : Obligations.GroupAndOutside := by
  refine ⟨?_, ?_, ?_, ?_, fun alpha heights rows l i a hlen ha => someRows_runs hlen ha⟩
  · exact fun s g r fh hr hfh hwait => runUnit_ok (renderGroup_waits hr hfh hwait)
  · exact fun s u g n r v fh hr hfh hn hlt hplanes hrender hv =>
      runUnit_ok (renderGroup_renders hr hfh hn hlt hplanes hrender hv)
  · intro s g n r fh hr hfh hn hlt hplanes hstages
    have hrender := renderFrame_empty (s := s.groupReady r g) (r := { r with ready := readyAfter s r g }) rfl hfh hplanes hstages
    refine (runUnit_ok (renderGroup_renders hr hfh hn hlt (by simp [hplanes]) hrender rfl)).trans ?_
    rw [State.groupReady, released_setRnd, released_setRnd]
    rfl
  · intro s pad cw ch rect r ref hr href hroom
    refine ⟨fun u hu => ?_, fun hsaves => runUnit_ok (outside_saves_absent hr href hroom hsaves)⟩
    exact runUnit_ok ((outside_eq hr href hroom).trans hu)

end Sys2Proof.Machine

/-! S.HFGLOBAL (43_group_decoder.md R244), and what the section decodes share: a fatal error inside a section leaves of its
work nothing, and a scope with preset tables takes the bits of its specification only. -/

namespace Sys2Proof.Machine

open Sys2Proof.Claims

variable {s t u : State}

/-! ### Inside a section -/

/-- `t` is `s` inside the decode of a section, of which it has changed the frame's and the scopes' state. -/
structure Within (s t : State) : Prop where
  reads : t.par.reader ≠ none
  rest : t = { s with par := { s.par with reader := t.par.reader }, grp := t.grp, ent := t.ent, mod := t.mod, rnd := t.rnd }

theorem within_opened (s : State) (x : Section) : Within s (opened s x) := ⟨Option.some_ne_none _, rfl⟩

theorem Within.inp (h : Within s t) : t.inp = s.inp := by rw [h.rest]
theorem Within.ctl (h : Within s t) : t.ctl = s.ctl := by rw [h.rest]
theorem Within.img (h : Within s t) : t.img = s.img := by rw [h.rest]
theorem Within.frame (h : Within s t) : t.par.frame = s.par.frame := by rw [h.rest]
theorem Within.imageHeader (h : Within s t) : t.par.imageHeader = s.par.imageHeader := by rw [h.rest]

theorem Within.moved (h : Within s t) (n : Nat) : Within s (t.moved n) := by
  obtain ⟨r, hr⟩ := Option.ne_none_iff_exists'.1 h.reads
  refine ⟨moved_reader_ne_none h.reads n, ?_⟩
  have hrest := congrArg (fun v : State => v.setPar fun p => { p with reader := some { r with pos := r.pos + n } }) h.rest
  have hmoved : t.moved n = t.setPar fun p => { p with reader := some { r with pos := r.pos + n } } := by
    simp only [State.moved, hr]
  rw [hmoved]
  exact hrest

theorem Within.setEnt (h : Within s t) (f : List (ScopeId × ScopeTables) → List (ScopeId × ScopeTables)) : Within s (t.setEnt f) :=
  ⟨h.reads, congrArg (fun v : State => v.setEnt fun _ => f t.ent) h.rest⟩

theorem Within.setMod (h : Within s t) (f : Modular → Modular) : Within s (t.setMod f) :=
  ⟨h.reads, congrArg (fun v : State => v.setMod fun _ => f t.mod) h.rest⟩

theorem Within.setGrp (h : Within s t) (f : Groups → Groups) : Within s (t.setGrp f) :=
  ⟨h.reads, congrArg (fun v : State => v.setGrp fun _ => f t.grp) h.rest⟩

/-- A fatal error destroys all that the section's decode has changed. -/
theorem Within.trapEntry (h : Within s t) (k : Kind) : trapEntry k t = trapEntry k s := by
  rw [h.rest]
  rfl

theorem withSection_error {α : Type} {body : Op α} {i : Nat} {x : Section} {e : Stop} (hx : s.par.sect[i]? = some x)
    (h : body (opened s x) = .error e u) : withSection i body s = .error e u := by
  unfold withSection
  rw [Op.bind_ok (getState_apply s), hx, Op.bind_ok (present_some x _ s), Op.bind_ok (upd_apply _ s)]
  exact Op.bind_error h _

theorem section_trap {body : Op Unit} {i : Nat} {x : Section} {k : Kind} (hx : s.par.sect[i]? = some x)
    (h : body (opened s x) = .error (.fatal k) u) : runUnit (withSection i body) s = .next (trapEntry k u) :=
  runUnit_fatal (withSection_error hx h)

theorem section_trap_within {body : Op Unit} {i : Nat} {x : Section} {k : Kind} (hx : s.par.sect[i]? = some x)
    (h : body (opened s x) = .error (.fatal k) u) (hu : Within s u) : runUnit (withSection i body) s = .next (trapEntry k s) := by
  rw [section_trap hx h, hu.trapEntry]

theorem section_ok {body : Op Unit} {i : Nat} {x : Section} (hx : s.par.sect[i]? = some x) (h : body (opened s x) = .ok () u) :
    runUnit (withSection i body) s = .next ((u.setPar fun p => { p with reader := none }).setRet .none) :=
  runUnit_ok (withSection_ok hx h)

/-! ### Scopes with preset tables -/

/-- The tables of a scope that comes with preset ones. -/
def ScopeSpec.presetTables (spec : ScopeSpec) : ScopeTables :=
  { coder := spec.coder, codes := [], htabs := spec.preset, ansState := none }

theorem scopeTables_preset {sc : ScopeId} {spec : ScopeSpec} {n : Nat} (h : s.answers (Cfg.scopeSpec s.inp.params sc) spec n)
    (hlas : spec.las = []) (halphabets : spec.alphabets = []) :
    scopeTables sc s = .ok () ((s.moved n).withScope sc spec.presetTables) := by
  rw [scopeTables, Op.bind_ok (getParams_apply s), Op.bind_ok (parse_ok h), hlas, halphabets]
  rfl

theorem moved_setEnt (s : State) (f : List (ScopeId × ScopeTables) → List (ScopeId × ScopeTables)) (n : Nat) :
    (s.setEnt f).moved n = (s.moved n).setEnt f := by
  unfold State.moved
  cases hr : s.par.reader with
  | none => rw [show (s.setEnt f).par.reader = none from hr]; rfl
  | some r => rw [show (s.setEnt f).par.reader = some r from hr]; rfl

/-! ### S.HFGLOBAL -/

theorem collect_range'_error {α : Type} {f : Nat → Op α} {g : Nat → α} {S : Nat → State} {n a q : Nat} {e : Stop}
    (h : ∀ k, a ≤ k → k < q → f k (S k) = .ok (g k) (S (k + 1))) (haq : a ≤ q) (hq : q < a + n) (he : f q (S q) = .error e t) :
    collect (List.range' a n) f (S a) = .error e t := by
  induction n generalizing a with
  | zero => omega
  | succ n ih =>
    rw [List.range'_succ, collect]
    rcases Nat.eq_or_lt_of_le haq with rfl | hlt
    · rw [Op.bind_error he]
    · rw [Op.bind_ok (h a (Nat.le_refl _) hlt), Op.bind_error (ih (fun k hk hkq => h k (by omega) hkq) hlt (by omega))]

/-- A loop that collects and ends at its q-th round. -/
theorem collect_range_error {α : Type} {f : Nat → Op α} {g : Nat → α} {S : Nat → State} {n q : Nat} {e : Stop}
    (h : ∀ k, k < q → f k (S k) = .ok (g k) (S (k + 1))) (hq : q < n) (he : f q (S q) = .error e t) :
    collect (List.range n) f (S 0) = .error e t := by
  rw [List.range_eq_range']
  exact collect_range'_error (fun k _ hk => h k hk) (Nat.zero_le q) (by omega) he

/-- One pass of S.HFGLOBAL. -/
def readPass (p : Params) (pass : Nat) : Op (List (OrderKey × List Nat)) := do
  let o ← parse (Cfg.scanOrders p pass)
  check (o.all orderOk) .format
  scopeTables (.ac pass)
  pure o

theorem hfGlobalBody_eq {fh : FrameHeader} {dq : List ((Nat × Nat) × List F32)} {n : Nat} (hfh : s.par.frame = some fh)
    (hdq : s.answers (Cfg.dequantMatrices s.inp.params) dq n) :
    hfGlobalBody s = (check (dq.all (matrixOk s.inp.params)) .transform >>= fun _ =>
      collect (List.range fh.numPasses) (readPass s.inp.params) >>= fun order =>
        upd fun u => u.setGrp fun g => { g with hfGlobal := some { dequant := dq, order := order } }) (s.moved n) := by
  rw [hfGlobalBody, Op.bind_ok (getParams_apply s), Op.bind_ok (getFrame_ok hfh), Op.bind_ok (parse_ok hdq)]
  rfl

theorem hfGlobalBody_malformed {fh : FrameHeader} {k : Kind} (hfh : s.par.frame = some fh)
    (h : firstAnswer (Cfg.dequantMatrices s.inp.params) s.bitsHere = .malformed k) : hfGlobalBody s = .error (.fatal k) s := by
  rw [hfGlobalBody, Op.bind_ok (getParams_apply s), Op.bind_ok (getFrame_ok hfh), Op.bind_error (parse_malformed h)]

theorem coded_kind {α : Type} {f : Bits → Answer α} {bits : Bits} {k : Kind} (h : firstAnswer (fun b => (f b).asCoded) bits = .malformed k) :
    k = .format ∨ k = .checksum := by
  obtain ⟨seen, hseen⟩ := firstAnswer_malformed h
  exact asCoded_malformed hseen

/-- The tables of the scopes after `p` passes. -/
def tablesAfter (ent : List (ScopeId × ScopeTables)) (spec : Nat → ScopeSpec) (p : Nat) : List (ScopeId × ScopeTables) :=
  match p with
  | 0 => ent
  | p + 1 => assocSet (tablesAfter ent spec p) (.ac p) (spec p).presetTables

theorem assocGet_tablesAfter_pass (ent : List (ScopeId × ScopeTables)) (spec : Nat → ScopeSpec) {p n : Nat} (hp : p < n) :
    assocGet (tablesAfter ent spec n) (.ac p) = some (spec p).presetTables := by
  induction n with
  | zero => omega
  | succ n ih =>
    rw [tablesAfter, assocGet_assocSet]
    by_cases h : p = n
    · rw [if_pos (congrArg ScopeId.ac h), h]
    · rw [if_neg fun he => h (ScopeId.ac.inj he), ih (by omega)]

theorem assocGet_tablesAfter_other (ent : List (ScopeId × ScopeTables)) (spec : Nat → ScopeSpec) {sc : ScopeId} {n : Nat}
    (h : ∀ p, p < n → sc ≠ .ac p) : assocGet (tablesAfter ent spec n) sc = assocGet ent sc := by
  induction n with
  | zero => rfl
  | succ n ih => rw [tablesAfter, assocGet_assocSet, if_neg (h n (Nat.lt_succ_self n)), ih fun p hp => h p (Nat.lt_succ_of_lt hp)]

/-- The state before pass `p` of S.HFGLOBAL, in section `x`. -/
def beforePass (s : State) (x : Section) (pos : Nat → Nat) (spec : Nat → ScopeSpec) (p : Nat) : State :=
  ((opened s x).moved (pos p)).setEnt fun _ => tablesAfter s.ent spec p

section
variable {x : Section} {pos a b : Nat → Nat} {ord : Nat → List (OrderKey × List Nat)} {spec : Nat → ScopeSpec} {p : Nat}

theorem within_beforePass : Within s (beforePass s x pos spec p) := ((within_opened s x).moved _).setEnt _

theorem readPass_ok (h : PassRead s x p (pos p) (a p) (b p) (ord p) (spec p)) (hpos : pos (p + 1) = pos p + a p + b p) :
    readPass s.inp.params p (beforePass s x pos spec p) = .ok (ord p) (beforePass s x pos spec (p + 1)) := by
  obtain ⟨horders, hperm, hscope, hlas, halphabets⟩ := h
  have hparse : parse (Cfg.scanOrders s.inp.params p) (beforePass s x pos spec p) =
      .ok (ord p) (((opened s x).moved (pos p + a p)).setEnt fun _ => tablesAfter s.ent spec p) := by
    have hparsed := parse_ok (s := beforePass s x pos spec p) horders
    rwa [beforePass, moved_setEnt, moved_moved] at hparsed
  have hinp : (((opened s x).moved (pos p + a p)).setEnt fun _ => tablesAfter s.ent spec p).inp.params = s.inp.params :=
    congrArg Inputs.params ((((within_opened s x).moved (pos p + a p)).setEnt fun _ => tablesAfter s.ent spec p).inp)
  have htables := scopeTables_preset (s := ((opened s x).moved (pos p + a p)).setEnt fun _ => tablesAfter s.ent spec p)
    (sc := .ac p) (spec := spec p) (n := b p) (by rw [hinp]; exact hscope) hlas halphabets
  rw [moved_setEnt, moved_moved, ← hpos] at htables
  rw [readPass, Op.bind_ok hparse, Op.bind_ok (check_ok hperm _ _), Op.bind_ok htables]
  rfl

theorem collect_readPass_ok {n : Nat}
    (h : ∀ p, p < n → PassRead s x p (pos p) (a p) (b p) (ord p) (spec p) ∧ pos (p + 1) = pos p + a p + b p) :
    collect (List.range n) (readPass s.inp.params) (beforePass s x pos spec 0) =
      .ok ((List.range n).map ord) (beforePass s x pos spec n) := by
  obtain ⟨u, hu, rfl⟩ := collect_range_ok (R := fun p t => t = beforePass s x pos spec p) (f := readPass s.inp.params) (g := ord)
    (n := n) rfl fun p t hp ht => ⟨_, by rw [ht]; exact readPass_ok (h p hp).1 (h p hp).2, rfl⟩
  exact hu

theorem beforePass_zero {n : Nat} (hpos : pos 0 = n) : beforePass s x pos spec 0 = (opened s x).moved n := by
  have hent : ((opened s x).moved n).ent = s.ent := moved_ent _ _
  rw [beforePass, hpos, tablesAfter, ← hent]
  rfl

end

/-- Settles O28: each pass reads its scan orders and the tables of its scope, and where one is rejected the error leaves
nothing of the section's work. -/
theorem hfGlobalSection : Obligations.HfGlobalSection := by
  refine ⟨fun s sec x fh k hx hfh hk => ⟨?_, coded_kind hk⟩, ?_⟩
  · exact section_trap_within hx (hfGlobalBody_malformed (s := opened s x) hfh hk) (within_opened s x)
  · intro s sec x fh dq n pos a b ord spec hx hfh hdq
    have hbody := hfGlobalBody_eq (s := opened s x) hfh hdq
    refine ⟨fun hbad => ?_, fun hok hpos hpasses => ?_, fun q hok hpos hq hpasses => ?_⟩
    · exact section_trap_within hx (hbody.trans (Op.check_bind_of_not hbad _ _ _)) ((within_opened s x).moved n)
    · have hloop := collect_readPass_ok hpasses
      rw [beforePass_zero hpos] at hloop
      refine ⟨tablesAfter s.ent spec fh.numPasses, ?_, fun p hp => assocGet_tablesAfter_pass _ _ hp, fun sc hsc =>
        assocGet_tablesAfter_other _ _ hsc⟩
      refine (section_ok hx (hbody.trans ((Op.bind_ok (check_ok hok _ _) _).trans ((Op.bind_ok hloop _).trans
        (upd_apply _ _))))).trans ?_
      rw [(within_beforePass (s := s) (x := x) (pos := pos) (spec := spec) (p := fh.numPasses)).rest]
      simp [State.setGrp, State.setPar, State.setRet, beforePass, State.setEnt, opened]
    · have hfail : ∀ k u, readPass s.inp.params q (beforePass s x pos spec q) = .error (.fatal k) u → Within s u →
          exec (.sHfGlobal sec) s = .next (trapEntry k s) := fun k u he hu => by
        have hloop := collect_range_error (S := beforePass s x pos spec) (fun p hp => readPass_ok (hpasses p hp).1 (hpasses p hp).2)
          hq he
        rw [beforePass_zero hpos] at hloop
        exact section_trap_within hx (hbody.trans ((Op.bind_ok (check_ok hok _ _) _).trans (Op.bind_error hloop _))) hu
      refine ⟨fun hord hbad => ?_, fun k hk => ⟨?_, coded_kind hk⟩⟩
      · have hparse := parse_ok (s := beforePass s x pos spec q) hord
        exact hfail _ _ ((Op.bind_ok hparse _).trans (Op.check_bind_of_not hbad _ _ _)) (within_beforePass.moved _)
      · exact hfail k _ (Op.bind_error (parse_malformed (s := beforePass s x pos spec q) hk) _) within_beforePass

end Sys2Proof.Machine

/-! The stages of a frame (46_render_pipeline.md R372, R373, R375): what the options require of the list BuildPipeline gives. -/

namespace Sys2Proof.Machine

open Sys2Proof.Claims

section
variable {kind : StageFn → Bool} {f g : StageFn} {on : Bool} {set set' : List Nat} {l : List RStage} {st : RStage}

theorem isFn_of_computes (h : Computes f st) (kind : StageFn → Bool) : RStage.isFn kind st = kind f := by
  rcases h with ⟨set, rfl⟩ | ⟨set, bx, byy, sx, sy, up, rfl⟩ <;> rfl

theorem mem_insertBeforeSave {new : RStage} (h : st ∈ insertBeforeSave new l) : st = new ∨ st ∈ l := by
  induction l with
  | nil => exact .inl (List.mem_singleton.1 h)
  | cons x rest ih =>
    cases x with
    | save c pl => exact List.mem_cons.1 h
    | inplace f set => exact (List.mem_cons.1 h).elim (fun h => .inr (h ▸ .head _)) fun h => (ih h).imp_right (.tail _)
    | inout f set bx byy sx sy up => exact (List.mem_cons.1 h).elim (fun h => .inr (h ▸ .head _)) fun h => (ih h).imp_right (.tail _)
    | extend pad rect cw ch => exact (List.mem_cons.1 h).elim (fun h => .inr (h ▸ .head _)) fun h => (ih h).imp_right (.tail _)

/-- What is required adds at most one stage. -/
theorem mem_requireStage (h : st ∈ requireStage kind f on set l) : st = .inplace f set ∨ st ∈ l := by
  unfold requireStage at h
  split at h
  · split at h
    · exact .inr h
    · exact (mem_insertBeforeSave h).imp_right fun h => (List.mem_filter.1 h).1
  · exact .inr (List.mem_filter.1 h).1

/-- Where a kind of function is not wanted no stage has it. -/
theorem not_isFn_of_mem_requireStage (h : st ∈ requireStage kind f false set l) : RStage.isFn kind st = false := by
  have hmem : st ∈ l.filter fun st => !RStage.isFn kind st := h
  simpa using (List.mem_filter.1 hmem).2

/-! ### Placed before the first Save -/

def NoSave (l : List RStage) : Prop := ∀ st ∈ l, ∀ channel plane, st ≠ .save channel plane

theorem insertBeforeSave_append {pre rest : List RStage} {new : RStage} (hpre : NoSave pre) :
    insertBeforeSave new (pre ++ rest) = pre ++ insertBeforeSave new rest := by
  induction pre with
  | nil => rfl
  | cons x pre ih =>
    obtain ⟨hx, hrest⟩ := List.forall_mem_cons.1 hpre
    cases x with
    | save c pl => exact absurd rfl (hx c pl)
    | inplace f set => exact congrArg (List.cons _) (ih hrest)
    | inout f set bx byy sx sy up => exact congrArg (List.cons _) (ih hrest)
    | extend pad rect cw ch => exact congrArg (List.cons _) (ih hrest)

theorem insertBeforeSave_inplace (new : RStage) (rest : List RStage) :
    insertBeforeSave new (.inplace f set :: rest) = .inplace f set :: insertBeforeSave new rest := rfl

/-- A list begins with the stages before its first Save. -/
theorem beforeSave_append (l : List RStage) : NoSave (beforeSave l) ∧ ∃ rest, l = beforeSave l ++ rest ∧
    ∀ new, insertBeforeSave new l = beforeSave l ++ new :: rest := by
  induction l with
  | nil => exact ⟨fun _ h => absurd h List.not_mem_nil, [], rfl, fun _ => rfl⟩
  | cons x l ih =>
    obtain ⟨hno, rest, hl, hins⟩ := ih
    have hcons : ∀ x : RStage, beforeSave (x :: l) = x :: beforeSave l → (∀ new, insertBeforeSave new (x :: l) = x :: insertBeforeSave new l) →
        (∀ channel plane, x ≠ .save channel plane) → NoSave (beforeSave (x :: l)) ∧ ∃ rest, x :: l = beforeSave (x :: l) ++ rest ∧
          ∀ new, insertBeforeSave new (x :: l) = beforeSave (x :: l) ++ new :: rest := fun x hx hi hs => by
      rw [hx]
      exact ⟨List.forall_mem_cons.2 ⟨hs, hno⟩, rest, congrArg (List.cons x) hl, fun new => by rw [hi, hins]; rfl⟩
    cases x with
    | save c pl => exact ⟨fun _ h => absurd h List.not_mem_nil, _, rfl, fun _ => rfl⟩
    | inplace f set => exact hcons _ rfl (fun _ => rfl) (fun _ _ => nofun)
    | inout f set bx byy sx sy up => exact hcons _ rfl (fun _ => rfl) (fun _ _ => nofun)
    | extend pad rect cw ch => exact hcons _ rfl (fun _ => rfl) (fun _ _ => nofun)

theorem serves_iff : RStage.serves kind set st = true ↔ ∃ g all, st = .inplace g all ∧ kind g = true ∧ ∀ c ∈ set, c ∈ all := by
  cases st <;> simp [RStage.serves]

/-- Where a kind of function is wanted a stage of it is placed. -/
theorem placed_requireStage (hf : kind f = true) : ∃ g, kind g = true ∧ PlacedFor g set (requireStage kind f true set l) := by
  rw [requireStage, if_pos rfl]
  split
  · next hany =>
    obtain ⟨st, hst, hserves⟩ := List.any_eq_true.1 hany
    obtain ⟨g, all, rfl, hg, hall⟩ := serves_iff.1 hserves
    obtain ⟨hno, rest, hl, -⟩ := beforeSave_append l
    obtain ⟨pre, post, hsplit⟩ := List.append_of_mem hst
    refine ⟨g, hg, pre, all, post ++ rest, ?_, hall, fun st hst => hno st (by rw [hsplit]; exact List.mem_append_left _ hst)⟩
    rw [hl, hsplit, List.append_assoc, List.cons_append]
  · obtain ⟨hno, rest, -, hins⟩ := beforeSave_append (l.filter fun st => !RStage.isFn kind st)
    exact ⟨f, hf, _, set, rest, hins _, fun _ hc => hc, hno⟩

theorem placedFor_filter (h : PlacedFor g set l) (hg : kind g = false) : PlacedFor g set (l.filter fun st => !RStage.isFn kind st) := by
  obtain ⟨pre, all, rest, rfl, hall, hpre⟩ := h
  refine ⟨pre.filter fun st => !RStage.isFn kind st, all, rest.filter fun st => !RStage.isFn kind st, ?_, hall, fun st hst =>
    hpre st (List.mem_filter.1 hst).1⟩
  rw [List.filter_append, List.filter_cons_of_pos (by simp [RStage.isFn, hg])]

/-- What is required of another kind leaves a stage in its place. -/
theorem placedFor_requireStage (h : PlacedFor g set l) (hg : kind g = false) : PlacedFor g set (requireStage kind f on set' l) := by
  unfold requireStage
  split
  · split
    · exact h
    · obtain ⟨pre, all, rest, hl, hall, hpre⟩ := placedFor_filter h hg
      refine ⟨pre, all, insertBeforeSave (.inplace f set') rest, ?_, hall, hpre⟩
      rw [hl, insertBeforeSave_append hpre, insertBeforeSave_inplace]
  · exact placedFor_filter h hg

end

/-! ### The list of a frame -/

section
variable {p : Params} {a : PipelineInput} {n : Nat} {st : RStage}

/-- Whether a function is one of colour management. -/
def isCms (f : StageFn) : Bool := decide (f = .cms) || decide (f = .cmsInplace)

/-- Whether a function multiplies by alpha. -/
def isPremultiply (f : StageFn) : Bool := decide (f = .premultiply)

/-- The stages of BuildPipeline, without those of colour management where it is not there. -/
def managedStages (p : Params) (a : PipelineInput) : List RStage :=
  (Cfg.buildPipeline p a).filter fun st => a.opt.cms.isSome || !RStage.isFn isCms st

/-- Those with what is required of spot colours. -/
def spottedStages (p : Params) (a : PipelineInput) (n : Nat) : List RStage :=
  requireStage StageFn.isSpot (.spot (Cfg.spotFormula p a)) (a.opt.renderSpotColors && a.image.extra.any (Cfg.isSpot p))
    (spotSet p a.image n) (managedStages p a)

theorem stagesOf_eq (p : Params) (a : PipelineInput) (n : Nat) : stagesOf p a n =
    requireStage isPremultiply .premultiply (a.opt.premultiplyOutput && a.image.extra.any (Cfg.isAlpha p))
      (colourChannels a.image n) (spottedStages p a n) := rfl

theorem wanted_iff {b : Bool} {kind : Nat → Bool} {l : List Nat} : (b && l.any kind) = true ↔ b = true ∧ ∃ k ∈ l, kind k = true := by
  rw [Bool.and_eq_true, List.any_eq_true]

theorem not_cms_stagesOf {f : StageFn} (hcms : a.opt.cms = none) (hf : f = .cms ∨ f = .cmsInplace) (hst : st ∈ stagesOf p a n) :
    ¬ Computes f st := by
  intro hc
  have hkind : isCms f = true := by rcases hf with rfl | rfl <;> rfl
  have hfn := (isFn_of_computes hc isCms).trans hkind
  rw [stagesOf_eq] at hst
  rcases mem_requireStage hst with rfl | hst
  · exact absurd hfn (by simp [RStage.isFn, isCms])
  · rcases mem_requireStage hst with rfl | hst
    · exact absurd hfn (by simp [RStage.isFn, isCms])
    · have hkept := (List.mem_filter.1 hst).2
      rw [hcms, hfn] at hkept
      cases hkept

theorem placed_spot (h : a.opt.renderSpotColors = true ∧ ∃ k ∈ a.image.extra, Cfg.isSpot p k = true) :
    ∃ id, PlacedFor (.spot id) (spotSet p a.image n) (stagesOf p a n) := by
  obtain ⟨g, hg, hplaced⟩ := placed_requireStage (kind := StageFn.isSpot) (f := .spot (Cfg.spotFormula p a)) (set := spotSet p a.image n)
    (l := managedStages p a) rfl
  rw [← wanted_iff.2 h] at hplaced
  cases g with
  | spot id => exact ⟨id, placedFor_requireStage hplaced rfl⟩
  | named id => cases hg
  | withRef id slot => cases hg
  | cms => cases hg
  | cmsInplace => cases hg
  | premultiply => cases hg

theorem not_spot_stagesOf (h : ¬ (a.opt.renderSpotColors = true ∧ ∃ k ∈ a.image.extra, Cfg.isSpot p k = true))
    (hst : st ∈ stagesOf p a n) (id : Nat) : ¬ Computes (.spot id) st := by
  intro hc
  have hfn := isFn_of_computes hc StageFn.isSpot
  rw [stagesOf_eq] at hst
  rcases mem_requireStage hst with rfl | hst
  · cases hfn
  · rw [spottedStages, Bool.eq_false_iff.2 (mt wanted_iff.1 h)] at hst
    exact absurd (hfn.symm.trans (not_isFn_of_mem_requireStage hst)) Bool.false_ne_true.symm

theorem placed_premultiply (h : a.opt.premultiplyOutput = true ∧ ∃ k ∈ a.image.extra, Cfg.isAlpha p k = true) :
    PlacedFor .premultiply (List.range (n - a.image.extra.length)) (stagesOf p a n) := by
  obtain ⟨g, hg, hplaced⟩ := placed_requireStage (kind := isPremultiply) (f := .premultiply) (set := colourChannels a.image n)
    (l := spottedStages p a n) rfl
  rw [← wanted_iff.2 h] at hplaced
  obtain rfl : g = .premultiply := of_decide_eq_true hg
  exact hplaced

theorem not_premultiply_stagesOf (h : ¬ (a.opt.premultiplyOutput = true ∧ ∃ k ∈ a.image.extra, Cfg.isAlpha p k = true))
    (hst : st ∈ stagesOf p a n) : ¬ Computes .premultiply st := by
  intro hc
  rw [stagesOf_eq, Bool.eq_false_iff.2 (mt wanted_iff.1 h)] at hst
  exact absurd ((isFn_of_computes hc isPremultiply).symm.trans (not_isFn_of_mem_requireStage hst)) Bool.false_ne_true.symm

theorem mem_spotSet {ih : ImageHeader} {c : Nat} : c ∈ spotSet p ih n ↔ c < n - ih.extra.length ∨
    ∃ i k, ih.extra[i]? = some k ∧ Cfg.isSpot p k = true ∧ c = n - ih.extra.length + i := by
  rw [spotSet, List.mem_append, colourChannels, List.mem_range, List.mem_filterMap]
  refine or_congr_right ⟨fun ⟨e, he, hc⟩ => ?_, fun ⟨i, k, hk, hspot, hc⟩ => ⟨(k, i), List.mem_zipIdx_iff_getElem?.2 hk, ?_⟩⟩
  · split at hc
    · next hspot => exact ⟨e.2, e.1, List.mem_zipIdx_iff_getElem?.1 he, hspot, (Option.some.inj hc).symm⟩
    · cases hc
  · rw [if_pos hspot, hc]

end

end Sys2Proof.Machine

/-! A Modular scope without channels, with which three of the section decodes end (43_group_decoder.md R240, R242). -/

namespace Sys2Proof.Machine

open Sys2Proof.Claims

variable {s t u : State}

/-! ### Answers hang on the section's position -/

theorem answers_of_reader {α : Type} (h : t.par.reader = s.par.reader) (hr : s.par.reader ≠ none)
    {f : Bits → Answer α} {v : α} {n : Nat}
    (ha : s.answers f v n) : t.answers f v n := by
  obtain ⟨hfirst, -⟩ := ha
  refine ⟨?_, fun hnone => absurd (h.symm.trans hnone) hr⟩
  unfold State.bitsHere at hfirst ⊢
  rw [h]
  obtain ⟨r, hr⟩ := Option.ne_none_iff_exists'.1 hr
  rw [hr] at hfirst ⊢
  exact hfirst

theorem moved_reader_congr (h : t.par.reader = s.par.reader) (hr : s.par.reader ≠ none) (n : Nat) :
    (t.moved n).par.reader = (s.moved n).par.reader := by
  obtain ⟨r, hr⟩ := Option.ne_none_iff_exists'.1 hr
  rw [reader_moved hr, reader_moved (h.trans hr)]

/-! ### A Modular scope without channels -/

theorem moved_setMod (s : State) (f : Modular → Modular) (n : Nat) : (s.setMod f).moved n = (s.moved n).setMod f := by
  unfold State.moved
  cases hr : s.par.reader with
  | none => rw [show (s.setMod f).par.reader = none from hr]; rfl
  | some r => rw [show (s.setMod f).par.reader = some r from hr]; rfl

theorem filter_assocSet {κ β : Type} [DecidableEq κ] (l : List (κ × β)) (k : κ) (v : β) :
    ((assocSet l k v).filter fun e => decide (e.1 ≠ k)) = l.filter fun e => decide (e.1 ≠ k) := by
  induction l with
  | nil => simp [assocSet]
  | cons e rest ih =>
    obtain ⟨j, w⟩ := e
    rw [assocSet]
    split
    · next h => subst h; simp
    · next h => rw [List.filter_cons, List.filter_cons, ih]

/-- The tables of scope `sc` dropped. -/
def State.scopeDropped (s : State) (sc : ScopeId) : State := s.setEnt fun e => e.filter fun x => decide (x.1 ≠ sc)

theorem scopeDropped_withScope (s : State) (sc : ScopeId) (v : ScopeTables) : (s.withScope sc v).scopeDropped sc = s.scopeDropped sc := by
  simp only [State.scopeDropped, State.withScope, State.setEnt, filter_assocSet]

theorem scopeStart_huff {sc : ScopeId} (h : (s.scope sc).coder = .huff) :
    scopeStart sc s = .ok () (s.withScope sc { s.scope sc with ansState := none }) := by
  have hcoder : ((s.withScope sc { s.scope sc with ansState := none }).scope sc).coder = .huff := by rw [scope_withScope]; exact h
  rw [scopeStart, Op.bind_ok (setScope_ok sc _ s), Op.bind_ok (getState_apply _), hcoder]
  rfl

/-- A Huffman scope with preset tables: opening it keeps them. -/
theorem scopeOpen_huff {sc : ScopeId} {spec : ScopeSpec} {n : Nat} (h : s.answers (Cfg.scopeSpec s.inp.params sc) spec n)
    (hhuff : spec.coder = .huff) (hlas : spec.las = []) (halphabets : spec.alphabets = []) :
    scopeOpen sc s = .ok () ((s.moved n).withScope sc spec.presetTables) := by
  rw [scopeOpen, Op.bind_ok (scopeTables_preset h hlas halphabets), scopeStart_huff (by rw [scope_withScope]; exact hhuff),
    scope_withScope, withScope_withScope]
  rfl

theorem scopeFinal_huff {sc : ScopeId} (h : (s.scope sc).coder = .huff) : scopeFinal sc s = .ok () s := by
  rw [scopeFinal, Op.bind_ok (getState_apply s), h]
  rfl

section
variable {place : ModPlace} {spec : ModSpec} {coder : ScopeSpec} {m n : Nat}

theorem emptyModular_congr (h : EmptyModular s place spec coder m n) (hreader : t.par.reader = s.par.reader) (hr : s.par.reader ≠ none)
    (hparams : t.inp.params = s.inp.params) (hframe : t.par.frame = s.par.frame)
    (hheader : t.par.imageHeader = s.par.imageHeader) : EmptyModular t place spec coder m n := by
  have hsite : t.modSite place = s.modSite place := by rw [State.modSite, State.modSite, hframe, hheader]
  exact { h with
    specHere := by rw [hparams, hsite]; exact answers_of_reader hreader hr h.specHere
    coderHere := by
      rw [hparams]
      exact answers_of_reader (moved_reader_congr hreader hr m) (moved_reader_ne_none hr m) h.coderHere }

theorem decodeModular_empty (h : EmptyModular s place spec coder m n) (stream : Nat) :
    decodeModular place stream s = .ok [] (((s.moved (m + n)).scopeDropped .modular).setMod fun _ => .reset) := by
  obtain ⟨hspec, htree, hchannels, htransforms, hplaces, hcoder, hhuff, hlas, halphabets⟩ := h
  have hopen : ∀ f : Modular → Modular, scopeOpen .modular ((s.moved m).setMod f) =
      .ok () (((s.moved (m + n)).setMod f).withScope .modular coder.presetTables) := fun f => by
    have hopened := scopeOpen_huff (s := (s.moved m).setMod f) (sc := .modular) (spec := coder) (n := n)
      (by rw [show ((s.moved m).setMod f).inp = s.inp from moved_inp s m]; exact hcoder) hhuff hlas halphabets
    rwa [moved_setMod, moved_moved] at hopened
  have hfinal : ∀ f : Modular → Modular, scopeFinal .modular (((s.moved (m + n)).setMod f).withScope .modular coder.presetTables) =
      .ok () (((s.moved (m + n)).setMod f).withScope .modular coder.presetTables) := fun f =>
    scopeFinal_huff (by rw [scope_withScope]; exact hhuff)
  have hdrop : ∀ f : Modular → Modular, scopeDrop .modular (((s.moved (m + n)).setMod f).withScope .modular coder.presetTables) =
      .ok () (((s.moved (m + n)).setMod f).scopeDropped .modular) := fun f =>
    congrArg (EStateM.Result.ok ()) (scopeDropped_withScope _ _ _)
  have hget : ∀ (u : State) (img : ModImage), u.mod.image = some img → getModImage u = .ok img u := fun u img => getModImage_ok
  rw [decodeModular, Op.bind_ok (getState_apply s), Op.bind_ok (parse_ok hspec), htree, hchannels, htransforms, hplaces]
  refine (Op.bind_ok (Op.pure_apply zeroTree _) _).trans ((Op.bind_ok (Op.pure_apply [] _) _).trans
    ((Op.bind_ok (upd_apply _ _) _).trans ((Op.bind_ok (hopen _) _).trans ((Op.bind_ok (Op.pure_apply () _) _).trans
      ((Op.bind_ok (hfinal _) _).trans ((Op.bind_ok (hdrop _) _).trans ?_))))))
  refine (Op.bind_ok (upd_apply _ _) _).trans ((Op.bind_ok (Op.pure_apply () _) _).trans ((Op.bind_ok (Op.pure_apply () _) _).trans
    ((Op.bind_ok (hget _ _ rfl) _).trans ((Op.bind_ok (Op.pure_apply [] _) _).trans ((Op.bind_ok (Op.pure_apply () _) _).trans
      ?_)))))
  rfl

end

end Sys2Proof.Machine

/-! What S.LFGROUP writes in a VarDCT frame: HFMETA's block maps, the LF values and the tiles (43_group_decoder.md R243). -/

namespace Sys2Proof.Machine

open Sys2Proof.Claims

variable {s t u : State}

/-! ### Loops -/

theorem each_append {α : Type} (xs ys : List α) (f : α → Op Unit) : each (xs ++ ys) f = each xs f >>= fun _ => each ys f := by
  induction xs with
  | nil => rfl
  | cons a rest ih => rw [List.cons_append, each, ih, each, bind_assoc]

theorem each_append_ok {α : Type} {xs : List α} {f : α → Op Unit} (h : each xs f s = .ok () t) (ys : List α) :
    each (xs ++ ys) f s = each ys f t := by
  rw [each_append, Op.bind_ok h]

theorem each_flatMap {α β : Type} (g : α → List β) (f : β → Op Unit) (xs : List α) :
    each (xs.flatMap g) f = each xs fun a => each (g a) f := by
  induction xs with
  | nil => rfl
  | cons a rest ih => rw [List.flatMap_cons, each_append, ih, each]

theorem each_congr {α : Type} {xs : List α} {f g : α → Op Unit} (h : ∀ a ∈ xs, f a = g a) : each xs f = each xs g := by
  induction xs with
  | nil => rfl
  | cons a rest ih =>
    obtain ⟨ha, hrest⟩ := List.forall_mem_cons.1 h
    rw [each, each, ha, ih hrest]

/-- A loop that ends at the first element of a kind, and passes the others over. -/
theorem each_error_of_mem {α : Type} {xs : List α} {f : α → Op Unit} {bad : α → Prop} {e : Stop} (hb : ∃ a ∈ xs, bad a)
    (h : ∀ a ∈ xs, (bad a → f a s = .error e s) ∧ (¬ bad a → f a s = .ok () s)) : each xs f s = .error e s := by
  induction xs with
  | nil =>
    obtain ⟨a, ha, -⟩ := hb
    exact absurd ha List.not_mem_nil
  | cons a rest ih =>
    obtain ⟨⟨hbad, hgood⟩, hrest⟩ := List.forall_mem_cons.1 h
    rw [each]
    by_cases ha : bad a
    · rw [Op.bind_error (hbad ha)]
    · rw [Op.bind_ok (hgood ha)]
      obtain ⟨b, hb, hbbad⟩ := hb
      rcases List.mem_cons.1 hb with rfl | hmem
      · exact absurd hbbad ha
      · exact ih ⟨b, hmem, hbbad⟩ hrest

/-! ### Samples at other positions -/

theorem cell_owned {h x y : Nat} {mode : Access} {c : Nat × Nat} {b : Buffer} (hb : assocGet s.img.bufs h = some b)
    (hown : b.ownership = .owned) (hc : s.cell h x y mode = some c) : x < b.width ∧ c = (h, y * b.width + x) := by
  obtain ⟨b', r, hb', hx, -, hr, -, -, rfl⟩ := cell_eq_some.1 hc
  obtain rfl : b' = b := Option.some.inj (hb'.symm.trans hb)
  rw [rootOf_owned hown] at hr ⊢
  obtain rfl : r = b' := Option.some.inj (hr.symm.trans hb)
  exact ⟨hx, by simp⟩

theorem sample_putSample_elsewhere {h h' x y x' y' : Nat} (ho : Owned s h) (ho' : Owned s h') (hne : (x', y') ≠ (x, y)) (v : Sample) :
    (s.putSample h x y v).sample h' x' y' = s.sample h' x' y' := by
  by_cases hh : h' = h
  · subst hh
    obtain ⟨b, hb, hown⟩ := ho
    cases hc : s.cell h' x y .write with
    | none => simp only [State.putSample, hc]
    | some c =>
      refine sample_putSample_of_ne (fun hcell => hne ?_) v
      rw [hc] at hcell
      obtain ⟨hx, hidx⟩ := cell_owned hb hown hc
      obtain ⟨hx', hidx'⟩ := cell_owned hb hown hcell
      have heq : y' * b.width + x' = y * b.width + x := (Prod.mk.inj (hidx'.symm.trans hidx)).2
      have hcol : x' = x := by
        have hmod := congrArg (· % b.width) heq
        simpa only [Nat.mul_comm _ b.width, Nat.mul_add_mod, Nat.mod_eq_of_lt hx, Nat.mod_eq_of_lt hx'] using hmod
      subst hcol
      rw [Nat.eq_of_mul_eq_mul_right (Nat.zero_lt_of_lt hx) (Nat.add_right_cancel heq)]
  · exact sample_putSample_owned ho ho' hh x' y'

theorem sample_putSample_here {ty : SampleType} {h x y : Nat} (hcan : s.canWrite ty h x y = true) (v : Sample) :
    (s.putSample h x y v).sample h x y = some v := by
  unfold State.canWrite at hcan
  cases hc : s.cell h x y .write with
  | none => rw [hc] at hcan; cases hcan
  | some c => exact sample_putSample_self hc v

theorem Written.writeSample_ok {keep : List Nat} {h x y : Nat} (hw : Written keep s t) (v : Sample)
    (hcan : s.canWrite v.type h x y = true) :
    writeSample h x y v t = .ok () (t.putSample h x y v) :=
  Machine.writeSample_ok ((hw.room _ _ _ _).trans hcan)

/-! ### The block maps -/

/-- `t` is `s` with the entries of the positions `done` written into the block maps, and no other position's changed in the
map of first blocks. -/
structure CellsPut (hm : HfMeta) (s : State) (done : List (Nat × Nat)) (t : State) : Prop extends Written [] s t where
  covered : ∀ b ∈ done, ∃ n, t.sample hm.first b.1 b.2 = some (.nat (n + 1))
  other : ∀ b, b ∉ done → t.sample hm.first b.1 b.2 = s.sample hm.first b.1 b.2

section
variable {hm : HfMeta} {done : List (Nat × Nat)} {e : (Nat × Nat) × BlockMeta} {p : Params} {fh : FrameHeader} {r : Rect}

theorem cellsPut_refl (hm : HfMeta) (s : State) : CellsPut hm s [] s :=
  { written_refl [] s with
    covered := fun _ h => absurd h List.not_mem_nil
    other := fun _ _ => rfl }

theorem written_cellPut (hw : Written [] s t) (e : (Nat × Nat) × BlockMeta) : Written [] s (cellPut hm t e) :=
  ((hw.putSample (apart_nil s _) _ _ _).putSample (apart_nil s _) _ _ _).putSample (apart_nil s _) _ _ _

/-- The entry of a position is written there. -/
theorem placeCell_ok (hc : CellsPut hm s done t) (hnew : e.1 ∉ done) (hfree : s.sample hm.first e.1.1 e.1.2 = some (.nat 0))
    (hroom : s.canWrite .nat hm.transform e.1.1 e.1.2 = true ∧ s.canWrite .nat hm.first e.1.1 e.1.2 = true ∧
      s.canWrite .nat hm.quant e.1.1 e.1.2 = true) : placeCell hm e.2 e.1 t = .ok () (cellPut hm t e) := by
  obtain ⟨htransform, hfirst, hquant⟩ := hroom
  have hread : readSample hm.first e.1.1 e.1.2 t = .ok (.nat 0) t := readSample_ok ((hc.other _ hnew).trans hfree)
  have hw := hc.toWritten.putSample (apart_nil s hm.transform) e.1.1 e.1.2 (.nat e.2.t)
  have hw' := hw.putSample (apart_nil s hm.first) e.1.1 e.1.2 (.nat (if e.1 = (e.2.bx, e.2.byy) then 1 else 2))
  rw [placeCell, Op.bind_ok hread]
  exact (Op.bind_ok (check_ok rfl _ t) _).trans ((Op.bind_ok (hc.toWritten.writeSample_ok (.nat e.2.t) htransform) _).trans
    ((Op.bind_ok (hw.writeSample_ok (.nat _) hfirst) _).trans (hw'.writeSample_ok (.nat e.2.q) hquant)))

theorem CellsPut.cellPut (hc : CellsPut hm s done t) (ho : Owned s hm.transform ∧ Owned s hm.first ∧ Owned s hm.quant)
    (hne : hm.first ≠ hm.quant) (hroom : s.canWrite .nat hm.first e.1.1 e.1.2 = true) :
    CellsPut hm s (done ++ [e.1]) (cellPut hm t e) := by
  obtain ⟨htransform, hfirst, hquant⟩ := ho
  have hw := hc.toWritten.putSample (apart_nil s hm.transform) e.1.1 e.1.2 (.nat e.2.t)
  have hw' := hw.putSample (apart_nil s hm.first) e.1.1 e.1.2 (.nat (if e.1 = (e.2.bx, e.2.byy) then 1 else 2))
  have hhere : (Claims.cellPut hm t e).sample hm.first e.1.1 e.1.2 =
      some (.nat (if e.1 = (e.2.bx, e.2.byy) then 1 else 2)) :=
    (sample_putSample_owned (hw'.owned hquant) (hw'.owned hfirst) hne _ _).trans
      (sample_putSample_here ((hw.room _ _ _ _).trans hroom) _)
  have helse : ∀ b : Nat × Nat, b ≠ e.1 → (Claims.cellPut hm t e).sample hm.first b.1 b.2 = t.sample hm.first b.1 b.2 := fun b hb =>
    (sample_putSample_elsewhere (hw'.owned hquant) (hw'.owned hfirst) hb _).trans
      ((sample_putSample_elsewhere (hw.owned hfirst) (hw.owned hfirst) hb _).trans
        (sample_putSample_elsewhere (hc.toWritten.owned htransform) (hc.toWritten.owned hfirst) hb _))
  refine { written_cellPut hc.toWritten e with covered := fun b hb => ?_, other := fun b hb => ?_ }
  · by_cases hbe : b = e.1
    · subst hbe
      rw [hhere]
      split
      · exact ⟨0, rfl⟩
      · exact ⟨1, rfl⟩
    · have hdone : b ∈ done := (List.mem_append.1 hb).resolve_right fun h => hbe (List.mem_singleton.1 h)
      rw [helse b hbe]
      exact hc.covered b hdone
  · have hbe : b ≠ e.1 := fun h => hb (List.mem_append_right _ (List.mem_singleton.2 h))
    rw [helse b hbe]
    exact hc.other b fun h => hb (List.mem_append_left _ h)

theorem each_placeCell_ok {cells : List ((Nat × Nat) × BlockMeta)} (hc : CellsPut hm s done t)
    (ho : Owned s hm.transform ∧ Owned s hm.first ∧ Owned s hm.quant) (hne : hm.first ≠ hm.quant)
    (hnodup : (cells.map Prod.fst).Nodup) (hnew : ∀ e ∈ cells, e.1 ∉ done)
    (hfree : ∀ e ∈ cells, s.sample hm.first e.1.1 e.1.2 = some (.nat 0))
    (hroom : ∀ e ∈ cells, s.canWrite .nat hm.transform e.1.1 e.1.2 = true ∧ s.canWrite .nat hm.first e.1.1 e.1.2 = true ∧
      s.canWrite .nat hm.quant e.1.1 e.1.2 = true) :
    each cells (fun e => placeCell hm e.2 e.1) t = .ok () (cells.foldl (cellPut hm) t) ∧
      CellsPut hm s (done ++ cells.map Prod.fst) (cells.foldl (cellPut hm) t) := by
  induction cells generalizing done t with
  | nil => exact ⟨rfl, by rwa [List.map_nil, List.append_nil]⟩
  | cons e rest ih =>
    obtain ⟨hnewe, hnewrest⟩ := List.forall_mem_cons.1 hnew
    obtain ⟨hfreee, hfreerest⟩ := List.forall_mem_cons.1 hfree
    obtain ⟨hroome, hroomrest⟩ := List.forall_mem_cons.1 hroom
    obtain ⟨hfst, hnoduprest⟩ := List.nodup_cons.1 hnodup
    have hnext := ih (hc.cellPut ho hne hroome.2.1) hnoduprest (fun e' he' hmem => by
      rcases List.mem_append.1 hmem with hdone | heq
      · exact hnewrest e' he' hdone
      · exact hfst (List.mem_map.2 ⟨e', he', List.mem_singleton.1 heq⟩)) hfreerest hroomrest
    rw [each, Op.bind_ok (placeCell_ok hc hnewe hfreee hroome), List.map_cons]
    rw [List.append_assoc] at hnext
    exact hnext

/-- First blocks inside their groups are placed position by position. -/
theorem each_placeBlock {l : List BlockMeta} (h : ∀ m ∈ l, insideGroup p fh r m = true) :
    each l (placeBlock p fh r hm) = each (coveredCells p l) fun e => placeCell hm e.2 e.1 := by
  rw [coveredCells, each_flatMap]
  refine each_congr fun m hmem => ?_
  rw [each_map, placeBlock, h m hmem]
  rfl

theorem each_placeBlock_ok {l : List BlockMeta} (hfit : BlocksFit s p fh r hm l) :
    each l (placeBlock p fh r hm) s = .ok () ((coveredCells p l).foldl (cellPut hm) s) ∧
      CellsPut hm s ((coveredCells p l).map Prod.fst) ((coveredCells p l).foldl (cellPut hm) s) := by
  rw [each_placeBlock hfit.inside]
  exact each_placeCell_ok (cellsPut_refl hm s) hfit.owned hfit.maps hfit.apart (fun _ _ => List.not_mem_nil) hfit.free hfit.room

/-- A first block that leaves its group, or whose first position is covered, is malformed. -/
theorem placeBlock_error {pre : List (Nat × Nat)} {b : BlockMeta} (hc : CellsPut hm s pre t)
    (h : insideGroup p fh r b = false ∨ ∃ at_ more, coveredPositions p b.t b.bx b.byy = at_ :: more ∧
      (at_ ∈ pre ∨ ∃ v, s.sample hm.first at_.1 at_.2 = some v ∧ v ≠ .nat 0)) :
    placeBlock p fh r hm b t = .error (.fatal .format) t := by
  rw [placeBlock]
  cases hinside : insideGroup p fh r b with
  | false => exact Op.bind_error (check_trap rfl _ t) _
  | true =>
    obtain ⟨at_, more, hcov, htaken⟩ := h.resolve_left (by rw [hinside]; exact Bool.noConfusion)
    have hcover : ∃ v, t.sample hm.first at_.1 at_.2 = some v ∧ v ≠ .nat 0 := by
      by_cases hmem : at_ ∈ pre
      · obtain ⟨n, hn⟩ := hc.covered at_ hmem
        exact ⟨_, hn, fun heq => Nat.succ_ne_zero n (Sample.nat.inj heq)⟩
      · rw [hc.other at_ hmem]
        exact htaken.resolve_left hmem
    obtain ⟨v, hv, hne⟩ := hcover
    have hcell : placeCell hm b at_ t = .error (.fatal .format) t := by
      rw [placeCell, Op.bind_ok (readSample_ok hv)]
      exact Op.bind_error (check_trap (decide_eq_false hne) _ t) _
    rw [Op.bind_ok (check_ok rfl _ t), hcov, each]
    exact Op.bind_error hcell _

end

/-! ### The LF values and the tiles -/

section
variable {side : Side} {p : Params} {r : Rect} {maps : LfMaps}

theorem each_placeLf_ok (hfit : ValuesFit s p r side maps) (hw : Written [] s t) :
    each maps.lf (placeLf side) t =
        .ok () (maps.lf.foldl (fun t e => t.putSample ((side.lf[e.1.1]?).getD 0) e.1.2.1 e.1.2.2 (.int e.2)) t) ∧
      Written [] s (maps.lf.foldl (fun t e => t.putSample ((side.lf[e.1.1]?).getD 0) e.1.2.1 e.1.2.2 (.int e.2)) t) :=
  each_foldl_ok hw fun e he u hu => by
    obtain ⟨h, hside, hcan⟩ := hfit.lf e he
    refine ⟨?_, hu.putSample (apart_nil s _) _ _ _⟩
    rw [placeLf, Op.bind_ok (channelBuffer_ok hside u), hside]
    exact hu.writeSample_ok (.int e.2) hcan

theorem each_placeTile_ok (hfit : ValuesFit s p r side maps) (hw : Written [] s t) :
    each maps.corr (placeTile side.maps) t =
        .ok () (maps.corr.foldl (fun t e => (t.putSample side.maps.corrX e.tx e.ty (.int e.x)).putSample side.maps.corrB e.tx e.ty
          (.int e.b)) t) ∧
      Written [] s (maps.corr.foldl (fun t e => (t.putSample side.maps.corrX e.tx e.ty (.int e.x)).putSample side.maps.corrB e.tx e.ty
          (.int e.b)) t) :=
  each_foldl_ok hw fun e he u hu => by
    obtain ⟨hx, hb⟩ := hfit.corr e he
    have hu' := hu.putSample (apart_nil s side.maps.corrX) e.tx e.ty (.int e.x)
    refine ⟨?_, hu'.putSample (apart_nil s _) _ _ _⟩
    rw [placeTile, Op.bind_ok (hu.writeSample_ok (.int e.x) hx)]
    exact hu'.writeSample_ok (.int e.b) hb

/-! ### What the places hang on -/

theorem canWrite_of_img (h : t.img = s.img) : t.canWrite = s.canWrite := by
  funext ty k x y
  unfold State.canWrite State.cell
  rw [h]

theorem owned_of_img {h : Nat} (himg : t.img = s.img) (ho : Owned s h) : Owned t h := by
  rw [Owned, himg]
  exact ho

theorem blocksFit_of_img {fh : FrameHeader} {hm : HfMeta} {l : List BlockMeta} (h : BlocksFit s p fh r hm l) (himg : t.img = s.img) :
    BlocksFit t p fh r hm l where
  inside := h.inside
  apart := h.apart
  free := by rw [sample_of_img himg]; exact h.free
  room := by rw [canWrite_of_img himg]; exact h.room
  owned := ⟨owned_of_img himg h.owned.1, owned_of_img himg h.owned.2.1, owned_of_img himg h.owned.2.2⟩
  maps := h.maps

theorem valuesFit_of_img (h : ValuesFit s p r side maps) (himg : t.img = s.img) : ValuesFit t p r side maps where
  inside := h.inside
  lf := by rw [canWrite_of_img himg]; exact h.lf
  corr := by rw [canWrite_of_img himg]; exact h.corr

theorem putSample_img_congr (h : t.img = u.img) (k x y : Nat) (v : Sample) : (t.putSample k x y v).img = (u.putSample k x y v).img := by
  have hcell : t.cell k x y .write = u.cell k x y .write := by unfold State.cell; rw [h]
  simp only [State.putSample, hcell, h]
  cases hc : u.cell k x y .write with
  | none => exact h
  | some c =>
    dsimp only
    cases hb : assocGet u.img.bufs c.1 with
    | none => exact h
    | some b => simp only [State.setImg_img, h]

theorem foldl_img_congr {α : Type} {f : State → α → State} (hf : ∀ e t u, t.img = u.img → (f t e).img = (f u e).img)
    (xs : List α) (h : t.img = u.img) : (xs.foldl f t).img = (xs.foldl f u).img := by
  induction xs generalizing t u with
  | nil => exact h
  | cons e rest ih => exact ih (hf e t u h)

theorem cellPut_img_congr (hm : HfMeta) (e : (Nat × Nat) × BlockMeta) (t u : State) (h : t.img = u.img) :
    (cellPut hm t e).img = (cellPut hm u e).img :=
  putSample_img_congr (putSample_img_congr (putSample_img_congr h _ _ _ _) _ _ _ _) _ _ _ _

theorem mapsPut_img_congr (h : t.img = u.img) : (mapsPut p side t maps).img = (mapsPut p side u maps).img := by
  refine foldl_img_congr (fun e t u h => ?_) _ (foldl_img_congr (fun e t u h => ?_) _
    (foldl_img_congr (cellPut_img_congr side.maps) _ h))
  · exact putSample_img_congr (putSample_img_congr h _ _ _ _) _ _ _ _
  · exact putSample_img_congr h _ _ _ _

end

end Sys2Proof.Machine

/-! S.LFGROUP and S.HFGROUP (43_group_decoder.md R240, R243, R245). -/

namespace Sys2Proof.Machine

open Sys2Proof.Claims

variable {s t u : State} {fh : FrameHeader} {x : Section} {g pass : Nat} {r : Rect}

/-! ### After the Modular scope -/

/-- The state after a Modular scope of `n` bits without channels. -/
def State.modularDone (s : State) (n : Nat) : State := ((s.moved n).scopeDropped .modular).setMod fun _ => .reset

theorem Within.modularDone (h : Within s t) (n : Nat) : Within s (t.modularDone n) := ((h.moved n).setEnt _).setMod _

theorem modularDone_closed (hr : s.par.reader ≠ none) (n : Nat) :
    (((s.modularDone n).setPar fun p => { p with reader := none }).setRet .none) = modularClosed s := by
  obtain ⟨rd, hrd⟩ := Option.ne_none_iff_exists'.1 hr
  rw [State.modularDone, State.moved, hrd]
  rfl

section
variable {spec : ModSpec} {coder : ScopeSpec} {m n : Nat}

theorem lfGroupBody_modular (hfh : s.par.frame = some fh) (henc : fh.encoding = .modular) (he : EmptyModular s (.lf g) spec coder m n) :
    lfGroupBody g s = .ok () (s.modularDone (m + n)) := by
  rw [lfGroupBody, Op.bind_ok (getParams_apply s), Op.bind_ok (getFrame_ok hfh), Op.bind_ok (decodeModular_empty he _), henc]
  rfl

theorem hfGroupBody_modular (hfh : s.par.frame = some fh) (henc : fh.encoding = .modular)
    (he : EmptyModular s (.hf g pass) spec coder m n) : hfGroupBody g pass s = .ok () (s.modularDone (m + n)) := by
  rw [hfGroupBody, Op.bind_ok (getFrame_ok hfh), henc]
  exact Op.bind_ok (decodeModular_empty he _) _

theorem lfGroupBody_varDct (hfh : s.par.frame = some fh) (henc : fh.encoding = .varDct) (he : EmptyModular s (.lf g) spec coder m n) :
    lfGroupBody g s = placeMaps g (Cfg.lfMaps s.inp.params { group := g, frame := fh, channels := [] }) (s.modularDone (m + n)) := by
  rw [lfGroupBody, Op.bind_ok (getParams_apply s), Op.bind_ok (getFrame_ok hfh), Op.bind_ok (decodeModular_empty he _), henc]
  rfl

end

/-! ### The maps of an LF group -/

section
variable {p : Params} {maps : LfMaps} {side : Side}

/-- The state that has HFMETA. -/
def withMaps (s : State) (side : Side) : State := s.setGrp fun y => { y with hfMeta := some side.maps }

theorem placeMaps_unknown (hfh : t.par.frame = some fh) (hrect : fh.lfGroups[g]? = some r)
    (hbad : ∃ b ∈ maps.blocks, xtype t.inp.params b.t = none) : placeMaps g maps t = .error (.fatal .transform) t := by
  have hloop : each maps.blocks (fun m => check (xtype t.inp.params m.t).isSome .transform) t = .error (.fatal .transform) t :=
    each_error_of_mem hbad fun a _ => ⟨fun h => check_trap (by rw [h]; rfl) _ t, fun h =>
      check_ok (Option.isSome_iff_ne_none.2 h) _ t⟩
  rw [placeMaps, Op.bind_ok (getParams_apply t), Op.bind_ok (getFrame_ok hfh), hrect, Op.bind_ok (present_some r _ t),
    Op.bind_error hloop]

theorem placeMaps_known (hfh : t.par.frame = some fh) (hrect : fh.lfGroups[g]? = some r)
    (hgood : ∀ b ∈ maps.blocks, (xtype t.inp.params b.t).isSome = true) :
    placeMaps g maps t = (check (insideLfGroup t.inp.params r maps) .format >>= fun _ => getSide >>= fun side =>
      upd (fun s => withMaps s side) >>= fun _ => each maps.blocks (placeBlock t.inp.params fh r side.maps) >>= fun _ =>
        each maps.lf (placeLf side) >>= fun _ => each maps.corr (placeTile side.maps)) t := by
  have hloop : each maps.blocks (fun m => check (xtype t.inp.params m.t).isSome .transform) t = .ok () t :=
    each_unchanged fun a ha => check_ok (hgood a ha) _ t
  rw [placeMaps, Op.bind_ok (getParams_apply t), Op.bind_ok (getFrame_ok hfh), hrect, Op.bind_ok (present_some r _ t),
    Op.bind_ok hloop]
  rfl

theorem placeMaps_outside (hfh : t.par.frame = some fh) (hrect : fh.lfGroups[g]? = some r)
    (hgood : ∀ b ∈ maps.blocks, (xtype t.inp.params b.t).isSome = true) (hout : insideLfGroup t.inp.params r maps = false) :
    placeMaps g maps t = .error (.fatal .format) t := by
  rw [placeMaps_known hfh hrect hgood]
  exact Op.bind_error (check_trap hout _ t) _

theorem placeMaps_inside (hfh : t.par.frame = some fh) (hrect : fh.lfGroups[g]? = some r)
    (hgood : ∀ b ∈ maps.blocks, (xtype t.inp.params b.t).isSome = true) (hin : insideLfGroup t.inp.params r maps = true)
    (hside : t.grp.side = some side) :
    placeMaps g maps t = (each maps.blocks (placeBlock t.inp.params fh r side.maps) >>= fun _ =>
      each maps.lf (placeLf side) >>= fun _ => each maps.corr (placeTile side.maps)) (withMaps t side) := by
  rw [placeMaps_known hfh hrect hgood]
  exact (Op.bind_ok (check_ok hin _ t) _).trans ((Op.bind_ok (getSide_ok hside) _).trans (Op.bind_ok (upd_apply _ t) _))

theorem placeAll_ok (hblocks : BlocksFit t p fh r side.maps maps.blocks) (hvalues : ValuesFit t p r side maps) :
    (each maps.blocks (placeBlock p fh r side.maps) >>= fun _ => each maps.lf (placeLf side) >>= fun _ =>
      each maps.corr (placeTile side.maps)) t = .ok () (mapsPut p side t maps) ∧ Written [] t (mapsPut p side t maps) := by
  obtain ⟨hcells, hput⟩ := each_placeBlock_ok hblocks
  obtain ⟨hlf, hw⟩ := each_placeLf_ok hvalues hput.toWritten
  obtain ⟨hcorr, hw'⟩ := each_placeTile_ok hvalues hw
  exact ⟨by rw [Op.bind_ok hcells, Op.bind_ok hlf, hcorr]; rfl, hw'⟩

theorem placeBlocks_error {pre rest : List BlockMeta} {b : BlockMeta} (hpre : BlocksFit t p fh r side.maps pre)
    (h : insideGroup p fh r b = false ∨ ∃ at_ more, coveredPositions p b.t b.bx b.byy = at_ :: more ∧
      (at_ ∈ (coveredCells p pre).map Prod.fst ∨ ∃ v, t.sample side.maps.first at_.1 at_.2 = some v ∧ v ≠ .nat 0)) :
    ∃ u, each (pre ++ b :: rest) (placeBlock p fh r side.maps) t = .error (.fatal .format) u := by
  obtain ⟨hcells, hput⟩ := each_placeBlock_ok hpre
  refine ⟨(coveredCells p pre).foldl (cellPut side.maps) t, ?_⟩
  rw [each_append_ok hcells, each]
  exact Op.bind_error (placeBlock_error hput h) _

end

/-- The section's end, after its samples were written. -/
theorem mapsDone_closed (s : State) (x : Section) (n : Nat) (side : Side) (f : Buffers → Buffers) :
    ((((withMaps ((opened s x).modularDone n) side).setImg f).setPar fun p => { p with reader := none }).setRet .none) =
      modularClosed ((withMaps s side).setImg f) := by
  rw [State.modularDone, State.moved, show (opened s x).par.reader = some _ from rfl]
  rfl

/-! ### The block positions of a group -/

theorem groupRect_here {hf : HfBlock} (hhf : s.grp.hf = some hf) (hfh : s.par.frame = some fh) (hr : fh.groups[hf.group]? = some r) :
    groupRect s = .ok r s := by
  rw [groupRect, Op.bind_ok (getHf_ok hhf), Op.bind_ok (getFrame_ok hfh), hr, present_some]

/-- One channel of a first block. -/
def decodeOne (pass bx byy t c : Nat) : Op Unit := do
  let pred ← predNz c bx byy
  let nz ← decodeNz c pred t
  decodeCoeffs c t nz pass

end Sys2Proof.Machine

namespace Sys2Proof

open Claims Machine

theorem channelsRun_ok {pass bx byy t : Nat} {cs : List Nat} {s v : State} (h : ChannelsRun pass bx byy t cs s v) :
    each cs (decodeOne pass bx byy t) s = .ok () v := by
  induction h with
  | done => rfl
  | channel hpred hnz hcoeffs hrest ih =>
    have hone : decodeOne pass bx byy t _ _ = _ := (Op.bind_ok hpred _).trans ((Op.bind_ok hnz _).trans hcoeffs)
    rw [each, Op.bind_ok hone, ih]

theorem blocksRun_ok {pass : Nat} {r : Rect} {l : List (Nat × Nat)} {s x : State} (h : BlocksRun pass r l s x) :
    each l (fun b => decodeBlock pass b.1 b.2) s = .ok () x := by
  induction h with
  | done => rfl
  | @first b t hm rest s u v w x hrect hmeta hfirst htype hchannels hdeq hxform hrest ih =>
    have hwork : decodeFirstBlock pass b.1 b.2 t s = .ok () w := by
      rw [decodeFirstBlock, Op.bind_ok (getParams_apply s)]
      exact (Op.bind_ok (channelsRun_ok hchannels) _).trans ((Op.bind_ok hdeq _).trans hxform)
    have hblock : decodeBlock pass b.1 b.2 s = .ok () w := by
      rw [decodeBlock, Op.bind_ok hrect, Op.bind_ok (getHfMeta_ok hmeta)]
      exact (Op.bind_ok (readSample_ok hfirst) _).trans ((Op.bind_ok (check_ok rfl _ s) _).trans
        ((Op.bind_ok (readSample_ok htype) _).trans hwork))
    rw [each, Op.bind_ok hblock, ih]
  | @covered b hm e rest s x hrect hmeta hfirst hzero hone hrest ih =>
    have hblock : decodeBlock pass b.1 b.2 s = .ok () s := by
      rw [decodeBlock, Op.bind_ok hrect, Op.bind_ok (getHfMeta_ok hmeta)]
      refine (Op.bind_ok (readSample_ok hfirst) _).trans ((Op.bind_ok (check_ok (decide_eq_true hzero) _ s) _).trans ?_)
      simp only [if_neg hone]
      rfl
    rw [each, Op.bind_ok hblock, ih]

end Sys2Proof

namespace Sys2Proof.Machine

open Sys2Proof.Claims

variable {s t u : State} {fh : FrameHeader} {x : Section} {g pass : Nat} {r : Rect}

theorem decodeBlock_uncovered {hm : HfMeta} {b : Nat × Nat} (hrect : groupRect s = .ok r s) (hmeta : s.grp.hfMeta = some hm)
    (hzero : s.sample hm.first (framePos r b).1 (framePos r b).2 = some (.nat 0)) :
    decodeBlock pass b.1 b.2 s = .error (.fatal .format) s := by
  rw [decodeBlock, Op.bind_ok hrect, Op.bind_ok (getHfMeta_ok hmeta)]
  exact (Op.bind_ok (readSample_ok hzero) _).trans (Op.bind_error (check_trap rfl _ s) _)

theorem KeptByReading.scopeStart {sc : ScopeId} {P : State → Prop} (hP : KeptByReading sc P) : Keeps P (scopeStart sc) := by
  refine .bind (hP.setScope _) fun _ => .bind .getState fun s => ?_
  cases (s.scope sc).coder with
  | huff => exact .pure ()
  | ans =>
    dsimp only
    split
    · exact .pure ()
    · exact .bind (.bind (hP.readBits 32) fun _ => .bind (hP.setScope _) fun _ => .pure _) fun _ => .pure _

theorem hfGroupBody_varDct (hfh : s.par.frame = some fh) (henc : fh.encoding = .varDct) (hr : fh.groups[g]? = some r)
    (hstart : scopeStart (.ac pass) (groupStarted s g pass) = .ok () t) :
    hfGroupBody g pass s = (each (groupBlocks r) (fun b => decodeBlock pass b.1 b.2) >>= fun _ => scopeFinal (.ac pass) >>= fun _ =>
      setScope (.ac pass) (fun e => { e with ansState := none }) >>= fun _ => upd fun s => s.setGrp fun x => { x with hf := none }) t := by
  have hsame := (SameButReading.kept (.ac pass) (groupStarted s g pass)).scopeStart.of_ok (sameButReading_refl _ _) hstart
  have hrect : groupRect t = .ok r t :=
    groupRect_here (hf := { group := g, pass := pass, blk := (0, 0), nzMap := [], nzLeft := 0, scanPos := 0, prevNz := false })
      (by rw [hsame.grp]; rfl) (by rw [hsame.par]; exact hfh) hr
  rw [hfGroupBody, Op.bind_ok (getFrame_ok hfh), henc]
  refine (Op.bind_ok (upd_apply _ s) _).trans ((Op.bind_ok hstart _).trans ((Op.bind_ok hrect _).trans ?_))
  rw [groupBlocks, each_map]

/-- Settles O27: the Modular scope, then the maps' places; and the block positions of a group one after the other. -/
theorem groupSections : Obligations.GroupSections := by
  refine ⟨?_, ?_, ?_, ?_, ?_⟩
  · intro s sec g x fh m n spec coder hx hfh henc he
    exact (section_ok hx (lfGroupBody_modular hfh henc he)).trans (congrArg _ (modularDone_closed (Option.some_ne_none _) _))
  · intro s sec g p x fh m n spec coder hx hfh henc he
    exact (section_ok hx (hfGroupBody_modular hfh henc he)).trans (congrArg _ (modularDone_closed (Option.some_ne_none _) _))
  · intro s sec g x fh m n spec coder maps side r hx hfh henc he hmaps hside hrect
    have hin := (within_opened s x).modularDone (m + n)
    have hfh' : ((opened s x).modularDone (m + n)).par.frame = some fh := hin.frame.trans hfh
    have hparams : ((opened s x).modularDone (m + n)).inp.params = s.inp.params := by rw [hin.inp]
    have hside' : ((opened s x).modularDone (m + n)).grp.side = some side := by
      rw [State.modularDone, State.moved, show (opened s x).par.reader = some _ from rfl]
      exact hside
    have hbody := lfGroupBody_varDct (s := opened s x) hfh henc he
    rw [← hparams] at hmaps ⊢
    rw [show (opened s x).inp.params = _ from hparams.symm, ← hmaps] at hbody
    refine ⟨fun hbad => section_trap_within hx (hbody.trans (placeMaps_unknown hfh' hrect hbad)) hin,
      fun hgood => ⟨fun hblocks hvalues => ?_, fun hout =>
        section_trap_within hx (hbody.trans (placeMaps_outside hfh' hrect hgood hout)) hin,
        fun pre b rest hsplit hvalues hpre hbad => ?_⟩⟩
    · have himg : (withMaps ((opened s x).modularDone (m + n)) side).img = s.img := hin.img
      obtain ⟨hall, hw⟩ := placeAll_ok (blocksFit_of_img hblocks himg) (valuesFit_of_img hvalues himg)
      have hdone := (placeMaps_inside hfh' hrect hgood hvalues.inside hside').trans hall
      refine (section_ok hx (hbody.trans hdone)).trans (congrArg _ ?_)
      rw [hw.rest, mapsPut_img_congr (u := withMaps s side) himg]
      obtain ⟨-, hw'⟩ := placeAll_ok (t := withMaps s side) (blocksFit_of_img hblocks rfl) (valuesFit_of_img hvalues rfl)
      exact (mapsDone_closed s x _ side _).trans (congrArg modularClosed hw'.rest.symm)
    · have himg : (withMaps ((opened s x).modularDone (m + n)) side).img = s.img := hin.img
      rw [← sample_of_img himg] at hbad
      obtain ⟨u, hu⟩ := placeBlocks_error (rest := rest) (blocksFit_of_img hpre himg) hbad
      refine ⟨u, section_trap hx (hbody.trans ((placeMaps_inside hfh' hrect hgood hvalues.inside hside').trans ?_))⟩
      rw [hsplit]
      exact Op.bind_error hu _
  · intro s s1 s2 s3 sec g pass x fh r hx hfh henc hr hstart hblocks hfinal
    have hbody : hfGroupBody g pass (opened s x) = .ok () _ := (hfGroupBody_varDct (s := opened s x) hfh henc hr hstart).trans
      ((Op.bind_ok (blocksRun_ok hblocks) _).trans ((Op.bind_ok hfinal _).trans ((Op.bind_ok (setScope_ok _ _ s3) _).trans
        (upd_apply _ _))))
    exact section_ok hx hbody
  · intro s s1 s2 sec g pass x fh r hm b pre rest hx hfh henc hr hstart hsplit hblocks hrect hmeta hzero
    refine section_trap hx ((hfGroupBody_varDct (s := opened s x) hfh henc hr hstart).trans (Op.bind_error ?_ _))
    rw [hsplit, each_append_ok (blocksRun_ok hblocks), each]
    exact Op.bind_error (decodeBlock_uncovered hrect hmeta hzero) _

end Sys2Proof.Machine

/-! S.LFGLOBAL (43_group_decoder.md R242): the frame's buffers, the six members and the pipeline. -/

namespace Sys2Proof.Machine

open Sys2Proof.Claims

variable {s t u : State} {fh : FrameHeader} {ih : ImageHeader} {x : Section}

/-! ### Buffers allocated in order -/

theorem allocatedAll_next (s : State) (l : List (Nat × Nat × SampleType)) :
    (s.allocatedAll l).img.next = s.img.next + l.length := by
  induction l generalizing s with
  | nil => rfl
  | cons e rest ih =>
    rw [State.allocatedAll, ih, List.length_cons]
    exact Nat.add_right_comm _ 1 _

theorem isSome_allocatedAll {l : List (Nat × Nat × SampleType)} {j : Nat} (hj : j < l.length) :
    (assocGet (s.allocatedAll l).img.bufs (s.img.next + j)).isSome = true := by
  induction l generalizing s j with
  | nil => exact absurd hj (Nat.not_lt_zero j)
  | cons e rest ih =>
    rw [State.allocatedAll]
    cases j with
    | zero =>
      rw [Nat.add_zero, assocGet_allocatedAll (Nat.lt_succ_self _), State.allocated, State.setImg_img, assocGet_assocSet, if_pos rfl]
      rfl
    | succ j =>
      rw [← Nat.add_assoc, Nat.add_right_comm]
      exact ih (s := s.allocated e.1 e.2.1 e.2.2) (Nat.lt_of_succ_lt_succ hj)

theorem handles_succ (s : State) (k n : Nat) : handles s k (n + 1) = (s.img.next + k) :: handles s (k + 1) n := by
  rw [handles, List.range_succ_eq_map, List.map_cons, List.map_map]
  simp only [handles, Function.comp_def, Nat.add_zero, Nat.succ_eq_add_one, Nat.add_assoc, Nat.add_comm 1]

theorem handles_eq {k : Nat} (h : t.img.next = s.img.next + k) (n : Nat) : handles t 0 n = handles s k n := by
  rw [handles, handles, h]
  rfl

theorem allocAll_ok {l : List (Nat × Nat × SampleType)} (h : ∀ j e, l[j]? = some e → s.grants (s.img.next + j) e = true) :
    allocAll l s = .ok (handles s 0 l.length) (s.allocatedAll l) := by
  induction l generalizing s with
  | nil => rfl
  | cons e rest ih =>
    have hrest := ih (s := s.allocated e.1 e.2.1 e.2.2) fun j e' he' => by
      rw [grants_of_inp (t := s.allocated e.1 e.2.1 e.2.2) (s := s) rfl]
      have hj := h (j + 1) e' he'
      rwa [← Nat.add_assoc, Nat.add_right_comm] at hj
    rw [handles_eq (s := s) (k := 1) rfl] at hrest
    rw [allocAll] at hrest ⊢
    rw [collect, Op.bind_ok (alloc_ok (h 0 e rfl)), Op.bind_ok hrest, List.length_cons, handles_succ]
    rfl

theorem allocatedAll_setGrp (s : State) (f : Groups → Groups) (l : List (Nat × Nat × SampleType)) :
    (s.setGrp f).allocatedAll l = (s.allocatedAll l).setGrp f := by
  induction l generalizing s with
  | nil => rfl
  | cons e rest ih => exact ih (s.allocated e.1 e.2.1 e.2.2)

theorem allocatedAll_setPar (s : State) (f : Parsing → Parsing) (l : List (Nat × Nat × SampleType)) :
    (s.setPar f).allocatedAll l = (s.allocatedAll l).setPar f := by
  induction l generalizing s with
  | nil => rfl
  | cons e rest ih => exact ih (s.allocated e.1 e.2.1 e.2.2)

/-! ### Buffers of zeros -/

/-- The state with the samples of one buffer zero. -/
def State.zeroOne (s : State) (h : Nat) : State :=
  match assocGet s.img.bufs h with
  | none => s
  | some b => s.setImg fun i =>
    { i with bufs := assocSet i.bufs h { b with samples := (List.range (b.width * b.height)).map fun k => (k, zeroSample b.ty) } }

theorem zeroed_cons (s : State) (h : Nat) (l : List Nat) : zeroed s (h :: l) = zeroed (s.zeroOne h) l := rfl

theorem zeroOne_eq (s : State) (h : Nat) : s.zeroOne h = s.setImg fun _ => (s.zeroOne h).img := by
  unfold State.zeroOne
  split <;> rfl

theorem zeroOne_setGrp (s : State) (f : Groups → Groups) (h : Nat) : (s.setGrp f).zeroOne h = (s.zeroOne h).setGrp f := by
  unfold State.zeroOne
  rw [State.setGrp_img]
  cases assocGet s.img.bufs h <;> rfl

theorem zeroOne_setPar (s : State) (f : Parsing → Parsing) (h : Nat) : (s.setPar f).zeroOne h = (s.zeroOne h).setPar f := by
  unfold State.zeroOne
  rw [State.setPar_img]
  cases assocGet s.img.bufs h <;> rfl

theorem zeroed_eq (s : State) (l : List Nat) : zeroed s l = s.setImg fun _ => (zeroed s l).img := by
  induction l generalizing s with
  | nil => rfl
  | cons h rest ih => rw [zeroed_cons, ih, zeroOne_eq]; rfl

theorem zeroed_setGrp (s : State) (f : Groups → Groups) (l : List Nat) : zeroed (s.setGrp f) l = (zeroed s l).setGrp f := by
  induction l generalizing s with
  | nil => rfl
  | cons h rest ih => rw [zeroed_cons, zeroed_cons, zeroOne_setGrp, ih]

theorem zeroed_setPar (s : State) (f : Parsing → Parsing) (l : List Nat) : zeroed (s.setPar f) l = (zeroed s l).setPar f := by
  induction l generalizing s with
  | nil => rfl
  | cons h rest ih => rw [zeroed_cons, zeroed_cons, zeroOne_setPar, ih]

theorem isSome_zeroOne {k : Nat} (hk : (assocGet s.img.bufs k).isSome = true) (h : Nat) :
    (assocGet (s.zeroOne h).img.bufs k).isSome = true := by
  unfold State.zeroOne
  cases hb : assocGet s.img.bufs h with
  | none => exact hk
  | some b =>
    dsimp only [State.setImg_img]
    rw [assocGet_assocSet]
    split
    · rfl
    · exact hk

theorem zeroFill_ok {h : Nat} (hh : (assocGet s.img.bufs h).isSome = true) : zeroFill h s = .ok () (s.zeroOne h) := by
  obtain ⟨b, hb⟩ := Option.isSome_iff_exists.1 hh
  rw [zeroFill, Op.bind_ok (getBuf_ok hb), State.zeroOne, hb]
  rfl

theorem each_zeroFill_ok {l : List Nat} (hl : ∀ h ∈ l, (assocGet s.img.bufs h).isSome = true) :
    each l zeroFill s = .ok () (zeroed s l) := by
  induction l generalizing s with
  | nil => rfl
  | cons h rest ih =>
    obtain ⟨hh, hrest⟩ := List.forall_mem_cons.1 hl
    rw [each, Op.bind_ok (zeroFill_ok hh), zeroed_cons, ih fun k hk => isSome_zeroOne (hrest k hk) h]

theorem isSome_zeroed {k : Nat} (hk : (assocGet s.img.bufs k).isSome = true) (l : List Nat) :
    (assocGet (zeroed s l).img.bufs k).isSome = true := by
  induction l generalizing s with
  | nil => exact hk
  | cons h rest ih => exact ih (isSome_zeroOne hk h)

theorem zeroed_concat (s : State) (l : List Nat) (h : Nat) : zeroed s (l ++ [h]) = (zeroed s l).zeroOne h := by
  induction l generalizing s with
  | nil => rfl
  | cons k rest ih => exact ih (s.zeroOne k)

theorem zeroFills_ok {l : List Nat} {h : Nat} (hl : ∀ k ∈ l, (assocGet s.img.bufs k).isSome = true)
    (hh : (assocGet s.img.bufs h).isSome = true) (f : State → State) :
    (each l zeroFill >>= fun _ => zeroFill h >>= fun _ => upd f) s = .ok () (f (zeroed s (l ++ [h]))) := by
  rw [Op.bind_ok (each_zeroFill_ok hl), Op.bind_ok (zeroFill_ok (isSome_zeroed hh l)), zeroed_concat]
  rfl

/-! ### The buffers of a frame -/

section
variable {planes side : List (Nat × Nat × SampleType)}

theorem isSome_handles {k n : Nat} {l : List (Nat × Nat × SampleType)} (h : k + n ≤ l.length) {a : Nat} (ha : a ∈ handles s k n) :
    (assocGet (s.allocatedAll l).img.bufs a).isSome = true := by
  obtain ⟨j, hj, rfl⟩ := List.mem_map.1 ha
  rw [Nat.add_assoc]
  exact isSome_allocatedAll (Nat.lt_of_lt_of_le (Nat.add_lt_add_left (List.mem_range.1 hj) k) h)

theorem withBuffers_eq (s : State) (fh : FrameHeader) (planes side : List (Nat × Nat × SampleType)) :
    withBuffers s fh planes side = { s with
      img := (withBuffers s fh planes side).img, grp := (withBuffers s fh planes side).grp } := by
  unfold withBuffers
  cases fh.encoding with
  | modular => dsimp only; rw [allocatedAll_eq]; rfl
  | varDct => dsimp only; rw [zeroed_eq, allocatedAll_eq, allocatedAll_eq s]; rfl

theorem withBuffers_setPar (s : State) (f : Parsing → Parsing) (fh : FrameHeader) (planes side : List (Nat × Nat × SampleType)) :
    withBuffers (s.setPar f) fh planes side = (withBuffers s fh planes side).setPar f := by
  unfold withBuffers
  cases fh.encoding with
  | modular => dsimp only; rw [allocatedAll_setPar]; rfl
  | varDct => dsimp only; rw [allocatedAll_setPar, allocatedAll_setPar, zeroed_setPar]; rfl

theorem withBuffers_planes (s : State) (fh : FrameHeader) (planes side : List (Nat × Nat × SampleType)) :
    (withBuffers s fh planes side).grp.planes.length = planes.length := by
  unfold withBuffers
  cases fh.encoding <;> simp [handles]

theorem frameBuffers_ok (hih : s.par.imageHeader = some ih) (hfh : s.par.frame = some fh)
    (hplanes : ∀ j e, (planeShapes s.inp.params ih fh)[j]? = some e → s.grants (s.img.next + j) e = true)
    (hside : fh.encoding = .varDct → ∀ j e, (sideShapes s.inp.params fh)[j]? = some e →
      s.grants (s.img.next + (planeShapes s.inp.params ih fh).length + j) e = true) :
    frameBuffers s = .ok () (withBuffers s fh (planeShapes s.inp.params ih fh) (sideShapes s.inp.params fh)) := by
  rw [frameBuffers, Op.bind_ok (getParams_apply s), Op.bind_ok (getImageHeader_ok hih), Op.bind_ok (getFrame_ok hfh),
    Op.bind_ok (allocAll_ok hplanes), Op.bind_ok (upd_apply _ _), withBuffers]
  generalize planeShapes s.inp.params ih fh = planes at *
  cases henc : fh.encoding with
  | modular =>
    dsimp only
    rw [allocatedAll_eq]
    rfl
  | varDct =>
    have hlen : (sideShapes s.inp.params fh).length = 14 := rfl
    have hside := hside henc
    generalize sideShapes s.inp.params fh = side at *
    have hinp : (s.allocatedAll planes).inp = s.inp := by rw [allocatedAll_eq]; rfl
    have hnext := allocatedAll_next s planes
    have hpresent : ∀ {a : Nat}, a ∈ handles s planes.length 14 →
        (assocGet ((s.allocatedAll planes).allocatedAll side).img.bufs a).isSome = true := fun ha => by
      rw [← handles_eq hnext] at ha
      exact isSome_handles (by rw [hlen]) ha
    have halloc : allocAll side ((s.allocatedAll planes).setGrp fun g => { g with planes := handles s 0 planes.length }) =
        .ok (handles s planes.length 14) (((s.allocatedAll planes).allocatedAll side).setGrp fun g =>
          { g with planes := handles s 0 planes.length }) := by
      rw [allocAll_ok (s := (s.allocatedAll planes).setGrp _) fun j e he => by
        rw [grants_of_inp (t := (s.allocatedAll planes).setGrp _) hinp, State.setGrp_img, hnext]
        exact hside j e he, handles_eq (t := (s.allocatedAll planes).setGrp _) hnext, hlen, allocatedAll_setGrp]
    have hfirst : (Side.ofHandles (handles s planes.length 14)).maps.first ∈ handles s planes.length 14 :=
      List.mem_of_getElem? (i := 10) rfl
    have hgrp : (zeroed ((s.allocatedAll planes).allocatedAll side) (handles s planes.length 3 ++ handles s (planes.length + 10) 1)).grp =
        s.grp := by
      rw [zeroed_eq, allocatedAll_eq, allocatedAll_eq s]
      rfl
    refine (Op.bind_ok halloc _).trans ((zeroFills_ok
      (s := ((s.allocatedAll planes).allocatedAll side).setGrp _) (fun a ha => hpresent (List.mem_of_mem_take ha))
      (hpresent hfirst) _).trans ?_)
    have hzero : (handles s planes.length 14).take 3 ++ [(Side.ofHandles (handles s planes.length 14)).maps.first] =
      handles s planes.length 3 ++ handles s (planes.length + 10) 1 := rfl
    rw [zeroed_setGrp, hlen, hzero]
    dsimp only
    rw [State.setGrp, State.setGrp, hgrp]

end

/-! ### The six members and the pipeline -/

theorem parse_at {α : Type} {f : Bits → Answer α} {v : α} {a n : Nat} (h : (s.moved a).answers f v n) :
    parse f (s.moved a) = .ok v (s.moved (a + n)) := by
  rw [parse_ok h, moved_moved]

theorem answers_at {α : Type} {f : Bits → Answer α} {v : α} {a n : Nat} (hreader : t.par.reader = s.par.reader)
    (hr : s.par.reader ≠ none) (h : (s.moved a).answers f v n) : (t.moved a).answers f v n :=
  answers_of_reader (moved_reader_congr hreader hr a) (moved_reader_ne_none hr a) h

theorem sharedTree_absent {a n : Nat} (h : (s.moved a).answers (Cfg.sharedTreeFlag s.inp.params) false n) :
    sharedTree (s.moved a) = .ok none (s.moved (a + n)) := by
  have hparams : (s.moved a).inp.params = s.inp.params := by rw [moved_inp]
  rw [sharedTree, Op.bind_ok (getParams_apply _), hparams, Op.bind_ok (parse_at h)]
  rfl

/-- The state with LFGLOBAL and its pipeline. -/
theorem startRender_ok {g : LfGlobal} (hih : s.par.imageHeader = some ih) (hfh : s.par.frame = some fh) :
    startRender (s.setGrp fun x => { x with lfGlobal := some g }) = .ok () (withPipeline s ih fh g s.grp.planes.length) := by
  rw [startRender, Op.bind_ok (getImageHeader_ok (s := s.setGrp _) hih), Op.bind_ok (getFrame_ok (s := s.setGrp _) hfh),
    Op.bind_ok (getLfGlobal_ok (g := g) rfl)]
  rfl

/-- The six members, the shared tree's flag, LFGLOBAL and the pipeline, after the buffers. -/
def lfMembers (p : Params) (enc : Encoding) : Op Unit := do
  let patches ← parse (Cfg.lfMember p enc .patches)
  let splines ← parse (Cfg.lfMember p enc .splines)
  let noise ← parse (Cfg.lfMember p enc .noise)
  let quantizer ← parse (Cfg.lfMember p enc .quantizer)
  let blockCtx ← parse (Cfg.lfMember p enc .blockCtx)
  let colorCorr ← parse (Cfg.lfMember p enc .colorCorr)
  let tree ← sharedTree
  upd fun s => s.setGrp fun g =>
    { g with
      lfGlobal := some
        { patches := patches, splines := splines, noise := noise, quantizer := quantizer, blockCtx := blockCtx
          colorCorr := colorCorr, sharedTree := tree } }
  startRender

theorem lfGlobalBody_eq : lfGlobalBody = (do
    let p ← getParams
    let fh ← getFrame
    frameBuffers
    lfMembers p fh.encoding
    let _ ← decodeModular .global (streamOf fh .global)
    pure ()) := by
  simp only [lfGlobalBody, lfMembers, bind_assoc]

theorem lfMembers_ok {g : LfGlobal} {k : Nat} (hreader : t.par.reader = s.par.reader) (hr : s.par.reader ≠ none)
    (hinp : t.inp = s.inp) (hih : t.par.imageHeader = some ih) (hfh : t.par.frame = some fh) (hsfh : s.par.frame = some fh)
    (hd : SideData s g k) :
    lfMembers s.inp.params fh.encoding t = .ok () (withPipeline (t.moved k) ih fh g (t.moved k).grp.planes.length) := by
  obtain ⟨⟨enc, a, b, c, d, e, f, h, henc, hpatches, hsplines, hnoise, hquantizer, hblockCtx, hcolorCorr, hflag, rfl⟩, hnone⟩ := hd
  obtain rfl : fh.encoding = enc := by
    rw [hsfh] at henc
    exact Option.some.inj henc
  have hflag' := answers_at hreader hr hflag
  rw [← hinp] at hflag'
  have hg : g = { g with sharedTree := none } := by rw [← hnone]
  rw [lfMembers, Op.bind_ok (parse_ok (answers_of_reader hreader hr hpatches)), Op.bind_ok (parse_at (answers_at hreader hr hsplines)),
    Op.bind_ok (parse_at (answers_at hreader hr hnoise)), Op.bind_ok (parse_at (answers_at hreader hr hquantizer)),
    Op.bind_ok (parse_at (answers_at hreader hr hblockCtx)), Op.bind_ok (parse_at (answers_at hreader hr hcolorCorr)),
    Op.bind_ok (sharedTree_absent hflag'), Op.bind_ok (upd_apply _ _)]
  rw [hg]
  exact startRender_ok (by rw [moved_imageHeader]; exact hih) (by rw [moved_frame]; exact hfh)

section
variable {planes side : List (Nat × Nat × SampleType)} {g : LfGlobal} {k m n : Nat} {spec : ModSpec} {coder : ScopeSpec}

theorem withBuffers_par : (withBuffers s fh planes side).par = s.par := by rw [withBuffers_eq]
theorem withBuffers_inp : (withBuffers s fh planes side).inp = s.inp := by rw [withBuffers_eq]

/-- The section's position is no part of what it leaves. -/
theorem modularClosed_withPipeline (s : State) (x : Section) (k n : Nat) :
    modularClosed (withPipeline ((opened s x).moved k) ih fh g n) = modularClosed (withPipeline s ih fh g n) := by
  rw [State.moved, show (opened s x).par.reader = some _ from rfl]
  rfl

theorem lfGlobalBody_ok (hih : s.par.imageHeader = some ih) (hfh : s.par.frame = some fh)
    (hbuffers : frameBuffers (opened s x) = .ok () (opened (withBuffers s fh planes side) x)) (hd : SideData (opened s x) g k)
    (he : EmptyModular ((opened s x).moved k) .global spec coder m n) :
    lfGlobalBody (opened s x) = .ok () ((withPipeline ((opened (withBuffers s fh planes side) x).moved k) ih fh g planes.length).modularDone
      (m + n)) := by
  have hr : (opened s x).par.reader ≠ none := Option.some_ne_none _
  have hreader : (opened (withBuffers s fh planes side) x).par.reader = (opened s x).par.reader := rfl
  have hinp : (opened (withBuffers s fh planes side) x).inp = (opened s x).inp := withBuffers_inp
  have hih' : (opened (withBuffers s fh planes side) x).par.imageHeader = some ih :=
    (congrArg Parsing.imageHeader withBuffers_par).trans hih
  have hfh' : (opened (withBuffers s fh planes side) x).par.frame = some fh := (congrArg Parsing.frame withBuffers_par).trans hfh
  have hplanes : ((opened (withBuffers s fh planes side) x).moved k).grp.planes.length = planes.length := by
    rw [moved_grp]
    exact withBuffers_planes s fh planes side
  have hmembers := lfMembers_ok hreader hr hinp hih' hfh' hfh hd
  rw [hplanes] at hmembers
  have hmodular := decodeModular_empty (emptyModular_congr he
    (t := withPipeline ((opened (withBuffers s fh planes side) x).moved k) ih fh g planes.length)
    (moved_reader_congr hreader hr k) (moved_reader_ne_none hr k) (by
      show ((opened (withBuffers s fh planes side) x).moved k).inp.params = _
      rw [moved_inp, moved_inp, hinp]) (by
      show ((opened (withBuffers s fh planes side) x).moved k).par.frame = _
      rw [moved_frame, moved_frame, hfh']
      exact hfh.symm) (by
      show ((opened (withBuffers s fh planes side) x).moved k).par.imageHeader = _
      rw [moved_imageHeader, moved_imageHeader, hih']
      exact hih.symm)) (streamOf fh .global)
  rw [lfGlobalBody_eq, Op.bind_ok (getParams_apply _), Op.bind_ok (getFrame_ok (s := opened s x) hfh), Op.bind_ok hbuffers,
    Op.bind_ok hmembers, Op.bind_ok hmodular]
  rfl

end

/-- Settles O26: the section's decode part by part, with the stages that `stagesOf` gives. -/
theorem lfGlobalSection : Obligations.LfGlobalSection := by
  refine ⟨?_, fun p a n => ⟨fun hcms st hst => ⟨not_cms_stagesOf hcms (.inl rfl) hst, not_cms_stagesOf hcms (.inr rfl) hst⟩,
    placed_spot,
    fun h st hst id => not_spot_stagesOf h hst id, placed_premultiply, fun h st hst => not_premultiply_stagesOf h hst⟩,
    fun p ih n c => mem_spotSet⟩
  intro s sec x ih fh g k m n spec coder hx hih hfh hplanes hside hd he
  have hbuffers := frameBuffers_ok (s := opened s x) hih hfh hplanes hside
  rw [opened, withBuffers_setPar] at hbuffers
  refine (section_ok hx (lfGlobalBody_ok hih hfh hbuffers hd he)).trans (congrArg _ ?_)
  exact (modularDone_closed (s := withPipeline ((opened _ x).moved k) ih fh g _)
    (moved_reader_ne_none (s := opened _ x) (Option.some_ne_none _) k) _).trans (modularClosed_withPipeline _ x k _)

end Sys2Proof.Machine
